-- ==== Sys2Proof/Word.lean ====
section
/-! DEFINITION. The word types and their plainest arithmetic. -/

namespace Sys2Proof

/-- A byte (R5). -/
abbrev Byte := BitVec 8

/-- A 32-bit register or instruction word (R9, R87). -/
abbrev Word := BitVec 32

/-- A 64-bit value: a register pair, a program counter, an address (R9, R72, R139). -/
abbrev DWord := BitVec 64

end Sys2Proof
end

