-- ==== Sys2Proof/Config.lean ====
section
/-! DEFINITION. What an implementation fixes and the spec leaves open: sizes of the part (R2), and the
free values, which have no body, so that no proof can rest on what they are. -/

namespace Sys2Proof.Config

/-- Compute dies (R2). -/
def dies : Nat := 4
/-- Clusters of a die (R2). -/
def clusters : Nat := 24
/-- Cores of a cluster (R2). -/
def cores : Nat := 4
/-- Entries of a core's group table (R2, R20). -/
def gtab : Nat := 256
/-- Resident blocks and warps of a core (R2, R60). -/
def maxBlocks : Nat := 32
/-- Resident warps of a core (R2, R60). -/
def maxWarps : Nat := 64
/-- Accumulator tiles of a matrix engine (R242). -/
def tiles : Nat := 128
/-- Entries of the matrix reservation table (R242). -/
def mrt : Nat := 64
/-- Entries of a task queue (R46). -/
def taskQueue : Nat := 1024
/-- Entries of the fired-template buffer of a die (R49). -/
def firedBuffer : Nat := 256
/-- Entries of a core's translation buffer (R2). -/
def coreTlb : Nat := 256
/-- Entries of a cluster's translation buffer (R2). -/
def clusterTlb : Nat := 4096
/-- Ways of a cluster's translation buffer, and so its sets (R2). -/
def clusterTlbWays : Nat := 8
/-- Walks that a die's walker runs at once (R2, R75), and those of a sealed context (R86). -/
def walks : Nat := 128
def sealedWalks : Nat := 16
/-- Sets and ways of a die's L2: 64 MiB of lines of 128 bytes (R2, R70). -/
def l2Sets : Nat := 32768
def l2Ways : Nat := 16
/-- Lines of a core's instruction cache: 128 KiB (R2). -/
def codeLines : Nat := 1024
/-- Entries of the request queue of an atomic service warp (R357). -/
def aswQueue : Nat := 256
/-- Entries of a pipe (R364). -/
def pipe : Nat := 8
/-- Cycles of a microsecond at 1.0 GHz (R6). -/
def usCycles : Nat := 1000

/-- Free: which of several things that may happen next happens first (assumption 1). -/
opaque freeChoice : Nat → Nat
/-- Free: the old or the new value of a word that a racing party reads (R216, R227 and the engine
chapters); true reads the new one (assumption 6). -/
opaque freeRace : Nat → Bool
/-- Free: the old or the new value of a byte of memory that a unit reads while another party writes it, by the count of
free values taken and the byte's address; true reads the new one (R341, R349; assumption 6). -/
opaque freeByte : Nat → Nat → Bool
/-- Free: the number of groups or of bytes that an interrupted operation still performs, where the spec
allows any (R231, R412, R418; assumption 6). -/
opaque freeCount : Nat → Nat

/-- Free candidates for the results of the special functions (R199) away from the points that the rule
makes exact; a candidate outside the rule's bound is not used (assumption 5). -/
opaque sfuRcp : Word → Word
/-- Free candidate of RSQ (R199; assumption 5). -/
opaque sfuRsq : Word → Word
/-- Free candidate of EXP2 (R199; assumption 5). -/
opaque sfuExp2 : Word → Word
/-- Free candidate of LOG2 (R199; assumption 5). -/
opaque sfuLog2 : Word → Word
/-- Free candidate of SINP (R199; assumption 5). -/
opaque sfuSinp : Word → Word
/-- Free candidate of COSP (R199; assumption 5). -/
opaque sfuCosp : Word → Word
/-- Free candidate of TANH (R199; assumption 5). -/
opaque sfuTanh : Word → Word
/-- Free candidate of SIGM (R199; assumption 5). -/
opaque sfuSigm : Word → Word
/-- Free candidate of P2(d) of R201, as an FP32 code, for the difference d in units of 2^-149 (assumption 5). -/
opaque p2 : Int → Word
/-- Free: the result of SMXF where an operand is NaN, which R201 does not state (assumption 5). -/
opaque smxfNan : Word → Word → Word
/-- Free candidate of E40 of R289 for an ACC40 code (assumption 5). -/
opaque e40 : BitVec 40 → BitVec 40
/-- Free candidate of COS2PI of R288 (assumption 5). -/
opaque cos2pi : DWord → Word
/-- Free candidate of SIN2PI of R288 (assumption 5). -/
opaque sin2pi : DWord → Word

/-- Free: the attributes ENABLE and REDELIVER that the host gives a task queue of a new context; the spec does not
state how it sets them (R46; assumption 44). -/
opaque queueEnable : Nat → Nat → Bool
/-- Free: REDELIVER of a task queue (R46; assumption 44). -/
opaque queueRedeliver : Nat → Nat → Bool

/-- Free: what the device combines with a byte of a field of a save area whose layout the spec does not state, by its
place in the area (R419; assumption 45). -/
opaque saveKey : Nat → Byte

/-- Free: the MSI-X vector of a die that the host binds to an interrupt source, by die and source; the spec does not
state how it does so (R40; assumption 67). -/
opaque vectorOf : Nat → Nat → Nat

/-- Free: the L1 set of a line among the sets of a core whose L1 holds so many granules (R66: not
visible to programs; assumption 7). -/
opaque l1Set : Nat → Nat → Nat
/-- Free: the L2 set of a line (R70, R77; assumption 7). -/
opaque l2Set : Nat → Nat
/-- Free: the set of a cluster's translation buffer that a page of a context falls in, by context, first address and size
of the page (R2; assumption 7). -/
opaque tlbSet : Nat → Nat → Nat → Nat

end Sys2Proof.Config
end

