-- ==== Sys2Proof/Machine/Num.lean ====
section
/-! DEFINITION. Number formats (R159 to R173): exact values, the value of a code, rounding into a
format with its events, and the helpers of exact arithmetic. -/

namespace Sys2Proof.Machine

/-- An exact value: a NaN, an infinity with its sign, or sign × num ÷ den × 2^exp, where num = 0 is a
signed zero. `den` is never 0. -/
inductive Val where
  | nan
  | inf (neg : Bool)
  | fin (neg : Bool) (num den : Nat) (exp : Int)
  deriving DecidableEq, Repr

/-- A dyadic value from a signed integer and an exponent; 0 is +0. -/
def Val.dyadic (n : Int) (e : Int) : Val := .fin (n < 0) n.natAbs 1 e

/-- A zero of the given sign. -/
def Val.zero (neg : Bool) : Val := .fin neg 0 1 0

def Val.one : Val := .fin false 1 1 0

def Val.isNan : Val → Bool
  | .nan => true
  | _ => false

def Val.isInf : Val → Bool
  | .inf _ => true
  | _ => false

def Val.isZero : Val → Bool
  | .fin _ n _ _ => n == 0
  | _ => false

/-- The sign of a value; a NaN has none. -/
def Val.neg : Val → Bool
  | .nan => false
  | .inf s => s
  | .fin s _ _ _ => s

/-- The value with its sign turned. -/
def Val.flip : Val → Val
  | .nan => .nan
  | .inf s => .inf !s
  | .fin s n d e => .fin (!s) n d e

def Val.abs : Val → Val
  | .nan => .nan
  | .inf _ => .inf false
  | .fin _ n d e => .fin false n d e

/-- n × 2^k for an integer exponent, when k is not negative; 1 × n otherwise. -/
def shl (n : Nat) (k : Int) : Nat := n <<< k.toNat

/-- The numerators of two finite values over one denominator and one power of two: the signed
numerators, the denominator and the exponent. -/
def Val.common (s₁ : Bool) (n₁ d₁ : Nat) (e₁ : Int) (s₂ : Bool) (n₂ d₂ : Nat) (e₂ : Int) :
    Int × Int × Nat × Int :=
  let e := min e₁ e₂
  let a := shl (n₁ * d₂) (e₁ - e)
  let b := shl (n₂ * d₁) (e₂ - e)
  (if s₁ then -(a : Int) else a, if s₂ then -(b : Int) else b, d₁ * d₂, e)

/-- The exact sum. A zero from cancellation is +0, or -0 where `rdn` says that the mode is round down;
zeros that are all -0 give -0 (R196). -/
def Val.add (rdn : Bool) : Val → Val → Val
  | .nan, _ => .nan
  | _, .nan => .nan
  | .inf s, .inf t => if s = t then .inf s else .nan
  | .inf s, _ => .inf s
  | _, .inf t => .inf t
  | .fin s₁ n₁ d₁ e₁, .fin s₂ n₂ d₂ e₂ =>
    if n₁ = 0 ∧ n₂ = 0 then .zero (if s₁ = s₂ then s₁ else rdn)
    else if n₁ = 0 then .fin s₂ n₂ d₂ e₂
    else if n₂ = 0 then .fin s₁ n₁ d₁ e₁
    else
      let (a, b, d, e) := Val.common s₁ n₁ d₁ e₁ s₂ n₂ d₂ e₂
      if a + b = 0 then .zero rdn else .fin (a + b < 0) (a + b).natAbs d e

/-- The exact product; 0 × INF is NaN (R176, R195). -/
def Val.mul : Val → Val → Val
  | .nan, _ => .nan
  | _, .nan => .nan
  | .inf s, y => if y.isZero then .nan else .inf (s != y.neg)
  | x, .inf t => if x.isZero then .nan else .inf (x.neg != t)
  | .fin s₁ n₁ d₁ e₁, .fin s₂ n₂ d₂ e₂ => .fin (s₁ != s₂) (n₁ * n₂) (d₁ * d₂) (e₁ + e₂)

/-- The exact quotient; 0 ÷ 0 and INF ÷ INF are NaN, a non-zero value ÷ 0 is an infinity. -/
def Val.div : Val → Val → Val
  | .nan, _ => .nan
  | _, .nan => .nan
  | .inf s, y => if y.isInf then .nan else .inf (s != y.neg)
  | x, .inf t => .zero (x.neg != t)
  | .fin s₁ n₁ d₁ e₁, .fin s₂ n₂ d₂ e₂ =>
    if n₂ = 0 then (if n₁ = 0 then .nan else .inf (s₁ != s₂))
    else .fin (s₁ != s₂) (n₁ * d₂) (d₁ * n₂) (e₁ - e₂)

/-- The order of two values; a NaN has none, +0 equals -0. -/
def Val.cmp : Val → Val → Option Ordering
  | .nan, _ => none
  | _, .nan => none
  | .inf s, .inf t => some (if s = t then .eq else if s then .lt else .gt)
  | .inf s, _ => some (if s then .lt else .gt)
  | _, .inf t => some (if t then .gt else .lt)
  | .fin s₁ n₁ d₁ e₁, .fin s₂ n₂ d₂ e₂ =>
    let (a, b, _, _) := Val.common s₁ n₁ d₁ e₁ s₂ n₂ d₂ e₂
    some (if a < b then .lt else if a = b then .eq else .gt)

def Val.lt (x y : Val) : Bool := x.cmp y == some .lt

def Val.le (x y : Val) : Bool := x.cmp y == some .lt || x.cmp y == some .eq

/-- x < y with -0 below +0 (R195). -/
def Val.ltSigned (x y : Val) : Bool :=
  x.lt y || (x.isZero && y.isZero && x.neg && !y.neg)

/-- floor(log2 (n ÷ d)) for positive n and d. -/
def flog2 (n d : Nat) : Int :=
  let k : Int := (n.log2 : Int) - d.log2
  if shl n (-k) < shl d k then k - 1 else k

/-- The rounding modes (R170), by their RM code; 0 is RNE. -/
def roundInt (rm : Nat) (neg : Bool) (n d : Nat) : Nat :=
  let q := n / d
  let r := n % d
  if r = 0 then q
  else match rm with
    | 2 => q
    | 3 => if neg then q + 1 else q
    | 4 => if neg then q else q + 1
    | 5 => if d ≤ 2 * r then q + 1 else q
    | _ => if d < 2 * r then q + 1 else if 2 * r < d then q else q + q % 2

/-- A float format (R161): width, exponent bits, bias, fraction bits, whether it has infinities and NaNs,
and the bits of its container below it. -/
structure FloatFmt where
  w : Nat
  e : Nat
  bias : Nat
  f : Nat
  hasInf : Bool
  hasNan : Bool
  pad : Nat
  deriving DecidableEq, Repr

/-- What a format code names (R159). -/
inductive Fmt where
  | float (p : FloatFmt)
  | int (w : Nat) (signed : Bool)
  | log (w xbits step : Nat)
  | e8m0
  | none
  deriving DecidableEq, Repr

/-- The format of a code (R159, R161, R166, R167). -/
def fmtOf : Nat → Fmt
  | 0 => .float ⟨32, 8, 127, 23, true, true, 0⟩
  | 1 => .float ⟨19, 8, 127, 10, true, true, 13⟩
  | 2 => .float ⟨16, 5, 15, 10, true, true, 0⟩
  | 3 => .float ⟨16, 8, 127, 7, true, true, 0⟩
  | 4 => .float ⟨8, 3, 3, 4, false, true, 0⟩
  | 5 => .float ⟨8, 4, 7, 3, false, true, 0⟩
  | 6 => .float ⟨8, 5, 15, 2, true, true, 0⟩
  | 7 => .float ⟨6, 3, 3, 2, false, false, 0⟩
  | 8 => .float ⟨6, 2, 1, 3, false, false, 0⟩
  | 9 => .float ⟨4, 2, 1, 1, false, false, 0⟩
  | 10 => .int 16 true
  | 11 => .int 16 false
  | 12 => .int 8 true
  | 13 => .int 8 false
  | 14 => .int 4 true
  | 15 => .int 4 false
  | 16 => .int 2 true
  | 17 => .int 2 false
  | 18 => .log 8 7 1
  | 19 => .log 6 5 2
  | 20 => .log 4 3 2
  | 21 => .e8m0
  | 22 => .int 32 true
  | 23 => .int 32 false
  | 24 => .float ⟨40, 10, 511, 29, true, true, 0⟩
  | _ => .none

/-- The width of a format's element, container included (R159). -/
def fmtWidth (c : Nat) : Nat :=
  match fmtOf c with
  | .float p => p.w + p.pad
  | .int w _ => w
  | .log w _ _ => w
  | .e8m0 => 8
  | .none => 0

/-- The group of exception counters of a format written (R180). -/
def fmtGroup : Nat → Nat
  | 0 | 1 | 22 | 23 => 0
  | 2 | 10 | 11 => 1
  | 3 => 2
  | 6 => 4
  | 24 => 5
  | _ => 3

/-- The linearising table of R168. -/
def tbl : Nat → Nat
  | 0 => 65536
  | 1 => 71468
  | 2 => 77936
  | 3 => 84990
  | 4 => 92682
  | 5 => 101070
  | 6 => 110218
  | _ => 120194

/-- TABLEVAL(z) of R168 as mantissa and exponent. -/
def tableVal (z : Int) : Nat × Int := (tbl (z % 8).toNat, z / 8 - 16)

/-- A `w`-bit code read as a two's-complement number. -/
def signed (w n : Nat) : Int := if n < 2 ^ (w - 1) then n else (n : Int) - 2 ^ w

/-- The logarithm field of an L code in eighths, or none for the zero code (R167, R168). -/
def logZ (xbits step code : Nat) : Option Int :=
  let x := code % 2 ^ xbits
  if x = 2 ^ (xbits - 1) then none else some (step * signed xbits x)

/-- The value of a code (R162, R163, R165, R166, R168). -/
def valueOf (c code : Nat) : Val :=
  match fmtOf c with
  | .float p =>
    let b := code >>> p.pad
    let s := b.testBit (p.w - 1)
    let e := (b >>> p.f) % 2 ^ p.e
    let f := b % 2 ^ p.f
    if p.hasInf ∧ e = 2 ^ p.e - 1 then (if f = 0 then .inf s else .nan)
    else if ¬p.hasInf ∧ p.hasNan ∧ e = 2 ^ p.e - 1 ∧ f = 2 ^ p.f - 1 then .nan
    else if e = 0 then .fin s f 1 (1 - p.bias - p.f)
    else .fin s (2 ^ p.f + f) 1 ((e : Int) - p.bias - p.f)
  | .int w sg =>
    let n := code % 2 ^ w
    .dyadic (if sg then signed w n else n) 0
  | .log w xb st =>
    let s := code.testBit (w - 1)
    match logZ xb st code with
    | none => .zero s
    | some z => let (m, e) := tableVal z; .fin s m 1 e
  | .e8m0 => if code % 256 = 255 then .nan else .fin false 1 1 ((code % 256 : Nat) - 127)
  | .none => .nan

/-- Events of R181: NaN, infinity, overflow, underflow. -/
structure Events where
  nan : Bool
  inf : Bool
  ovf : Bool
  unf : Bool
  deriving DecidableEq, Repr

def Events.none : Events := ⟨false, false, false, false⟩

/-- The canonical NaN of a float format, in its container (R161). -/
def canonNan (p : FloatFmt) : Nat :=
  (if p.hasInf then (2 ^ p.e - 1) <<< p.f + 2 ^ (p.f - 1) else 2 ^ (p.w - 1) - 1) <<< p.pad

/-- The largest finite magnitude's code, without the container (R161). -/
def maxCode (p : FloatFmt) : Nat :=
  if p.hasInf then (2 ^ p.e - 1) <<< p.f - 1 else if p.hasNan then 2 ^ (p.w - 1) - 2 else 2 ^ (p.w - 1) - 1

/-- A sign and a magnitude code in their container. -/
def floatCode (p : FloatFmt) (neg : Bool) (mag : Nat) : Nat :=
  ((if neg then 2 ^ (p.w - 1) else 0) + mag) <<< p.pad

/-- The code of the infinity of a format that has one. -/
def infCode (p : FloatFmt) (neg : Bool) : Nat := floatCode p neg ((2 ^ p.e - 1) <<< p.f)

/-- ROUND of R171 into a float format of a finite non-zero value. -/
def roundFin (p : FloatFmt) (rm : Nat) (sat neg : Bool) (n d : Nat) (e : Int) : Nat × Events :=
  let emin : Int := 1 - p.bias
  let l := flog2 n d + e
  let q := max l emin - p.f
  let num := shl n (e - q)
  let den := shl d (q - e)
  let m := roundInt rm neg num den
  let code := (q - (emin - p.f)).toNat * 2 ^ p.f + m
  if m = 0 then (floatCode p neg 0, ⟨false, false, false, true⟩)
  else if code ≤ maxCode p then
    (floatCode p neg code, ⟨false, false, false, l < emin && num % den != 0⟩)
  else if !p.hasNan || sat then (floatCode p neg (maxCode p), ⟨false, false, true, false⟩)
  else if !p.hasInf then (canonNan p, ⟨true, false, true, false⟩)
  else if rm = 2 || (rm = 3 && !neg) || (rm = 4 && neg) then
    (floatCode p neg (maxCode p), ⟨false, false, true, false⟩)
  else (infCode p neg, ⟨false, true, true, false⟩)

/-- ROUND of R171 into an integer format of a finite value. -/
def roundToInt (w : Nat) (sg : Bool) (rm : Nat) (neg : Bool) (n d : Nat) (e : Int) : Nat × Events :=
  let m := roundInt rm neg (shl n e) (shl d (-e))
  let lo : Int := if sg then -(2 ^ (w - 1) : Nat) else 0
  let hi : Int := if sg then (2 ^ (w - 1) : Nat) - 1 else (2 ^ w : Nat) - 1
  let y : Int := if neg then -(m : Int) else m
  let z := if y < lo then lo else if hi < y then hi else y
  ((z % (2 ^ w : Nat)).toNat, ⟨false, false, y < lo || hi < y, m == 0⟩)

/-- The largest z in steps of `step` whose table value is not above n ÷ d × 2^e (R173). -/
def logFloor (step n d : Nat) (e : Int) : Int :=
  let k := flog2 n d + e
  let fits (j : Nat) : Bool := shl (d * tbl j) (k - 16 - e) ≤ shl n (e - k + 16)
  let j := if step = 1 then
      (if fits 4 then (if fits 6 then (if fits 7 then 7 else 6) else if fits 5 then 5 else 4)
       else if fits 2 then (if fits 3 then 3 else 2) else if fits 1 then 1 else 0)
    else if fits 4 then (if fits 6 then 6 else 4) else if fits 2 then 2 else 0
  8 * k + j

/-- TO_L of R173 of a finite non-zero value; above its largest member an L format goes on by its own step in z, which is
2 in L6 and L4 (assumption 86). -/
def roundToLog (w xb step rm : Nat) (neg : Bool) (n d : Nat) (e : Int) : Nat × Events :=
  let zmax : Int := step * ((2 ^ (xb - 1) : Nat) - 1)
  let zmin : Int := -zmax
  let z := logFloor step n d e
  let below := z < zmin
  let lo : Nat × Int := if below then (0, 0) else tableVal z
  let up : Int := if below then zmin else z + step
  let hi := tableVal up
  let x : Val := .fin false n d e
  let vlo : Val := .fin false lo.1 1 lo.2
  let mid : Val := (Val.add false vlo (.fin false hi.1 1 hi.2)).mul (.fin false 1 1 (-1))
  let exact := !below && x.cmp vlo == some .eq
  let even := below || (z / step) % 2 == 0
  let goUp : Bool := match rm with
    | 2 => false
    | 3 => neg
    | 4 => !neg
    | 5 => mid.le x
    | _ => mid.lt x || (mid.cmp x == some .eq && !even)
  let sgn := if neg then 2 ^ (w - 1) else 0
  let code (z : Int) : Nat := sgn + ((z / step) % (2 ^ xb : Nat)).toNat
  let r : Option Int := if exact then some z else if goUp then some up else if below then none else some z
  match r with
  | none => (sgn + 2 ^ (xb - 1), ⟨false, false, false, true⟩)
  | some y => if zmax < y then (code zmax, ⟨false, false, true, false⟩) else (code y, Events.none)

/-- ROUND(x, fmt, rm, sat) of R171, and TO_L of R173 for the L formats: the code, in its container, with
its events. `anyNan` and `anyInf` say whether an input was NaN or infinite (R181). -/
def roundTo (x : Val) (c rm : Nat) (sat anyNan anyInf : Bool) : Nat × Events :=
  match fmtOf c, x with
  | .float p, .nan => if p.hasNan then (canonNan p, ⟨!anyNan, false, false, false⟩) else (0, ⟨true, false, false, false⟩)
  | .float p, .inf s =>
    if p.hasInf then (infCode p s, ⟨false, !anyInf, false, false⟩)
    else if p.hasNan && !sat then (canonNan p, ⟨!anyNan, false, false, false⟩)
    else (floatCode p s (maxCode p), Events.none)
  | .float p, .fin s n d e => if n = 0 then (floatCode p s 0, Events.none) else roundFin p rm sat s n d e
  | .int _ _, .nan => (0, ⟨true, false, false, false⟩)
  | .int w sg, .inf s =>
    (if s then (if sg then 2 ^ (w - 1) else 0) else if sg then 2 ^ (w - 1) - 1 else 2 ^ w - 1, Events.none)
  | .int w sg, .fin s n d e => if n = 0 then (0, Events.none) else roundToInt w sg rm s n d e
  | .log _ xb _, .nan => (2 ^ (xb - 1), ⟨true, false, false, false⟩)
  | .log w xb _, .inf s => ((if s then 2 ^ (w - 1) else 0) + (2 ^ (xb - 1) - 1), Events.none)
  | .log w xb st, .fin s n d e =>
    if n = 0 then ((if s then 2 ^ (w - 1) else 0) + 2 ^ (xb - 1), Events.none)
    else roundToLog w xb st rm s n d e
  | .e8m0, _ => (0, Events.none)
  | .none, _ => (0, Events.none)

/-- Whether a format is signed, so that a write of a narrow element extends its sign (R160). -/
def fmtSigned (c : Nat) : Bool :=
  match fmtOf c with
  | .int _ s => s
  | _ => false

/-- An element code as a register holds it (R160). -/
def placeElem (c code : Nat) : Word :=
  let w := fmtWidth c
  if fmtSigned c then BitVec.ofInt 32 (signed w (code % 2 ^ w)) else BitVec.ofNat 32 (code % 2 ^ w)

/-- The FP32 value of a register. -/
def f32 (x : Word) : Val := valueOf 0 x.toNat

/-- Element i of a packed stream held in a number (R160). -/
def elemOf (w i n : Nat) : Nat := (n >>> (w * i)) % 2 ^ w

/-- The canonical NaN of FP32. -/
def nan32 : Word := 0x7FC00000#32

/-- The exact integral value nearest to a finite value, under a mode (FRINT of R195). -/
def Val.toIntegral (rm : Nat) : Val → Val
  | .nan => .nan
  | .inf s => .inf s
  | .fin s n d e => .fin s (roundInt rm s (shl n e) (shl d (-e))) 1 0

end Sys2Proof.Machine
end

