-- ==== Sys2Proof/Machine/Approx.lean ====
section
/-! DEFINITION. The fixed mappings that the spec leaves open within a bound: special functions (R199), P2
(R201), E40 (R289), COS2PI and SIN2PI (R288). Each takes a free candidate of Config where it lies within
the rule's bound, and the rounded value where it does not; the points that a rule makes exact are exact.
Exact values are approximated at 200 fraction bits, and every bound is widened by 2^-150 of the value
(assumption 5). -/

namespace Sys2Proof.Machine

/-- 2^200, the unit of the fixed-point numbers of this file. -/
def fixOne : Nat := 2 ^ 200
/-- ln 2 in fixed point. -/
def fixLn2 : Nat := 1113844574712631719546256151097547306333272293549090750737802
/-- log2 e in fixed point. -/
def fixLog2e : Nat := 2318321547468254865173387471183990171487108758923299108729110
/-- π in fixed point. -/
def fixPi : Nat := 5048344754617993871973410141242436836214643421488662971535368

/-- The series of e^x from term k on. -/
def expSeries (x : Nat) : Nat → Nat → Nat → Nat → Nat
  | 0, _, _, acc => acc
  | fuel + 1, k, term, acc =>
    let t := term * x / ((k + 1) * fixOne)
    expSeries x fuel (k + 1) t (acc + t)

/-- 2^f for a fraction f of fixed point. -/
def exp2Fix (f : Nat) : Nat := expSeries (f * fixLn2 / fixOne) 60 0 fixOne fixOne

/-- 2^d for a fixed-point number d of moderate size. -/
def exp2Val (d : Int) : Val :=
  .fin false (exp2Fix (d % (fixOne : Int)).toNat) 1 (d / (fixOne : Int) - 200)

/-- The series of sin t from the term t^k on: the sums of the positive and negative terms. -/
def sinSeries (t : Nat) : Nat → Nat → Nat → Nat → Nat → Nat × Nat
  | 0, _, _, p, q => (p, q)
  | fuel + 1, k, term, p, q =>
    let u := term * t / fixOne * t / ((k + 1) * (k + 2) * fixOne)
    sinSeries t fuel (k + 2) u (q + u) p

/-- sin(πr) for r in [0, 1/2] of fixed point. -/
def sinFix (r : Nat) : Nat :=
  let t := r * fixPi / fixOne
  let (p, q) := sinSeries t 50 1 t t 0
  max p q - min p q

/-- sin(πr) for a fixed-point r in [0, 2): sign and magnitude. -/
def sinTurn (r : Nat) : Val :=
  let (neg, h) := if fixOne ≤ r then (true, r - fixOne) else (false, r)
  .fin neg (sinFix (if fixOne < 2 * h then fixOne - h else h)) 1 (-200)

/-- The binary digits of log2 of a fixed-point number in [1, 2). -/
def log2Digits : Nat → Nat → Nat → Nat
  | 0, _, acc => acc
  | fuel + 1, y, acc =>
    let y2 := y * y / fixOne
    if 2 * fixOne ≤ y2 then log2Digits fuel (y2 / 2) (2 * acc + 1) else log2Digits fuel y2 (2 * acc)

/-- The largest integer whose square is not above n, found bit by bit from bit `k` down. -/
def isqrtBits (n : Nat) : Nat → Nat → Nat
  | 0, r => r
  | k + 1, r =>
    let c := r + 2 ^ k
    isqrtBits n k (if c * c ≤ n then c else r)

/-- A finite value in fixed point, truncated toward minus infinity. -/
def toFix : Val → Int
  | .fin s n d e =>
    let m : Nat := shl n (e + 200) / shl d (-(e + 200))
    if s then -(m : Int) else m
  | _ => 0

/-- One unit in the last place of a finite value of a float format. -/
def ulpOf (p : FloatFmt) (code : Nat) : Val :=
  let e := ((code >>> p.pad) >>> p.f) % 2 ^ p.e
  .fin false 1 1 ((max e 1 : Nat) - p.bias - p.f)

/-- The distance of two values. -/
def Val.dist (x y : Val) : Val := (Val.add false x y.flip).abs

/-- Whether a value lies within a bound of another, widened by 2^-150 of it. -/
def Val.near (x y bound : Val) : Bool :=
  match x with
  | .fin _ _ _ _ => (x.dist y).le (Val.add false bound (y.abs.mul (.fin false 1 1 (-150))))
  | _ => false

/-- A candidate code of FP32 where it lies within `ulps` units in the last place of itself of the exact
value, else the rounded value. -/
def withinUlps (ulps : Nat) (exact : Val) (cand : Word) : Word :=
  let b := (ulpOf ⟨32, 8, 127, 23, true, true, 0⟩ cand.toNat).mul (.fin false ulps 1 0)
  if (f32 cand).near exact b then cand else BitVec.ofNat 32 (roundTo exact 0 1 false false false).1

/-- A candidate code of FP32 where it lies within 2^-22 of the exact value, else the rounded value. -/
def withinAbs (exact : Val) (cand : Word) : Word :=
  if (f32 cand).near exact (.fin false 1 1 (-22)) then cand
  else BitVec.ofNat 32 (roundTo exact 0 1 false false false).1

/-- The FP32 code of a value. -/
def code32 (x : Val) : Word := BitVec.ofNat 32 (roundTo x 0 1 false false false).1

/-- The largest finite FP32 value (R161). -/
def max32 : Val := .fin false (2 ^ 24 - 1) 1 104

/-- The smallest normal FP32 value (R161). -/
def minNormal32 : Val := .fin false 1 1 (-126)

/-- An integer in a finite value, if it is one of magnitude below 2^16, or its parity where it is
larger: the value itself or 0. -/
def Val.int? : Val → Option Int
  | .fin s n d e =>
    if shl n e % shl d (-e) = 0 then
      let m : Nat := shl n e / shl d (-e)
      some (if s then -(m : Int) else m)
    else none
  | _ => none

/-- The events of a mapping of R199: NaN and infinity by the result, overflow and underflow as given. -/
def sfuEvents (a : Val) (r : Word) (ovf unf : Bool) : Events :=
  ⟨(f32 r).isNan && !a.isNan, (f32 r).isInf && !a.isInf, ovf, unf⟩

/-- RCP (R199). -/
def sfuRcp (w : Word) : Word × Events :=
  let a := f32 w
  let x := Val.div .one a
  let r := if a.isNan then nan32
    else if a.isZero || a.isInf then code32 x
    else if max32.lt x.abs then Config.sfuRcp w
    else withinUlps 1 x (Config.sfuRcp w)
  (r, sfuEvents a r (!x.isInf && max32.lt x.abs) (!x.isZero && x.abs.lt minNormal32))

/-- The square root of a finite positive value times 2^400, truncated, as a value. -/
def sqrtVal : Val → Val
  | .fin _ n d e =>
    let e' := e - e % 2
    let m := shl (n * 2 ^ (e % 2).toNat) 400 / d
    .fin false (isqrtBits m 300 0) 1 (e' / 2 - 200)
  | x => x

/-- RSQ (R199). -/
def sfuRsq (w : Word) : Word × Events :=
  let a := f32 w
  let r := if a.isNan then nan32
    else if a.isZero then code32 (.inf a.neg)
    else if a.neg then nan32
    else if a.isInf then 0#32
    else withinUlps 2 (sqrtVal (Val.div .one a)) (Config.sfuRsq w)
  (r, sfuEvents a r false false)

/-- SQRT (R199): correctly rounded. -/
def sfuSqrt (w : Word) : Word × Events :=
  let a := f32 w
  let r := if a.isNan then nan32
    else if a.isZero then w
    else if a.neg then nan32
    else if a.isInf then w
    else match a with
      | .fin _ n d e =>
        let e' := e - e % 2
        let m := shl (n * 2 ^ (e % 2).toNat) 100 / d
        let q := isqrtBits m 80 0
        let sticky := if q * q = m then 0 else 1
        code32 (.fin false (2 * q + sticky) 1 (e' / 2 - 51))
      | _ => nan32
  (r, sfuEvents a r false false)

/-- EXP2 (R199). -/
def sfuExp2 (w : Word) : Word × Events :=
  let a := f32 w
  let below (n : Int) := a.lt (.dyadic n 0)
  let r := if a.isNan then nan32
    else if a.isInf then (if a.neg then 0#32 else w)
    else if below (-149) then 0#32
    else if !below 128 then Config.sfuExp2 w
    else match a.int? with
      | some k => code32 (.fin false 1 1 k)
      | none => withinUlps 2 (exp2Val (toFix a)) (Config.sfuExp2 w)
  (r, sfuEvents a r (!a.isInf && !a.isNan && !below 128) (!a.isInf && !a.isNan && below (-126)))

/-- LOG2 (R199). -/
def sfuLog2 (w : Word) : Word × Events :=
  let a := f32 w
  let r := if a.isNan then nan32
    else if a.isZero then code32 (.inf true)
    else if a.neg then nan32
    else match a with
      | .fin _ n _ e =>
        let k := n.log2
        if n = 2 ^ k then code32 (.dyadic (e + k) 0)
        else
          let frac := log2Digits 150 (n * fixOne / 2 ^ k) 0
          let x := Val.add false (.dyadic (e + k) 0) (.fin false frac 1 (-150))
          if a.lt (.fin false 1 1 (-1)) || (Val.fin false 2 1 0).lt a then withinUlps 2 x (Config.sfuLog2 w)
          else withinAbs x (Config.sfuLog2 w)
      | _ => w
  (r, sfuEvents a r false false)

/-- |a| modulo 2 in fixed point. -/
def modTwo (a : Val) : Nat :=
  match a with
  | .fin _ n d e => (shl n e % (2 * shl d (-e))) * fixOne / shl d (-e)
  | _ => 0

/-- SINP (R199). An exact value below the smallest normal FP32 value comes from a magnitude of at most
2,670,176 × 2^-149. -/
def sfuSinp (w : Word) : Word × Events :=
  let a := f32 w
  let x := sinTurn (modTwo a)
  let r := if a.isNan || a.isInf then nan32
    else match a.int? with
      | some _ => code32 (.zero a.neg)
      | none => withinAbs (if a.neg then x.flip else x) (Config.sfuSinp w)
  (r, sfuEvents a r false (!a.isZero && (w &&& 0x7FFFFFFF#32).toNat ≤ 2670176))

/-- COSP (R199). -/
def sfuCosp (w : Word) : Word × Events :=
  let a := f32 w
  let r := if a.isNan || a.isInf then nan32
    else match a.int? with
      | some k => code32 (.dyadic (if k % 2 = 0 then 1 else -1) 0)
      | none => withinAbs (sinTurn ((modTwo a + fixOne / 2) % (2 * fixOne))) (Config.sfuCosp w)
  (r, sfuEvents a r false false)

/-- e^(-y) for a finite y that is not negative; 0 where y is above 2,000. -/
def expNeg (y : Val) : Val :=
  if (Val.fin false 2000 1 0).lt y then .zero false
  else exp2Val (-(toFix y * (fixLog2e : Int) / (fixOne : Int)))

/-- TANH (R199). The exact value of a non-zero operand lies below the smallest normal FP32 value where
the operand is not above it. -/
def sfuTanh (w : Word) : Word × Events :=
  let a := f32 w
  let r := if a.isNan then nan32
    else if a.isZero then w
    else if (Val.fin false 91 10 0).le a.abs then code32 (.dyadic (if a.neg then -1 else 1) 0)
    else
      let u := expNeg (a.abs.mul (.fin false 2 1 0))
      let x := Val.div (Val.add false .one u.flip) (Val.add false .one u)
      withinAbs (if a.neg then x.flip else x) (Config.sfuTanh w)
  (r, sfuEvents a r false (!a.isNan && !a.isZero && a.abs.le minNormal32))

/-- SIGM (R199). The exact value lies below the smallest normal FP32 value where the operand is not above
-11,447,376 × 2^-17. -/
def sfuSigm (w : Word) : Word × Events :=
  let a := f32 w
  let r := if a.isNan then nan32
    else if a.isInf then (if a.neg then 0#32 else code32 .one)
    else
      let u := expNeg a.abs
      let x := Val.div (if a.neg then u else .one) (Val.add false .one u)
      withinAbs x (Config.sfuSigm w)
  (r, sfuEvents a r false (!a.isNan && !a.isInf && a.le (.fin true 11447376 1 (-17))))

/-- P2(d) of R201 as an FP32 code, for an exact difference of two FP32 values. -/
def p2 (d : Val) : Word :=
  match d with
  | .fin s n _ e =>
    let k : Int := shl n (e + 149)
    let u : Int := if s then -k else k
    let cand := Config.p2 u
    if d.lt (.dyadic (-2000) 0) then withinUlps 1 (.zero false) cand
    else if !d.lt (.dyadic 128 0) then cand
    else match d.int? with
      | some i => if -149 ≤ i then code32 (.fin false 1 1 i) else withinUlps 1 (.fin false 1 1 i) cand
      | none => withinUlps 1 (exp2Val (toFix d)) cand
  | .inf true => 0#32
  | .inf false => code32 (.inf false)
  | .nan => nan32

/-- The parameters of ACC40 (R161). -/
def acc40 : FloatFmt := ⟨40, 10, 511, 29, true, true, 0⟩

/-- E40 of R289. -/
def e40 (y : BitVec 40) : BitVec 40 :=
  let a := valueOf 24 y.toNat
  let cand := Config.e40 y
  let close (x : Val) : BitVec 40 :=
    if (valueOf 24 cand.toNat).near x (ulpOf acc40 cand.toNat) then cand
    else BitVec.ofNat 40 (roundTo x 24 1 false false false).1
  if a.isNan then BitVec.ofNat 40 (canonNan acc40)
  else if a.isInf then (if a.neg then 0 else BitVec.ofNat 40 (infCode acc40 false))
  else if a.lt (.dyadic (-540) 0) then 0
  else if !a.lt (.dyadic 512 0) then cand
  else match a.int? with
    | some i => if -539 ≤ i then BitVec.ofNat 40 (roundTo (.fin false 1 1 i) 24 1 false false false).1
                else close (.fin false 1 1 i)
    | none => close (exp2Val (toFix a))

/-- SIN2PI of R288: the sine of an angle in units of 2^-64 of a turn. -/
def sin2pi (a : DWord) : Word :=
  if a.toNat % 2 ^ 62 = 0 then
    match a.toNat / 2 ^ 62 with
    | 1 => code32 .one
    | 3 => code32 (.dyadic (-1) 0)
    | _ => 0#32
  else withinUlps 1 (sinTurn (a.toNat * 2 ^ 137)) (Config.sin2pi a)

/-- COS2PI of R288. -/
def cos2pi (a : DWord) : Word :=
  if a.toNat % 2 ^ 62 = 0 then sin2pi (a + BitVec.ofNat 64 (2 ^ 62))
  else withinUlps 1 (sinTurn ((a.toNat + 2 ^ 62) % 2 ^ 64 * 2 ^ 137)) (Config.cos2pi a)

end Sys2Proof.Machine
end

