-- ==== Sys2Proof/Syntax.lean ====
section
/-! DEFINITION. The instructions of the opcode table: one structure for each shape of operand fields
(R90), and the ONE inductive `Instr`, a constructor for each row of spec/opcode_table.json: the 292
encoded words, prefix words included, and the 94 steps of the device that have no encoding
(commands, engine completions, interruption, management). -/

namespace Sys2Proof

/-- Form A (R90): scope, D, A, B and the trap bits TA and TB. -/
structure FormA where
  sc : BitVec 2
  d : BitVec 6
  a : BitVec 6
  b : BitVec 6
  ta : Bool
  tb : Bool
  deriving DecidableEq, Repr, Inhabited

/-- Form A of a unary instruction (R90, R186): B and TB are zero. -/
structure FormA1 where
  sc : BitVec 2
  d : BitVec 6
  a : BitVec 6
  ta : Bool
  deriving DecidableEq, Repr, Inhabited

/-- Form I (R90). -/
structure FormI where
  sc : BitVec 2
  d : BitVec 6
  a : BitVec 6
  ta : Bool
  imm : BitVec 11
  deriving DecidableEq, Repr, Inhabited

/-- Form S with a shift count (R90, R190). -/
structure FormSh where
  sc : BitVec 2
  d : BitVec 6
  a : BitVec 6
  ta : Bool
  imm : BitVec 5
  deriving DecidableEq, Repr, Inhabited

/-- Form S (R90). -/
structure FormS where
  sc : BitVec 2
  d : BitVec 6
  a : BitVec 6
  ta : Bool
  imm : BitVec 8
  deriving DecidableEq, Repr, Inhabited

/-- Form V (R90). -/
structure FormV where
  sc : BitVec 2
  d : BitVec 6
  imm : BitVec 18
  deriving DecidableEq, Repr, Inhabited

/-- Form C (R90): PD, CB, A, B and the trap bits. -/
structure FormC where
  sc : BitVec 2
  pd : BitVec 3
  cb : BitVec 2
  a : BitVec 6
  b : BitVec 6
  ta : Bool
  tb : Bool
  deriving DecidableEq, Repr, Inhabited

/-- Form CI (R90). -/
structure FormCI where
  sc : BitVec 2
  pd : BitVec 3
  cb : BitVec 2
  a : BitVec 6
  ta : Bool
  imm : BitVec 8
  deriving DecidableEq, Repr, Inhabited

/-- Form G (R90): the guarded select. -/
structure FormG where
  sc : BitVec 2
  gn : Bool
  gp : BitVec 3
  d : BitVec 6
  a : BitVec 6
  b : BitVec 6
  ta : Bool
  tb : Bool
  deriving DecidableEq, Repr, Inhabited

/-- Form Z (R90): conversion. -/
structure FormZ where
  sc : BitVec 2
  d : BitVec 6
  a : BitVec 6
  ta : Bool
  sf : BitVec 5
  df : BitVec 5
  sat : Bool
  deriving DecidableEq, Repr, Inhabited

/-- Form L (R90) at warp scope: D, A, B and the mask K. -/
structure FormL where
  d : BitVec 6
  a : BitVec 6
  b : BitVec 6
  k : BitVec 4
  deriving DecidableEq, Repr, Inhabited

/-- Form L with a predicate operand (R205). -/
structure FormLP where
  d : BitVec 6
  p : BitVec 3
  k : BitVec 4
  deriving DecidableEq, Repr, Inhabited

/-- Form L without B (R205, R206). -/
structure FormL1 where
  d : BitVec 6
  a : BitVec 6
  k : BitVec 4
  deriving DecidableEq, Repr, Inhabited

/-- Form A of BCASTW (R207): lane or set scope. -/
structure FormBc where
  set : Bool
  d : BitVec 6
  a : BitVec 6
  deriving DecidableEq, Repr, Inhabited

/-- Form A of READL, GSLR and GSLW (R207), whose scope is fixed. -/
structure FormA3 where
  d : BitVec 6
  a : BitVec 6
  b : BitVec 6
  ta : Bool
  deriving DecidableEq, Repr, Inhabited

/-- Form E with D and A, or form A of KTOW and WTOK; the scope is fixed. -/
structure FormDA where
  d : BitVec 6
  a : BitVec 6
  deriving DecidableEq, Repr, Inhabited

/-- Form A of MOVS (R208). -/
structure FormMs where
  sc : BitVec 2
  d : BitVec 6
  n : BitVec 5
  deriving DecidableEq, Repr, Inhabited

/-- Form A of PTOV (R207). -/
structure FormPv where
  set : Bool
  d : BitVec 6
  p : BitVec 3
  deriving DecidableEq, Repr, Inhabited

/-- Form A of VTOP (R207). -/
structure FormVp where
  set : Bool
  pd : BitVec 3
  a : BitVec 6
  ta : Bool
  deriving DecidableEq, Repr, Inhabited

/-- Form B (R90): branch. -/
structure FormB where
  warp : Bool
  gn : Bool
  gp : BitVec 3
  k : BitVec 4
  off : BitVec 16
  deriving DecidableEq, Repr, Inhabited

/-- Form B of CALL (R141), whose K is 15. -/
structure FormBl where
  gn : Bool
  gp : BitVec 3
  off : BitVec 16
  deriving DecidableEq, Repr, Inhabited

/-- Form J (R90). -/
structure FormJ where
  gn : Bool
  gp : BitVec 3
  a : BitVec 6
  deriving DecidableEq, Repr, Inhabited

/-- Form K with KD alone (R143). -/
structure FormK1 where
  warp : Bool
  kd : BitVec 4
  deriving DecidableEq, Repr, Inhabited

/-- Form K of WAIT (R143). -/
structure FormKw where
  kd : BitVec 4
  deriving DecidableEq, Repr, Inhabited

/-- Form K with three masks (R143). -/
structure FormK3 where
  warp : Bool
  kd : BitVec 4
  ka : BitVec 4
  kb : BitVec 4
  deriving DecidableEq, Repr, Inhabited

/-- Form K of KSETL (R143). -/
structure FormKl where
  warp : Bool
  kd : BitVec 4
  lane : BitVec 5
  deriving DecidableEq, Repr, Inhabited

/-- Form K of KPOPC (R143). -/
structure FormKp where
  warp : Bool
  ka : BitVec 4
  wf : BitVec 5
  deriving DecidableEq, Repr, Inhabited

/-- Form K of KFROMW (R143). -/
structure FormKf where
  warp : Bool
  kd : BitVec 4
  wf : BitVec 5
  deriving DecidableEq, Repr, Inhabited

/-- A form E word with a scope and no operand. -/
structure FormSc where
  sc : BitVec 2
  deriving DecidableEq, Repr, Inhabited

/-- Form E with D, A and B; the scope is fixed. -/
structure FormDAB where
  d : BitVec 6
  a : BitVec 6
  b : BitVec 6
  deriving DecidableEq, Repr, Inhabited

/-- Form E with A and B; the scope is fixed. -/
structure FormAB where
  a : BitVec 6
  b : BitVec 6
  deriving DecidableEq, Repr, Inhabited

/-- Form E with D and B; the scope is fixed. -/
structure FormDB where
  d : BitVec 6
  b : BitVec 6
  deriving DecidableEq, Repr, Inhabited

/-- Form E with A alone; the scope is fixed. -/
structure FormEA where
  a : BitVec 6
  deriving DecidableEq, Repr, Inhabited

/-- Form E of RTE (R155). -/
structure FormRte where
  skip : Bool
  deriving DecidableEq, Repr, Inhabited

/-- Form M (R90): global load. -/
structure FormM where
  sc : BitVec 2
  d : BitVec 6
  a : BitVec 6
  ta : Bool
  sz : BitVec 2
  h : BitVec 2
  off : BitVec 7
  deriving DecidableEq, Repr, Inhabited

/-- Form M of LDS, whose hint is zero (R211). -/
structure FormMs8 where
  sc : BitVec 2
  d : BitVec 6
  a : BitVec 6
  ta : Bool
  sz : BitVec 2
  off : BitVec 7
  deriving DecidableEq, Repr, Inhabited

/-- Form P (R90): window load. -/
structure FormP where
  sc : BitVec 2
  d : BitVec 6
  a : BitVec 6
  ta : Bool
  sz : BitVec 2
  win : BitVec 4
  off : BitVec 5
  deriving DecidableEq, Repr, Inhabited

/-- Form W (R90): store. -/
structure FormW where
  sc : BitVec 2
  gn : Bool
  gp : BitVec 3
  a : BitVec 6
  b : BitVec 6
  sz : BitVec 2
  off : BitVec 6
  deriving DecidableEq, Repr, Inhabited

/-- Form T (R90): returning atomic. -/
structure FormT where
  warp : Bool
  gn : Bool
  gp : BitVec 3
  d : BitVec 6
  a : BitVec 6
  b : BitVec 6
  deriving DecidableEq, Repr, Inhabited

/-- Form T of RED (R362): OP 1 names scratchpad. -/
structure FormR where
  warp : Bool
  gn : Bool
  gp : BitVec 3
  a : BitVec 6
  b : BitVec 6
  sp : Bool
  deriving DecidableEq, Repr, Inhabited

/-- Form E of FENCE (R222). -/
structure FormF where
  warp : Bool
  deriving DecidableEq, Repr, Inhabited

/-- Form E of PIN (R223). -/
structure FormPin where
  warp : Bool
  d : BitVec 6
  a : BitVec 6
  lvl : Bool
  deriving DecidableEq, Repr, Inhabited

/-- Form E of UNPIN, INVL1, WBL2 and PREF (R221). -/
structure FormMc where
  warp : Bool
  a : BitVec 6
  lvl : Bool
  deriving DecidableEq, Repr, Inhabited

/-- Form E with D alone; the scope is fixed. -/
structure FormED where
  d : BitVec 6
  deriving DecidableEq, Repr, Inhabited

/-- Form E of DONE and DEPADD (R367). -/
structure FormTk where
  warp : Bool
  a : BitVec 6
  b : BitVec 6
  deriving DecidableEq, Repr, Inhabited

/-- Form E of CANCEL (R367). -/
structure FormTc where
  warp : Bool
  a : BitVec 6
  deriving DecidableEq, Repr, Inhabited

/-- Form N (R90): enqueue. -/
structure FormN where
  warp : Bool
  gn : Bool
  gp : BitVec 3
  q : BitVec 6
  b : BitVec 6
  deriving DecidableEq, Repr, Inhabited

/-- Form N with compaction, at warp scope (R371). -/
structure FormNc where
  gn : Bool
  gp : BitVec 3
  q : BitVec 6
  b : BitVec 6
  deriving DecidableEq, Repr, Inhabited

/-- Form E of MXSTAT (R261): warp or block scope. -/
structure FormMx where
  blk : Bool
  d : BitVec 6
  a : BitVec 6
  b : BitVec 6
  deriving DecidableEq, Repr, Inhabited

/-- Form Q (R90): matrix pass. -/
structure FormQ where
  sc : BitVec 2
  acc : BitVec 6
  ix : BitVec 6
  bd : BitVec 5
  sb : BitVec 2
  fmt : BitVec 5
  deriving DecidableEq, Repr, Inhabited

/-- The payload of an IMM prefix (R103). -/
structure PrImm where
  pay : BitVec 22
  deriving DecidableEq, Repr, Inhabited

/-- The fields of a MOD prefix (R104). -/
structure PrMod where
  k : BitVec 4
  rm : BitVec 3
  mz : Bool
  c : BitVec 6
  tc : Bool
  ub : Bool
  ss : BitVec 2
  hi : Bool
  sx : Bool
  wq : Bool
  deriving DecidableEq, Repr, Inhabited

/-- The fields of an ORD prefix (R105). -/
structure PrOrd where
  sem : BitVec 2
  ms : BitVec 3
  deriving DecidableEq, Repr, Inhabited

/-- The fields of an FMT prefix (R106). -/
structure PrFmt where
  bf : BitVec 5
  sra : BitVec 6
  srb : BitVec 6
  sf : BitVec 2
  gs : BitVec 3
  deriving DecidableEq, Repr, Inhabited

/-- The fields of a SCHED prefix (R107). -/
structure PrSched where
  yld : Bool
  pri : BitVec 2
  stl : BitVec 5
  deriving DecidableEq, Repr, Inhabited

/-- What an uncorrectable memory error strikes (R81, R422): a 64-byte sector, the stored form of a compressed block of
256 bytes, a 4-byte word of a block's scratchpad, or a lane register. -/
inductive EccTarget where
  | sector (pa : Nat)
  | compressed (pa : Nat)
  | spWord (blk off : Nat)
  | vreg (blk warp lane n : Nat)
  | greg (blk set n elem : Nat)
  deriving DecidableEq, Repr, Inhabited

/-- One constructor for each row of the opcode table. -/
inductive Instr where
  /-- IADD (R187). -/
  | iadd (f : FormA)
  /-- ISUB (R187). -/
  | isub (f : FormA)
  /-- IMUL (R187). -/
  | imul (f : FormA)
  /-- IMULH_S (R187). -/
  | imulhS (f : FormA)
  /-- IMULH_N (R187). -/
  | imulhN (f : FormA)
  /-- IMIN_S (R187). -/
  | iminS (f : FormA)
  /-- IMIN_N (R187). -/
  | iminN (f : FormA)
  /-- IMAX_S (R187). -/
  | imaxS (f : FormA)
  /-- IMAX_N (R187). -/
  | imaxN (f : FormA)
  /-- IABSD (R187). -/
  | iabsd (f : FormA)
  /-- IADDS_S (R187). -/
  | iaddsS (f : FormA)
  /-- ISUBS_S (R187). -/
  | isubsS (f : FormA)
  /-- AND (R188). -/
  | andB (f : FormA)
  /-- OR (R188). -/
  | orB (f : FormA)
  /-- XOR (R188). -/
  | xorB (f : FormA)
  /-- ANDN (R188). -/
  | andn (f : FormA)
  /-- ORN (R188). -/
  | orn (f : FormA)
  /-- SHL (R188). -/
  | shl (f : FormA)
  /-- SHR (R188). -/
  | shr (f : FormA)
  /-- SAR (R188). -/
  | sar (f : FormA)
  /-- ROTL (R188). -/
  | rotl (f : FormA)
  /-- ROTR (R188). -/
  | rotr (f : FormA)
  /-- POPC (R188). -/
  | popc (f : FormA1)
  /-- CLZ (R188). -/
  | clz (f : FormA1)
  /-- BREV (R188). -/
  | brev (f : FormA1)
  /-- BFX_N (R188). -/
  | bfxN (f : FormA)
  /-- BFX_S (R188). -/
  | bfxS (f : FormA)
  /-- BFI (R188). -/
  | bfi (f : FormA)
  /-- IMAD (R189). -/
  | imad (f : FormA)
  /-- IMADH_S (R189). -/
  | imadhS (f : FormA)
  /-- IMADH_N (R189). -/
  | imadhN (f : FormA)
  /-- IMADW_S (R189). -/
  | imadwS (f : FormA)
  /-- IMADW_N (R189). -/
  | imadwN (f : FormA)
  /-- IDOT4_S8 (R189). -/
  | idot4S8 (f : FormA)
  /-- IDOT4_N8 (R189). -/
  | idot4N8 (f : FormA)
  /-- IDOT8_S4 (R189). -/
  | idot8S4 (f : FormA)
  /-- IDOT8_N4 (R189). -/
  | idot8N4 (f : FormA)
  /-- IADDI (R190). -/
  | iaddi (f : FormI)
  /-- SHLI (R190). -/
  | shli (f : FormSh)
  /-- SHRI (R190). -/
  | shri (f : FormSh)
  /-- SARI (R190). -/
  | sari (f : FormSh)
  /-- ROTLI (R190). -/
  | rotli (f : FormSh)
  /-- ANDI (R190). -/
  | andi (f : FormS)
  /-- ORI (R190). -/
  | ori (f : FormS)
  /-- XORI (R190). -/
  | xori (f : FormS)
  /-- IMULI (R190). -/
  | imuli (f : FormS)
  /-- MOVI (R190). -/
  | movi (f : FormV)
  /-- ICMP_EQ (R191). -/
  | icmpEq (f : FormC)
  /-- ICMP_NE (R191). -/
  | icmpNe (f : FormC)
  /-- ICMP_LT_S (R191). -/
  | icmpLtS (f : FormC)
  /-- ICMP_LE_S (R191). -/
  | icmpLeS (f : FormC)
  /-- ICMP_GT_S (R191). -/
  | icmpGtS (f : FormC)
  /-- ICMP_GE_S (R191). -/
  | icmpGeS (f : FormC)
  /-- ICMP_LT_N (R191). -/
  | icmpLtN (f : FormC)
  /-- ICMP_LE_N (R191). -/
  | icmpLeN (f : FormC)
  /-- ICMP_GT_N (R191). -/
  | icmpGtN (f : FormC)
  /-- ICMP_GE_N (R191). -/
  | icmpGeN (f : FormC)
  /-- ICMP_TSTZ (R191). -/
  | icmpTstz (f : FormC)
  /-- ICMP_TSTNZ (R191). -/
  | icmpTstnz (f : FormC)
  /-- ICMPI_EQ (R191). -/
  | icmpiEq (f : FormCI)
  /-- ICMPI_NE (R191). -/
  | icmpiNe (f : FormCI)
  /-- ICMPI_LT_S (R191). -/
  | icmpiLtS (f : FormCI)
  /-- ICMPI_LE_S (R191). -/
  | icmpiLeS (f : FormCI)
  /-- ICMPI_GT_S (R191). -/
  | icmpiGtS (f : FormCI)
  /-- ICMPI_GE_S (R191). -/
  | icmpiGeS (f : FormCI)
  /-- ICMPI_LT_N (R191). -/
  | icmpiLtN (f : FormCI)
  /-- ICMPI_LE_N (R191). -/
  | icmpiLeN (f : FormCI)
  /-- ICMPI_GT_N (R191). -/
  | icmpiGtN (f : FormCI)
  /-- ICMPI_GE_N (R191). -/
  | icmpiGeN (f : FormCI)
  /-- ICMPI_TSTZ (R191). -/
  | icmpiTstz (f : FormCI)
  /-- ICMPI_TSTNZ (R191). -/
  | icmpiTstnz (f : FormCI)
  /-- SEL (R192). -/
  | sel (f : FormG)
  /-- PRMB (R193). -/
  | prmb (f : FormA)
  /-- PRMN (R193). -/
  | prmn (f : FormA)
  /-- PRMN_SX (R193). -/
  | prmnSx (f : FormA)
  /-- PRMN_ZX (R193). -/
  | prmnZx (f : FormA)
  /-- PACK2 (R193). -/
  | pack2 (f : FormA)
  /-- CONV (R194). -/
  | conv (f : FormZ)
  /-- FADD (R195). -/
  | fadd (f : FormA)
  /-- FSUB (R195). -/
  | fsub (f : FormA)
  /-- FMUL (R195). -/
  | fmul (f : FormA)
  /-- FMIN (R195). -/
  | fmin (f : FormA)
  /-- FMAX (R195). -/
  | fmax (f : FormA)
  /-- FMINNM (R195). -/
  | fminnm (f : FormA)
  /-- FMAXNM (R195). -/
  | fmaxnm (f : FormA)
  /-- FABS (R195). -/
  | fabs (f : FormA1)
  /-- FNEG (R195). -/
  | fneg (f : FormA1)
  /-- FCPYS (R195). -/
  | fcpys (f : FormA)
  /-- FSCALE (R195). -/
  | fscale (f : FormA)
  /-- FRINT (R195). -/
  | frint (f : FormA1)
  /-- FCLASS (R195). -/
  | fclass (f : FormA1)
  /-- FFMA (R196). -/
  | ffma (f : FormA)
  /-- FFMS (R196). -/
  | ffms (f : FormA)
  /-- FFNMA (R196). -/
  | ffnma (f : FormA)
  /-- FFNMS (R196). -/
  | ffnms (f : FormA)
  /-- HFMA2 (R196). -/
  | hfma2 (f : FormA)
  /-- BFMA2 (R196). -/
  | bfma2 (f : FormA)
  /-- HDOT2 (R196). -/
  | hdot2 (f : FormA)
  /-- BDOT2 (R196). -/
  | bdot2 (f : FormA)
  /-- HADD2 (R197). -/
  | hadd2 (f : FormA)
  /-- HMUL2 (R197). -/
  | hmul2 (f : FormA)
  /-- HMIN2 (R197). -/
  | hmin2 (f : FormA)
  /-- HMAX2 (R197). -/
  | hmax2 (f : FormA)
  /-- BADD2 (R197). -/
  | badd2 (f : FormA)
  /-- BMUL2 (R197). -/
  | bmul2 (f : FormA)
  /-- BMIN2 (R197). -/
  | bmin2 (f : FormA)
  /-- BMAX2 (R197). -/
  | bmax2 (f : FormA)
  /-- FCMP_EQ (R198). -/
  | fcmpEq (f : FormC)
  /-- FCMP_NE (R198). -/
  | fcmpNe (f : FormC)
  /-- FCMP_LT (R198). -/
  | fcmpLt (f : FormC)
  /-- FCMP_LE (R198). -/
  | fcmpLe (f : FormC)
  /-- FCMP_GT (R198). -/
  | fcmpGt (f : FormC)
  /-- FCMP_GE (R198). -/
  | fcmpGe (f : FormC)
  /-- FCMP_UN (R198). -/
  | fcmpUn (f : FormC)
  /-- FCMP_NUM (R198). -/
  | fcmpNum (f : FormC)
  /-- RCP (R199). -/
  | rcp (f : FormA1)
  /-- RSQ (R199). -/
  | rsq (f : FormA1)
  /-- SQRT (R199). -/
  | sqrt (f : FormA1)
  /-- EXP2 (R199). -/
  | exp2 (f : FormA1)
  /-- LOG2 (R199). -/
  | log2 (f : FormA1)
  /-- SINP (R199). -/
  | sinp (f : FormA1)
  /-- COSP (R199). -/
  | cosp (f : FormA1)
  /-- TANH (R199). -/
  | tanh (f : FormA1)
  /-- SIGM (R199). -/
  | sigm (f : FormA1)
  /-- RNDH (R200). -/
  | rndh (f : FormA)
  /-- SMXM (R201). -/
  | smxm (f : FormA)
  /-- SMXS (R201). -/
  | smxs (f : FormA1)
  /-- SMXF (R201). -/
  | smxf (f : FormA)
  /-- SMXC (R201). -/
  | smxc (f : FormA1)
  /-- PERM (R204). -/
  | perm (f : FormL)
  /-- PERMX (R204). -/
  | permx (f : FormL)
  /-- PERMU (R204). -/
  | permu (f : FormL)
  /-- PERMD (R204). -/
  | permd (f : FormL)
  /-- BALLOT (R205). -/
  | ballot (f : FormLP)
  /-- VALL (R205). -/
  | vall (f : FormLP)
  /-- VANY (R205). -/
  | vany (f : FormLP)
  /-- MATCH (R205). -/
  | matchB (f : FormL1)
  /-- REDADD (R206). -/
  | redadd (f : FormL1)
  /-- REDMIN (R206). -/
  | redmin (f : FormL1)
  /-- REDMAX (R206). -/
  | redmax (f : FormL1)
  /-- SCANADD (R206). -/
  | scanadd (f : FormL1)
  /-- MOVV (R207). -/
  | movv (f : FormA1)
  /-- BCASTW (R207). -/
  | bcastw (f : FormBc)
  /-- READL (R207). -/
  | readl (f : FormA3)
  /-- GSLR (R207). -/
  | gslr (f : FormA3)
  /-- GSLW (R207). -/
  | gslw (f : FormA3)
  /-- KTOW (R207). -/
  | ktow (f : FormDA)
  /-- WTOK (R207). -/
  | wtok (f : FormDA)
  /-- MOVS (R208). -/
  | movs (f : FormMs)
  /-- PTOV (R207). -/
  | ptov (f : FormPv)
  /-- VTOP (R207). -/
  | vtop (f : FormVp)
  /-- LEA0 (R209). -/
  | lea0 (f : FormA)
  /-- LEA1 (R209). -/
  | lea1 (f : FormA)
  /-- LEA2 (R209). -/
  | lea2 (f : FormA)
  /-- LEA3 (R209). -/
  | lea3 (f : FormA)
  /-- LEA4 (R209). -/
  | lea4 (f : FormA)
  /-- ADD64 (R209). -/
  | add64 (f : FormA)
  /-- SUB64 (R209). -/
  | sub64 (f : FormA)
  /-- BRA (R140). -/
  | bra (f : FormB)
  /-- CALL (R141). -/
  | call (f : FormBl)
  /-- JMP (R142). -/
  | jmp (f : FormJ)
  /-- RET (R142). -/
  | ret (f : FormJ)
  /-- CALLX (R142). -/
  | callx (f : FormJ)
  /-- JOIN (R143). -/
  | join (f : FormK1)
  /-- LEAVE (R143). -/
  | leave (f : FormK1)
  /-- WAIT (R136). -/
  | wait (f : FormKw)
  /-- KAND (R143). -/
  | kand (f : FormK3)
  /-- KOR (R143). -/
  | kor (f : FormK3)
  /-- KANDN (R143). -/
  | kandn (f : FormK3)
  /-- KXOR (R143). -/
  | kxor (f : FormK3)
  /-- KSETL (R143). -/
  | ksetl (f : FormKl)
  /-- KCLR (R143). -/
  | kclr (f : FormK1)
  /-- KPOPC (R143). -/
  | kpopc (f : FormKp)
  /-- KFROMW (R143). -/
  | kfromw (f : FormKf)
  /-- BAR (R145). -/
  | bar (f : FormSc)
  /-- BARA (R146). -/
  | bara (f : FormDAB)
  /-- BARW (R146). -/
  | barw (f : FormAB)
  /-- BARC (R146). -/
  | barc (f : FormDB)
  /-- CARVE (R68). -/
  | carve (f : FormDA)
  /-- EXIT (R149). -/
  | exitB
  /-- YIELD (R151). -/
  | yield
  /-- NOP (R151). -/
  | nop (f : FormSc)
  /-- SLEEP (R151). -/
  | sleep (f : FormEA)
  /-- SPAWN (R152). -/
  | spawn (f : FormDA)
  /-- GROUPQ (R153). -/
  | groupq (f : FormDB)
  /-- TRAP (R154). -/
  | trap (f : FormEA)
  /-- RTE (R155). -/
  | rte (f : FormRte)
  /-- SYSC (R156). -/
  | sysc (f : FormDAB)
  /-- FPXR (R158). -/
  | fpxr (f : FormDA)
  /-- FPXC (R158). -/
  | fpxc (f : FormDA)
  /-- BKPT (R154). -/
  | bkpt
  /-- LD (R213). -/
  | ld (f : FormM)
  /-- LDS (R213). -/
  | lds (f : FormMs8)
  /-- LDP (R217). -/
  | ldp (f : FormP)
  /-- ST (R218). -/
  | st (f : FormW)
  /-- STS (R218). -/
  | sts (f : FormW)
  /-- ATOM_ADD (R359). -/
  | atomAdd (f : FormT)
  /-- ATOM_EXCH (R359). -/
  | atomExch (f : FormT)
  /-- ATOM_MINS (R359). -/
  | atomMins (f : FormT)
  /-- ATOM_MAXS (R359). -/
  | atomMaxs (f : FormT)
  /-- ATOMB_AND (R359). -/
  | atombAnd (f : FormT)
  /-- ATOMB_OR (R359). -/
  | atombOr (f : FormT)
  /-- ATOMB_XOR (R359). -/
  | atombXor (f : FormT)
  /-- ATOMB_CAS (R359). -/
  | atombCas (f : FormT)
  /-- ATOMF_FADD (R359). -/
  | atomfFadd (f : FormT)
  /-- ATOMF_FMIN (R359). -/
  | atomfFmin (f : FormT)
  /-- ATOMF_FMAX (R359). -/
  | atomfFmax (f : FormT)
  /-- ATOMF_INCW (R359). -/
  | atomfIncw (f : FormT)
  /-- ATOMS_ADD (R359). -/
  | atomsAdd (f : FormT)
  /-- ATOMS_EXCH (R359). -/
  | atomsExch (f : FormT)
  /-- ATOMS_CAS (R359). -/
  | atomsCas (f : FormT)
  /-- ATOMS_MAXN (R359). -/
  | atomsMaxn (f : FormT)
  /-- RED_ADD (R362). -/
  | redAdd (f : FormR)
  /-- RED_MINS (R362). -/
  | redMins (f : FormR)
  /-- RED_MAXS (R362). -/
  | redMaxs (f : FormR)
  /-- RED_AND (R362). -/
  | redAnd (f : FormR)
  /-- RED_OR (R362). -/
  | redOr (f : FormR)
  /-- RED_XOR (R362). -/
  | redXor (f : FormR)
  /-- RED_FADD (R362). -/
  | redFadd (f : FormR)
  /-- RED_HADD2 (R362). -/
  | redHadd2 (f : FormR)
  /-- RED_BADD2 (R362). -/
  | redBadd2 (f : FormR)
  /-- FENCE (R222). -/
  | fence (f : FormF)
  /-- PIN (R223). -/
  | pin (f : FormPin)
  /-- UNPIN (R223). -/
  | unpin (f : FormMc)
  /-- INVL1 (R224). -/
  | invl1 (f : FormMc)
  /-- WBL2 (R224). -/
  | wbl2 (f : FormMc)
  /-- PREF (R224). -/
  | pref (f : FormMc)
  /-- SIGQ (R225). -/
  | sigq (f : FormED)
  /-- CPLIN (R227). -/
  | cplin (f : FormDA)
  /-- CPIDX (R228). -/
  | cpidx (f : FormDAB)
  /-- CPQF (R229). -/
  | cpqf (f : FormEA)
  /-- CPSTAT (R230). -/
  | cpstat (f : FormDA)
  /-- CPMC (R227). -/
  | cpmc (f : FormDA)
  /-- SWARM (R235). -/
  | swarm (f : FormAB)
  /-- SWWAIT (R235). -/
  | swwait (f : FormDAB)
  /-- SWADD (R235). -/
  | swadd (f : FormAB)
  /-- SWRD (R235). -/
  | swrd (f : FormDA)
  /-- PUSH (R366). -/
  | push (f : FormAB)
  /-- PUSHT (R366). -/
  | pusht (f : FormDAB)
  /-- POP (R366). -/
  | pop (f : FormDB)
  /-- POPT (R366). -/
  | popt (f : FormDB)
  /-- PIPEQ (R366). -/
  | pipeq (f : FormDB)
  /-- DEQ (R368). -/
  | deq (f : FormDB)
  /-- DONE (R369). -/
  | done (f : FormTk)
  /-- DEPADD (R369). -/
  | depadd (f : FormTk)
  /-- CANCEL (R369). -/
  | cancel (f : FormTc)
  /-- TQSTAT (R370). -/
  | tqstat (f : FormDB)
  /-- ENQ (R371). -/
  | enq (f : FormN)
  /-- ENQ_CMP (R371). -/
  | enqCmp (f : FormNc)
  /-- PUT (R375). -/
  | put (f : FormDA)
  /-- PUTSIG (R375). -/
  | putsig (f : FormDA)
  /-- WINRD (R377). -/
  | winrd (f : FormDA)
  /-- WINWAIT (R377). -/
  | winwait (f : FormDAB)
  /-- MXRES (R258). -/
  | mxres (f : FormDA)
  /-- MXREL (R259). -/
  | mxrel
  /-- MXZERO (R260). -/
  | mxzero (f : FormAB)
  /-- MXSTAT (R261). -/
  | mxstat (f : FormMx)
  /-- MXTEST (R262). -/
  | mxtest (f : FormED)
  /-- MXPRI (R262). -/
  | mxpri (f : FormEA)
  /-- MMA (R249). -/
  | mma (f : FormQ)
  /-- MXDS (R265). -/
  | mxds (f : FormAB)
  /-- MXDV (R266). -/
  | mxdv (f : FormDAB)
  /-- REQ (R268). -/
  | req (f : FormEA)
  /-- MXLD (R267). -/
  | mxld (f : FormAB)
  /-- WSTART (R300). -/
  | wstart (f : FormDA)
  /-- WJOIN (R301). -/
  | wjoin (f : FormDAB)
  /-- WLEAVE (R301). -/
  | wleave (f : FormDAB)
  /-- WWAIT (R302). -/
  | wwait (f : FormDA)
  /-- WSTAT (R303). -/
  | wstat (f : FormDAB)
  /-- KVAPP (R304). -/
  | kvapp (f : FormDA)
  /-- WRETIRE (R305). -/
  | wretire (f : FormDAB)
  /-- SOPEN (R315). -/
  | sopen (f : FormDA)
  /-- SSIG (R316). -/
  | ssig (f : FormDAB)
  /-- SCOMMIT (R317). -/
  | scommit (f : FormDAB)
  /-- SMAP (R319). -/
  | smap (f : FormDAB)
  /-- SCLOSE (R318). -/
  | sclose (f : FormDA)
  /-- MAPBIND (R324). -/
  | mapbind (f : FormDA)
  /-- MAPCOMP (R325). -/
  | mapcomp (f : FormDAB)
  /-- MAPAPPLY (R326). -/
  | mapapply (f : FormDAB)
  /-- MAPMASK (R327). -/
  | mapmask (f : FormDAB)
  /-- MAPSTAT (R328). -/
  | mapstat (f : FormDA)
  /-- DSUB (R343). -/
  | dsub (f : FormDA)
  /-- DSTAT (R344). -/
  | dstat (f : FormDA)
  /-- DWAIT (R345). -/
  | dwait (f : FormDA)
  /-- TKSEL (R331). -/
  | tksel (f : FormDA)
  /-- TKMRG (R332). -/
  | tkmrg (f : FormDA)
  /-- TKWAIT (R333). -/
  | tkwait (f : FormDA)
  /-- XW_IMM (R103). -/
  | xwImm (f : PrImm)
  /-- XW_MOD (R104). -/
  | xwMod (f : PrMod)
  /-- XW_ORD (R105). -/
  | xwOrd (f : PrOrd)
  /-- XW_FMT (R106). -/
  | xwFmt (f : PrFmt)
  /-- XW_SCHED (R107). -/
  | xwSched (f : PrSched)
  /-- QPROD_WRITE (R42). -/
  | qprodWrite (die q : Nat) (v : Word)
  /-- QFLAGS_WRITE (R41). -/
  | qflagsWrite (die q : Nat) (v : Byte)
  /-- LAUNCH (R16). -/
  | launch (die q : Nat)
  /-- SIGNAL (R34). -/
  | signal (die q : Nat)
  /-- WAIT_COMMAND (R34). -/
  | waitCommand (die q : Nat)
  /-- WAIT_CONDITION_HOLDS (R34). -/
  | waitConditionHolds (die q : Nat)
  /-- COPY (R34). -/
  | copy (die q : Nat)
  /-- COMMAND_COPY_COMPLETE (R34). -/
  | commandCopyComplete (k : Nat)
  /-- PREEMPT (R415). -/
  | preempt (die q : Nat)
  /-- INVALIDATION_GO (R76). -/
  | invalidationGo (die : Nat)
  /-- INVALIDATION_COMPLETE (R76). -/
  | invalidationComplete (die : Nat)
  /-- COUNTER_ARM (R47). -/
  | counterArm (die off size : Nat) (v : DWord)
  /-- SVCREPLY_WRITE (R157). -/
  | svcreplyWrite (ctx : Nat) (n : Word)
  /-- RESUME (R420). -/
  | resume (ctx : Nat)
  /-- CREATE (R431). -/
  | create (die : Nat)
  /-- DESTROY (R432). -/
  | destroy (die : Nat)
  /-- FENCE_COMMAND (R433). -/
  | fenceCommand (die : Nat)
  /-- LINK (R433). -/
  | link (die : Nat)
  /-- POWER (R437). -/
  | power (die : Nat)
  /-- ENTER_SERVICE (R436). -/
  | enterService (die : Nat)
  /-- MANAGEMENT_WRITE (R428). -/
  | managementWrite (die off size : Nat) (v : DWord)
  /-- HOST_CXL_MEM_WRITE (R388). -/
  | hostCxlMemWrite (pa : Nat) (bytes : List Byte)
  /-- HOST_SNOOP (R388). -/
  | hostSnoop (pa : Nat) (bytes : List Byte) (held : List Nat)
  /-- LINK_RETRY (R39). -/
  | linkRetry (die : Nat)
  /-- MODULE_DOWN (R39). -/
  | moduleDown (die : Nat)
  /-- POWER_ON (R435). -/
  | powerOn
  /-- TRAINING_COMPLETE (R434). -/
  | trainingComplete (die : Nat) (link : Bool)
  /-- POWER_REMOVAL (R437). -/
  | powerRemoval
  /-- IDLE_ENTRY (R437). -/
  | idleEntry (die : Nat)
  /-- IDLE_EXIT (R437). -/
  | idleExit (die : Nat)
  /-- ECC_CORRECTED (R422). -/
  | eccCorrected (die : Nat) (addr : DWord)
  /-- UNCORRECTABLE_ERROR (R422). -/
  | uncorrectableError (die : Nat) (at_ : EccTarget)
  /-- BLOCK_PLACE (R61). -/
  | blockPlace (die l : Nat)
  /-- DISPATCH_WAIT_EXPIRY (R45). -/
  | dispatchWaitExpiry (die : Nat)
  /-- TRANSFORM_BINDING (R346). -/
  | transformBinding (blk : Nat)
  /-- BLOCK_START (R26). -/
  | blockStart (blk : Nat)
  /-- BLOCK_EXIT (R150). -/
  | blockExit (blk : Nat)
  /-- LAUNCH_COMPLETE (R425). -/
  | launchComplete (l : Nat)
  /-- PARENT_RESUME (R56). -/
  | parentResume (blk die : Nat)
  /-- COUNTER_OPERATION (R48). -/
  | counterOperation (k : Nat)
  /-- TEMPLATE_ENQUEUE (R49). -/
  | templateEnqueue (die : Nat)
  /-- DEQ_FILL (R50). -/
  | deqFill (k : Nat)
  /-- RENDEZVOUS_COMPLETE (R123). -/
  | rendezvousComplete (blk k : Nat)
  /-- LOAD_FILL (R213). -/
  | loadFill (k : Nat)
  /-- ASW_REQUEST (R358). -/
  | aswRequest (k : Nat)
  /-- ATOMIC_REPLY (R359). -/
  | atomicReply (k : Nat)
  /-- SLEEP_END (R151). -/
  | sleepEnd (blk warp lane : Nat)
  /-- STL_END (R107). -/
  | stlEnd (blk warp lane : Nat)
  /-- SIBLING_STOP (R404). -/
  | siblingStop (blk warp : Nat)
  /-- HANDLER_ENTRY (R407). -/
  | handlerEntry (blk : Nat)
  /-- SAVING (R419). -/
  | saving (ctx : Nat)
  /-- FORCED_RESET (R418). -/
  | forcedReset (ctx : Nat)
  /-- QUEUE_STALL (R59). -/
  | queueStall (k : Nat)
  /-- COPY_ARRIVAL (R234). -/
  | copyArrival (k : Nat)
  /-- COPY_COMPLETE (R231). -/
  | copyComplete (k : Nat)
  /-- SWWAIT_RELEASE (R235). -/
  | swwaitRelease (blk warp : Nat)
  /-- BARW_RELEASE (R146). -/
  | barwRelease (blk warp : Nat)
  /-- POP_RELEASE (R366). -/
  | popRelease (blk warp : Nat)
  /-- PASS (R247). -/
  | pass (k : Nat)
  /-- MXZERO_SERVE (R260). -/
  | mxzeroServe (k : Nat)
  /-- MXDS_SERVE (R265). -/
  | mxdsServe (k : Nat)
  /-- MXDV_SERVE (R266). -/
  | mxdvServe (k : Nat)
  /-- MXLD_SERVE (R267). -/
  | mxldServe (k : Nat)
  /-- REQ_SERVE (R268). -/
  | reqServe (k : Nat)
  /-- MXSTAT_RETURN (R261). -/
  | mxstatReturn (blk warp : Nat)
  /-- SELF_TEST (R270). -/
  | selfTest (cl sub : Nat) (good : Bool)
  /-- WALK_VALIDATE (R285). -/
  | walkValidate (w : Nat)
  /-- NODE_VISIT (R289). -/
  | nodeVisit (w : Nat)
  /-- REVISIT (R294). -/
  | revisit (w : Nat)
  /-- CATCHUP (R292). -/
  | catchup (w : Nat)
  /-- WALK_COMPLETE (R284). -/
  | walkComplete (w : Nat)
  /-- WJOIN_PERFORMED (R291). -/
  | wjoinPerformed (k : Nat)
  /-- WLEAVE_PERFORMED (R291). -/
  | wleavePerformed (k : Nat)
  /-- WRETIRE_PERFORMED (R297). -/
  | wretirePerformed (k : Nat)
  /-- KVAPP_COMPLETE (R304). -/
  | kvappComplete (k : Nat)
  /-- WWAIT_RELEASE (R302). -/
  | wwaitRelease (blk warp : Nat)
  /-- MAPMASK_COMPLETE (R327). -/
  | mapmaskComplete (k : Nat)
  /-- TOPK_COMPLETE (R331). -/
  | topkComplete (k : Nat)
  /-- TKWAIT_RELEASE (R333). -/
  | tkwaitRelease (blk warp : Nat)
  /-- CHUNK_COMMIT (R339). -/
  | chunkCommit (j : Nat)
  /-- JOB_COMPLETE (R340). -/
  | jobComplete (j : Nat)
  /-- DWAIT_RELEASE (R345). -/
  | dwaitRelease (blk warp : Nat)
  /-- DATA (R378). -/
  | data (k : Nat)
  /-- DATA_SIGNAL (R375). -/
  | dataSignal (k : Nat)
  /-- ACK (R378). -/
  | ack (k : Nat)
  /-- NACK (R421). -/
  | nack (k : Nat)
  /-- RETRY_TIMEOUT (R378). -/
  | retryTimeout (k : Nat)
  /-- WINWAIT_RELEASE (R377). -/
  | winwaitRelease (blk warp : Nat)
  /-- STORE_PERFORMED (R365). -/
  | storePerformed (k : Nat)
  /-- TRANSLATION_WALK_COMPLETE (R75). -/
  | translationWalkComplete (k : Nat)
  /-- SEQUENCER_OPERATION (R312). -/
  | sequencerOperation (k : Nat)
  /-- MAPCOMP_COMPLETE (R325). -/
  | mapcompComplete (k : Nat)
  /-- MAPAPPLY_FILL (R326). -/
  | mapapplyFill (k : Nat)
  /-- RING_SLOT_FREE (R157). -/
  | ringSlotFree (ctx : Nat)
  deriving DecidableEq, Repr, Inhabited

end Sys2Proof
end

