-- ==== Sys2Proof/Machine/State.lean ====
section
/-! DEFINITION. The state of the device, as plain data, and the state after reset. Blocks, launches and
walks keep their place in their lists when they end (a phase says so), so that a place names one for
good. -/

namespace Sys2Proof.Machine

/-- Why a step of the model stops. Neither is a behaviour that the spec gives the device. -/
inductive Fault where
  /-- An encoded word was given to `exec` in a state in which no issue group is selected. Raised by
  every encoded instruction; `step` never gives such a state. Safe: the machine stops. -/
  | noIssue
  /-- A step of the device without an encoding was given in a state that does not enable it. Raised by
  the events; `step` gives an internal event only where it is enabled. Safe: the machine stops. -/
  | notEnabled
  deriving DecidableEq, Repr, Inhabited

/-- Why an instruction has no meaning. -/
inductive Refusal where
  /-- The instruction of this mnemonic is not modelled. Safe: the machine stops. -/
  | notModelled (mnemonic : String)
  deriving DecidableEq, Repr, Inhabited

/-- Trap causes, with the codes of R414. -/
inductive Cause where
  | illegalOp | emptyRead | misalign | xlate | prot | paramUnbound | scopeMismatch | break_
  | poison | engine | watch | spawnDepth
  deriving DecidableEq, Repr, Inhabited

/-- A word of a prefix run, kept until the word it precedes executes (R101, R102). `bad` stands for an
XW word of a reserved kind or with a zero field that is not zero. -/
inductive Prefix where
  | imm (p : PrImm)
  | mod (p : PrMod)
  | ord (p : PrOrd)
  | fmt (p : PrFmt)
  | sched (p : PrSched)
  | bad
  deriving DecidableEq, Repr, Inhabited

/-- The unit of a rendezvous instance (R123). -/
inductive RdvUnit where
  | warp (w : Nat)
  | set (i : Nat)
  | block
  deriving DecidableEq, Repr, Inhabited

/-- What a lane's issue stalls on (R58, R59, R252, R299, R357), the engine operations of its block included
(R54, R68). -/
inductive StallOn where
  | queue (q : Nat)
  | pipe (p : Nat)
  | copyQueue (q : Nat)
  | ring
  | jobs
  | posts
  | mrt
  | walker
  | engines
  | asw
  deriving DecidableEq, Repr, Inhabited

/-- Where a lane stands (R114, R116, R131). `held` waits for the reply of an acquiring access (R363), after which its
delay runs to a cycle (R107). -/
inductive LaneStatus where
  | absent
  | exited
  | ready
  | rdv (u : RdvUnit) (addr : DWord)
  | kwait (k : Nat)
  | fill
  | sleep (til : Nat)
  | stl (til : Nat)
  | stall (on : StallOn)
  | held (til : Nat)
  deriving DecidableEq, Repr, Inhabited

/-- A thread: its lane's registers, full/empty bits and poison marks by register number, predicates,
program counter and pending prefix run (R9, R97, R108, R114, R269, R411, R413). `watchSkip` says which replayed accesses
are made without the watch check, in bit 0 that of data and in bit 1 the fetches. -/
structure Lane where
  pc : DWord
  v : List Word
  empty : DWord
  poison : DWord
  preds : BitVec 7
  run : List Prefix
  runStart : DWord
  status : LaneStatus
  replay : Bool
  watchSkip : BitVec 2
  deriving DecidableEq, Repr, Inhabited

/-- An element of a set register (R133). -/
structure Elem where
  val : Word
  full : Bool
  poison : Bool
  deriving DecidableEq, Repr, Inhabited

/-- What a whole warp waits for, with the code of the register it writes when it goes on (R99). `mxstat` has the posts
that it covers, the sub-arrays tested since they completed, and whether it is of the whole block (R261, R270), `ring` the request of a SYSC whose lanes are
stalled on a full ring (R156). -/
inductive WaitFor where
  | sync (off : Nat) (gen : Word) (d : Nat)
  | barrier (b : Nat) (phase : Word) (ms : Nat) (lanes : Word)
  | pop (p : Nat) (d : Nat) (order : Nat)
  | job (ticket : Word) (d : Nat)
  | topk (ticket : Word) (d : Nat)
  | walk (w : Nat) (d : Nat)
  | window (h : Nat) (ack : Bool) (val : Word) (d : Nat)
  | mxstat (mode : Nat) (tile : Nat) (d : Nat) (covered : List Nat) (tested : BitVec 4) (whole : Bool)
  | mxtest (pending failed : BitVec 4) (d : Nat)
  | reply (n : Word) (d : Nat)
  | ring (req arg : Word) (d : Nat) (addr : DWord)
  deriving DecidableEq, Repr, Inhabited

/-- A signature (R388): the 512-bit mask, and whether it is saturated. -/
structure Sig where
  bits : BitVec 512
  sat : Bool
  deriving DecidableEq, Repr, Inhabited

/-- A warp: 32 lanes, its shared registers and its issue counts (R9, R115, R135, R208, R365, R388).
`hold` names the operation that holds its issue (R97). `seen` and `seenSig` are what its releases publish beside
its own write set: the sectors that its acquires have read and that other warps of its core had written when it last
acquired, and the signatures that its core had applied; `reads` are the sectors of its other loads, which a FENCE makes
acquires (R383, R385; assumption 19). -/
structure Warp where
  lanes : List Lane
  w : List Word
  k : List Word
  live : Word
  clockHi : Word
  issued : Word
  drained : Word
  wset : List Nat
  hold : Option Nat
  wait : Option WaitFor
  seen : List Nat := []
  seenSig : Sig := ⟨0, false⟩
  reads : List Nat := []
  deriving DecidableEq, Repr, Inhabited

/-- A set of the block: its declaration and its g registers, register n element position × 32 + lane
(R18, R20, R133). -/
structure SetB where
  members : Word
  slot : Nat
  g : List (List Elem)
  deriving DecidableEq, Repr, Inhabited

/-- A rendezvous instance (R123 to R127): the lanes of each warp that take part and that have arrived, whether
it has completed, so that the next of its lanes to issue performs the instruction for all, and the lanes for
which a stalled ENQ has been performed (R371). -/
structure Inst where
  u : RdvUnit
  addr : DWord
  part : List Word
  arrived : List Word
  granted : Bool
  served : Word := 0
  deriving DecidableEq, Repr, Inhabited

/-- A split barrier (R146). -/
structure SplitBar where
  expect : Nat
  count : Nat
  phase : Word
  deriving DecidableEq, Repr, Inhabited

/-- An entry of a pipe with its stamp and its pusher (R364). -/
structure PipeEntry where
  words : List Word
  stamp : Word
  warp : Nat
  deriving DecidableEq, Repr, Inhabited

/-- An accumulator tile: rows of ACC40 codes, the poison of its four row groups, and for row group g and
sub-array s (bit 4g + s) whether the present value depends on a pass of s since its last good test, and whether s has
computed one there since its last good test (R242, R269 to R271). `away` keeps both for the sub-arrays of clusters that
its block has left by a swap-out. -/
structure Tile where
  rows : List (List (BitVec 40))
  poison : BitVec 4
  dep : BitVec 16
  untested : BitVec 16
  away : List (Nat × BitVec 16 × BitVec 16) := []
  deriving DecidableEq, Repr, Inhabited

/-- A copy queue of a block (R226, R229, R230): posts, completions, the error record, and the operations that
must complete before any later post starts. -/
structure CopyQ where
  posted : Word
  completed : Word
  err : Word
  fence : List Nat
  deriving DecidableEq, Repr, Inhabited

/-- The trap of one warp: its cause, the lanes and address that R408 shows, and every lane's restart
address (R408, R409). `runLen` is each lane's RUNLEN of R155: stuck lanes may stand at different
instructions (R132). `replay` and `skips` keep the marks of the lanes while the handler runs, `atFetch` says that a fetch
raised it (R411, R413). -/
structure Trap where
  warp : Nat
  cause : Cause
  faultLanes : Word
  prevActive : Word
  faddr : DWord
  epc : List DWord
  runLen : List Nat
  replay : Word := 0
  skips : List (BitVec 2) := []
  atFetch : Bool := false
  deriving DecidableEq, Repr, Inhabited

/-- A halted block (R404 to R410): the trap of the faulting warp, the warps that have stopped, each
warp's skid, the traps that the skids raised, whether the faulting warp is in its handler, and whether
the trap cannot be taken or the handler has exited (R412). -/
structure Halt where
  trap : Trap
  stopped : List Bool
  skids : List Nat
  pending : List Trap
  handler : Bool
  lost : Bool
  deriving DecidableEq, Repr, Inhabited

/-- Where a block stands in its life (R26, R54, R57, R150): its next binding, running, saved in the swap
arena by SPAWN, or gone. -/
inductive BlockPhase where
  | prologue (binding : Nat)
  | running
  | saved
  | gone
  deriving DecidableEq, Repr, Inhabited

/-- A block: identity and placement (R12, R53, R62), carve-out (R17), sets, warps, scratchpad with its
poisoned words and the bytes written of each since (R65, R422), rendezvous instances, barriers, pipes,
tiles and priority (R243, R262), copy queues, tickets, and its halt. -/
structure Block where
  launch : Nat
  index : Nat
  depth : Nat
  ctx : Nat
  die : Nat
  cluster : Nat
  core : Nat
  phase : BlockPhase
  lregs : Nat
  gregs : Nat
  regGran : Nat
  spGran : Nat
  l1Gran : Nat
  sets : List SetB
  warps : List Warp
  sp : List Host.Cell
  spPoison : List (Nat × BitVec 4)
  insts : List Inst
  bars : List SplitBar
  pipes : List (List PipeEntry)
  popOrder : Nat
  tiles : List Tile
  mxPri : Nat
  copyQ : List CopyQ
  jobTickets : Word
  topkTickets : Word
  topkDone : Word
  topkHist : List (Word × Word)
  halt : Option Halt
  spawnD : Nat
  arenaOff : Nat
  saveB : Nat
  deriving DecidableEq, Repr, Inhabited

/-- A window of a launch (R22). -/
structure Window where
  base : DWord
  size : Word
  deriving DecidableEq, Repr, Inhabited

/-- A transform binding (R25). -/
structure Binding where
  kind : Nat
  fmt : Nat
  dst : Nat
  src : DWord
  stride : Nat
  len : Nat
  rows : Nat
  cols : Nat
  aux : Nat
  deriving DecidableEq, Repr, Inhabited

/-- A launch record as the device copies it (R10, R13). -/
structure Record where
  code : DWord
  gridX : Nat
  gridY : Nat
  gridZ : Nat
  blkX : Nat
  blkY : Nat
  blkZ : Nat
  lregs : Nat
  cls : Nat
  persistent : Bool
  sealed_ : Bool
  scratch : Nat
  gregs : Nat
  l1min : Nat
  ctx : Nat
  doneCtr : DWord
  report : DWord
  tag : DWord
  sets : List (Word × Nat)
  windows : List (Option Window)
  bindings : List Binding
  deriving DecidableEq, Repr, Inhabited

/-- How far a launch has come (R27, R57, R416, R425). `held` is a child grid that waits for its context
to run again. -/
inductive LaunchPhase where
  | running
  | held
  | done
  deriving DecidableEq, Repr, Inhabited

/-- A launch (R27, R44, R53, R180): its record, home die, eligible dies, depth, parent block, age, the
queue and place of its command, and what its report will hold. `taken` is the cycle in which it was taken, `again` are the blocks of a persistent launch that have
exited while their context was drained and are to be placed anew (R57, R417), `snap` is the memory as it stood when the
launch was taken, for its transform bindings (R349). -/
structure Launch where
  rcd : Record
  home : Nat
  diesMask : BitVec 4
  depth : Nat
  parent : Option Nat
  age : Nat
  cmd : Option (Nat × Nat × Nat)
  phase : LaunchPhase
  next : Nat
  exited : Nat
  blocksDone : Nat
  status : Nat
  failBlock : Word
  detail : Nat
  faddr : DWord
  winSticky : BitVec 16
  oob : Word
  fpx : List Word
  fpxHit : BitVec 24
  taken : Nat := 0
  again : List Nat := []
  snap : List Host.Cell := []
  deriving DecidableEq, Repr, Inhabited

/-- A watch range of a context (R413). -/
structure Watch where
  base : DWord
  len : Word
  kinds : BitVec 3
  deriving DecidableEq, Repr, Inhabited

/-- A registered window handle and its counts (R372), and the sectors that puts have written through it and that
no signal has yet released (R375). -/
structure Handle where
  lbase : DWord
  lsize : Word
  valid : Bool
  thandle : Nat
  tpkg : Nat
  tctx : Nat
  rcv : Word
  ack : Word
  issued : Word
  err : BitVec 2
  sectors : List Nat
  deriving DecidableEq, Repr, Inhabited

/-- An entry of a task queue: its eight words and the taker that holds it, if taken and not retired:
block, warp, lane and the order of taking (R29, R417). -/
structure QEntry where
  words : List Word
  taken : Option (Nat × Nat × Nat × Nat)
  deriving DecidableEq, Repr, Inhabited

/-- A task queue of a context on a die (R46). -/
structure TaskQ where
  entries : List QEntry
  enable : Bool
  redeliver : Bool
  deriving DecidableEq, Repr, Inhabited

/-- Pre-emption states (R403). -/
inductive PreState where
  | running | draining | saving | suspended | resetting | reset
  deriving DecidableEq, Repr, Inhabited

/-- A live context: what CREATE gave it (R431), its control block (R403), exception block (R182), window
table (R372), task queues (die × 16 + queue), service-ring counts (R157) and TQSTAT counts (R370).
`deadline` is the cycle at which a drain expires (R415). -/
structure Ctx where
  id : Nat
  sealed_ : Bool
  taskDie : Nat
  cbase : Nat
  ccount : Nat
  root : DWord
  arena : DWord
  arenaMB : Nat
  ringN : Nat
  ring : DWord
  pinL1 : Nat
  pinL2 : Nat
  walkSt : DWord
  grant : List Byte
  handler : DWord
  saveArea : DWord
  dl : List Word
  preState : PreState
  preCls : Nat
  preResult : Nat
  deadline : Option Nat
  saves : Word
  wdog : Word
  watch : List Watch
  thresh : List Word
  cring : DWord
  cringN : Word
  cringSeq : Word
  handles : List Handle
  queues : List TaskQ
  svcProd : Word
  svcWaiting : List Word
  outOfRange : Nat
  absorbed : Nat
  l2pins : List (Nat × Nat)
  deriving DecidableEq, Repr, Inhabited

/-- A dependency counter (R47). -/
inductive CtrState where
  | idle | armed | fired
  deriving DecidableEq, Repr, Inhabited

/-- A dependency counter record (R47). -/
structure Counter where
  count : Word
  queue : BitVec 6
  st : CtrState
  cxl : Bool
  template : List Word
  deriving DecidableEq, Repr, Inhabited

/-- A host command queue (R41 to R43, R440). `waiting` is the condition of a WAIT that holds the queue,
`open_` the commands taken and not completed, `signals` the SIGNALs among them, `written` the consumed count last
written to QRET. -/
structure CmdQ where
  base : DWord
  ret : DWord
  ctx : Nat
  flags : Byte
  prod : Word
  consumed : Word
  written : Word
  stopped : Bool
  overrun : Bool
  cmdFault : Bool
  waiting : Option (DWord × DWord × Nat × Word)
  open_ : List Nat
  signals : List (Nat × List Byte)
  deriving DecidableEq, Repr, Inhabited

/-- An L1 line (R66, R77, R85, R214, R215): its physical line address and its context, its 128 bytes, the bytes
written and not yet written back, the read-only and stale marks, the blocks that pin it, whether it is the first
candidate for replacement, whether INVL1 has invalidated it in its place (R224), and the cycle in which its bytes came
from the home. -/
structure L1Line where
  line : Nat
  ctx : Nat
  bytes : List Byte
  dirty : BitVec 128
  ro : Bool
  stale : Bool
  pins : List Nat
  stream : Bool := false
  void : Bool := false
  since : Nat := 0
  deriving DecidableEq, Repr, Inhabited

/-- A line of a core's instruction cache (R2, R89): its context, its physical line address, and its 128 bytes as they
were when it was fetched. -/
structure CodeLine where
  ctx : Nat
  line : Nat
  bytes : List Byte
  deriving DecidableEq, Repr, Inhabited

/-- A core: its L1, its pending signature, the sectors it has learnt of (R388 to R390), its instruction cache, and the
sectors that releases on it have covered and that none has carried to the package (R385; assumption 19). -/
structure Core where
  l1 : List L1Line
  pending : Sig
  known : Sig
  code : List CodeLine
  shared : List Nat := []
  deriving DecidableEq, Repr, Inhabited

/-- A translation kept by a buffer of a die (R2, R75): the buffer, as the place of `Place` that it serves, context,
first virtual address, size of the page, and its entry. -/
structure Tlb where
  place : Nat
  ctx : Nat
  va : Nat
  size : Nat
  entry : DWord
  deriving DecidableEq, Repr, Inhabited

/-- An open step of a cluster's sequencer (R315), with its table as read and the sectors written for it. -/
structure OpenStep where
  handle : Nat
  blk : Nat
  ctx : Nat
  table : DWord
  desc : List Byte
  gen : Word
  sectors : List Nat
  deriving DecidableEq, Repr, Inhabited

/-- A cluster: its engine health block (R272), its walk-id count (R300), its open steps (R315) and the
passes since each sub-array's last test (R270). -/
structure Cluster where
  suspect : BitVec 4
  fenced : BitVec 4
  tests : Word
  fails : Word
  walkIds : Word
  steps : List OpenStep
  passes : List Nat := [0, 0, 0, 0]
  deriving DecidableEq, Repr, Inhabited

/-- A launch whose next block failed to fit on a die while the launch stood first there: the age of the launch, the
first cycle of it, and whether the 16,384 cycles have run out (R45). -/
structure DispatchWait where
  age : Nat
  since : Nat
  isOver : Bool
  deriving DecidableEq, Repr, Inhabited

/-- A compute die: management registers (R41, R76, R423, R429, R434, R437), task counters (R46), fired templates (R49:
context, queue, entry), dispatcher (R45, R61), translation buffers (R75) and the map bindings of its engine (R324).
`invalidating` holds the invalidations that GO has started, `hostUp` and `hostFailed` name the host modules in service
and those that failed training, and `hostLines` the lines of host memory that the die's L2 holds (R70, R388). -/
structure Die where
  cmdqs : List CmdQ
  vbase : DWord
  nunits : Word
  ivctx : Byte
  ivdone : DWord
  invalidating : List (DWord × Word × Nat)
  elbase : DWord
  eln : Word
  elseq : Word
  mbcmd : List Byte
  mbrsp : List Byte
  mbdone : Word
  hostUp : BitVec 2
  hostFailed : BitVec 2
  trained : BitVec 2
  idleOk : Bool
  idle : Bool
  idleSince : Nat
  counters : List Counter
  fired : List (Nat × Nat × List Word)
  pointer : Nat
  waits : List DispatchWait
  tlb : List Tlb
  hostLines : List Nat := []
  deriving DecidableEq, Repr, Inhabited

/-- The bring-up mode (R434, R435). -/
inductive Mode where
  | off | twilight | service
  deriving DecidableEq, Repr, Inhabited

/-- What a fill writes: lane registers from a first code on, a warp register, or an element of a set
register (R97). -/
inductive Dest where
  | v (lane first : Nat)
  | w (first : Nat)
  | g (set pos lane first : Nat)
  deriving DecidableEq, Repr, Inhabited

/-- The release of an access on its way (R220, R363): its scope, the lanes whose earlier accesses it follows, and the
first name that is no earlier access. -/
structure Rel where
  ms : Nat
  lanes : Word
  first : Nat
  deriving DecidableEq, Repr, Inhabited

/-- A FENCE whose release has still to be performed: the lanes whose accesses it orders (R222). -/
structure FenceOp where
  id : Nat
  blk : Nat
  warp : Nat
  lanes : Word
  ms : Nat
  deriving DecidableEq, Repr, Inhabited

/-- A load whose data has not arrived (R213), from global memory or scratchpad. `lane` 32 stands for an access of
warp scope; `half` is the half of a 128-bit access that has been read, if one has (R381); `acq` is the scope of its
acquire, if it has one. -/
structure LoadOp where
  id : Nat
  blk : Nat
  warp : Nat
  lane : Nat
  dest : Dest
  pa : Nat
  size : Nat
  sx : Bool
  hint : Nat
  scratch : Bool := false
  half : Option (Bool × List Byte) := none
  acq : Option Nat := none
  deriving DecidableEq, Repr, Inhabited

/-- A write of a lane or warp not yet performed everywhere (R365): to global memory or scratchpad, its
bytes, whether the L1 of the core has them, the number and the cycle of its issue, and its release. `lane` 32 stands for
an access of warp scope. -/
structure StoreOp where
  id : Nat
  blk : Nat
  warp : Nat
  lane : Nat
  scratch : Bool
  pas : List Nat
  bytes : List Byte
  multicast : Bool
  atCore : Bool
  issue : Word
  cycle : Nat := 0
  rel : Option Rel := none
  deriving DecidableEq, Repr, Inhabited

/-- What an atomic or reduction does to its word (R359, R362). -/
inductive AtomOpn where
  | add | exch | mins | maxs | and | or | xor | cas | fadd | fmin | fmax | incw | maxn | hadd2 | badd2
  deriving DecidableEq, Repr, Inhabited

/-- An atomic or reduction on its way to its home service warp, or to the scratchpad unit (R357 to R361), with the
number and the cycle of its issue. `acq` is the scope of its acquire, if it has one, and `rel` its release; `early` the
value read before a write of the host that it does not see (R38). -/
structure AtomOp where
  id : Nat
  blk : Nat
  warp : Nat
  lane : Nat
  opn : AtomOpn
  pa : Nat
  b : Word
  b2 : Word
  dest : Option Dest
  issue : Word
  cycle : Nat := 0
  scratch : Bool := false
  acq : Option Nat := none
  early : Option Word := none
  rel : Option Rel := none
  deriving DecidableEq, Repr, Inhabited

/-- A value on its way to a register (R97, R359), with whether it was read from a poisoned location (R422). -/
structure ReplyOp where
  id : Nat
  blk : Nat
  warp : Nat
  lane : Nat
  dest : Dest
  vals : List Word
  pois : Bool
  acq : Option Nat := none
  deriving DecidableEq, Repr, Inhabited

/-- A copy of the host (R34). -/
structure HostCopy where
  die : Nat
  q : Nat
  n : Nat
  ctx : Nat
  src : DWord
  dst : DWord
  len : Nat
  seq : Word
  deriving DecidableEq, Repr, Inhabited

/-- One run of bytes of a copy operation (R227, R228): source, destination and length, a zero row when
the source is absent, and the bytes of a row that have been written and not yet counted. -/
structure CopyRun where
  src : Option Nat
  srcSp : Bool
  dst : Nat
  dstSp : Bool
  len : Nat
  written : Nat := 0
  deriving DecidableEq, Repr, Inhabited

/-- A posted copy operation (R226 to R231): its queue and ticket, the runs still to do, its sync word, whether its
runs are rows of a gather, which are counted one by one, whether it has failed with which code and address, the
sectors it has written, and the operations that must complete before it starts (R229). -/
structure CopyOp where
  id : Nat
  blk : Nat
  warp : Nat
  q : Nat
  ticket : Word
  runs : List CopyRun
  sync : Option Nat
  rows : Bool := false
  multicast : Bool
  failed : Bool
  err : Nat
  faddr : DWord
  sectors : List Nat
  after : List Nat
  deriving DecidableEq, Repr, Inhabited

/-- An operation of a matrix engine (R252). -/
inductive MxKind where
  /-- A pass: tile, its rows each with the index and the A scales, operand addresses, formats of A and B, the code
  of the group size, scale format and first scale, the B scales of each column (R247). `quarter` marks a lane-scope
  entry. -/
  | pass (tile : Nat) (rows : List (Nat × Nat × List Nat)) (boff abase pitch : Nat) (fa fb gs sf sb : Nat)
      (scalesB : List (List Nat)) (quarter : Option Nat)
  | zero (first count : Nat)
  | drain (tile : Nat) (desc : List Byte)
  | drainV (tile chunk fmt d : Nat) (lanes : Word)
  | load (tile : Nat) (desc : List Byte)
  | req (desc : List Byte)
  /-- The visit of a node by the walk at a place among the walks (R289). -/
  | walk (k : Nat)
  deriving DecidableEq, Repr, Inhabited

/-- An entry of a matrix reservation table (R252, R253), with the scratchpad as it stood at the post (R256), and the
sub-arrays tested since it became ready (R270). -/
structure MxEntry where
  id : Nat
  cl : Nat
  blk : Nat
  warp : Nat
  cls : Nat
  pri : Nat
  posted : Nat
  kind : MxKind
  snap : List Host.Cell
  tested : BitVec 4 := 0
  deriving DecidableEq, Repr, Inhabited

/-- A decompression job (R337 to R341, R344): its card, the chunks and bytes committed, the sectors it has written,
and its code and first failed chunk once it is done. `snap` is the memory as it stood when the job started, `plan` the
chunks that its header names once it has been read, with CHUNKOUT. -/
structure Job where
  id : Nat
  die : Nat
  blk : Nat
  warp : Nat
  ctx : Nat
  ticket : Word
  card : List Byte
  nextChunk : Nat
  committed : Nat
  sectors : List Nat
  code : Nat
  failed : Option Nat
  done : Bool
  snap : Option (List Host.Cell) := none
  plan : Option (Option Nat × List (Nat × Nat)) := none
  deriving DecidableEq, Repr, Inhabited

/-- A node of a walk's tree as validation read it, and its record (R281, R303). -/
structure Node where
  parent : Nat
  pos : Nat
  kaddr : DWord
  vaddr : DWord
  reached : Bool
  visited : Bool
  passed : Bool
  faulted : Bool
  t : Nat
  set : List Nat
  deriving DecidableEq, Repr, Inhabited

/-- Subscriber states (R283). -/
inductive SubState where
  | idle | active | joining | deferred | left | faulted | done
  deriving DecidableEq, Repr, Inhabited

/-- The running state of one query head (R289), as ACC40 codes. -/
structure HeadSt where
  m : BitVec 40
  s : BitVec 40
  drop : BitVec 40
  o : List (BitVec 40)
  deriving DecidableEq, Repr, Inhabited

/-- The writing of a subscriber's results (R290): its place, its output, the next of its writes, and whether no sector has
been dropped. -/
structure OutJob where
  idx : Nat
  bytes : List Byte
  next : Nat
  clean : Bool
  deriving DecidableEq, Repr, Inhabited

/-- A subscriber of a walk (R285, R287, R291, R297): its query as read, the nodes of its path not yet applied,
those passed in its catch-up walk, whether its leaf has begun, whether its slot has been retired, and whether it leaves
at the next node boundary. -/
structure Sub where
  idx : Nat
  leaf : Nat
  gen : BitVec 16
  st : SubState
  qaddr : DWord
  query : Option (List Nat)
  heads : List HeadSt
  todo : List Nat
  passed : List Nat
  fnode : Word
  leafBegun : Bool
  retired : Bool
  leaving : Bool := false
  deriving DecidableEq, Repr, Inhabited

/-- The phases of a walk (R285, R303). -/
inductive WalkPhase where
  | queued | validating | main | revisit | catchup | complete
  deriving DecidableEq, Repr, Inhabited

/-- A page request of a walk (R294): request number, node, address, and the reply. -/
structure PageReq where
  num : Word
  node : Nat
  va : DWord
  reply : Option Word
  deriving DecidableEq, Repr, Inhabited

/-- A walk (R280 to R303): its descriptor, phase, tree, subscribers, the nodes still to visit in order,
those passed, the deferred subscribers in order of joining, the node being applied with its T as read, its page
requests and the one that a full ring keeps back, its counts, the sectors it has written, whether its status record
has been written, and its CODE. While it validates, `stack` holds the nodes still to read, each with the node whose list
holds it and its previous sibling, and `entry` the next subscriber entry. `rows` are the bytes of the node being applied
once they are read and `group` the KV head of its next pass (R289), `outs` the results being written (R290), `knows` the
appends that happened before its post, and `floor` the version of an append's place that it has read (R298, R386). -/
structure Walk where
  id : Word
  cl : Nat
  blk : Nat
  warp : Nat
  ctx : Nat
  desc : List Byte
  phase : WalkPhase
  nodes : List Node
  subs : List Sub
  todo : List Nat
  passed : List Nat
  deferred : List Nat
  cur : Option Nat
  curT : Option Nat
  pages : List PageReq
  want : Option (Nat × DWord)
  code : Nat
  nDefer : Nat
  firstF : Word
  late : Nat
  nVisit : Nat
  nRevisit : Nat
  nPage : Nat
  sectors : List Nat
  written : Bool
  stack : List (Nat × Option Nat × Option Nat) := [(0, none, none)]
  entry : Nat := 0
  rows : Option (List (List Byte)) := none
  group : Nat := 0
  outs : List OutJob := []
  knows : List Nat := []
  floor : List (Nat × Nat) := []
  deriving DecidableEq, Repr, Inhabited

/-- Requests to a walker other than WSTART (R291, R297, R304). -/
inductive WalkReqKind where
  | join (id : Word) (sub : Nat)
  | leave (id : Word) (sub : Nat)
  | retire (va : DWord)
  | append (rcd : List Byte) (ms : Option Nat)
  deriving DecidableEq, Repr, Inhabited

/-- A request in a walker's arrival queue, with the register that takes its status (R299, R301), and for an append
TOKENS once it has been read (R298). -/
structure WalkReq where
  id : Nat
  cl : Nat
  blk : Nat
  warp : Nat
  d : Nat
  kind : WalkReqKind
  t : Option Nat := none
  deriving DecidableEq, Repr, Inhabited

/-- An append that a walk need not see yet (R298): the warp that made it and the cluster of its walker, the scope of
its release, the elements that it wrote, each as its address with its bytes before and after, TOKENS last, and the
warps that it happens before (R385). -/
structure Appended where
  id : Nat
  blk : Nat
  warp : Nat
  cl : Nat
  ms : Nat
  elems : List (Nat × List Byte × List Byte)
  known : List (Nat × Nat) := []
  deriving DecidableEq, Repr, Inhabited

/-- A page walk that no instruction waits for (R75, R224): the core that asked, its context, the address, and
whether it wants the line in its L1. -/
structure PageWalk where
  core : Nat
  ctx : Nat
  va : DWord
  l1 : Bool
  deriving DecidableEq, Repr, Inhabited

/-- What a sequencer is asked (R314). -/
inductive SeqKind where
  | open_ (table : DWord) (desc : List Byte)
  | sig (handle : Nat) (rcd : List Byte)
  | commit (handle : Nat) (rcd : List Byte)
  | map (handle : Nat) (gen first : Word) (lanes : Word)
  | close (handle : Nat)
  deriving DecidableEq, Repr, Inhabited

/-- An operation posted to a cluster's sequencer (R312). -/
structure SeqOp where
  id : Nat
  cl : Nat
  blk : Nat
  warp : Nat
  d : Nat
  kind : SeqKind
  deriving DecidableEq, Repr, Inhabited

/-- A map binding of a die's engine (R320, R324, R328). -/
structure MapBind where
  die : Nat
  no : Nat
  blk : Nat
  ctx : Nat
  desc : List Byte
  counts : List Word
  deriving DecidableEq, Repr, Inhabited

/-- What a map engine is asked (R323). `last` is a MAPMASK whose header is written and whose DONE on a counter is still
to be sent (R49, R327). -/
inductive MapKind where
  | comp (rcd : List Byte)
  | apply (lane : Nat) (val : Word) (pois : Bool)
  | mask (rcd : List Byte)
  | last (counter : Word)
  deriving DecidableEq, Repr, Inhabited

/-- An operation posted to a die's map engine (R325 to R327). -/
structure MapOp where
  id : Nat
  bind : Nat
  die : Nat
  blk : Nat
  warp : Nat
  d : Nat
  kind : MapKind
  deriving DecidableEq, Repr, Inhabited

/-- A sampling operation (R329, R331, R332). -/
structure TopkOp where
  id : Nat
  die : Nat
  blk : Nat
  warp : Nat
  ticket : Word
  merge : Bool
  rcd : List Byte
  deriving DecidableEq, Repr, Inhabited

/-- What an operation does to a counter (R48). -/
inductive CtrKind where
  | done (cancelled : Bool)
  | depadd (n : Word)
  | cancel
  deriving DecidableEq, Repr, Inhabited

/-- An operation on its way to a counter (R48), the warp that it is of (R150), and whether that warp is stalled until it
has been performed, since it would fire into a full buffer (R49). -/
structure CtrOp where
  ctx : Nat
  index : Word
  kind : CtrKind
  blk : Nat := 0
  warp : Nat := 0
  stuck : Bool := false
  deriving DecidableEq, Repr, Inhabited

/-- A DEQ lane that waits for an entry (R50, R368); the later accesses of the lane follow its acquire (R52, R438). -/
structure DeqWait where
  id : Nat
  blk : Nat
  warp : Nat
  lane : Nat
  d : Nat
  q : Nat
  addr : DWord
  deriving DecidableEq, Repr, Inhabited

/-- A frame of the window transport (R375, R378), and the put that it is of, if this package sent it. `last` is
the end of the put's bytes in the region, `data` the bytes once they are read from the source, `numbered` whether it has
its sequence number, which it gets when it is first sent, `sent` and `tries` its latest sending and the number of
retries, `onWay` whether it travels, `left` the words of it that have still to be written once some have been. A frame
to another package leaves by a port with two addresses (R379). -/
structure Frame where
  id : Nat
  put : Option Nat
  signal : Bool
  spkg : Nat
  tpkg : Nat
  tctx : Nat
  thandle : Nat
  seq : Word
  toff : Nat
  last : Nat
  src : Nat
  srcSp : Bool
  len : Nat
  data : Option (List Byte)
  sig : Word
  sent : Nat
  tries : Nat
  onWay : Bool
  numbered : Bool := false
  left : Option (List Nat) := none
  port : Option Nat := none
  dstMac : BitVec 48 := 0
  srcMac : BitVec 48 := 0
  deriving DecidableEq, Repr, Inhabited

/-- A frame that another package has sent and that has still to arrive: its name, the 32 bytes of its header and its
data (R378). -/
structure WireFrame where
  id : Nat
  header : List Byte
  data : List Byte
  deriving DecidableEq, Repr, Inhabited

/-- A put in flight at its origin (R375, R376). `covers` are the earlier puts of its block through its
handle. -/
structure PutOp where
  id : Nat
  blk : Nat
  warp : Nat
  ctx : Nat
  win : Nat
  covers : List Nat
  failed : Bool
  code : Nat
  faddr : DWord
  deriving DecidableEq, Repr, Inhabited

/-- A route to a package (R379). -/
structure Route where
  pkg : Nat
  mac : BitVec 48
  first : Nat
  span : Nat
  valid : Bool
  deriving DecidableEq, Repr, Inhabited

/-- A port of the scale-out block (R379). -/
structure Port where
  mac : BitVec 48
  enable : Bool
  deriving DecidableEq, Repr, Inhabited

/-- A queue or pipe on which an issuer is stalled, and since when no entry of it was consumed (R59). -/
structure StallRec where
  ctx : Nat
  on : StallOn
  blk : Nat
  warp : Nat
  since : Nat
  logged : Bool
  deriving DecidableEq, Repr, Inhabited

/-- An interrupt raised to the host (R40). -/
inductive Intr where
  | errorLog (die : Nat)
  | threshold (ctx : Nat)
  | queueStall (ctx : Nat)
  | preempted (ctx : Nat)
  | forcedReset (ctx : Nat)
  | service (ctx : Nat)
  deriving DecidableEq, Repr, Inhabited

/-- The selected issue group: a block, a warp, its lanes and their address (R116). -/
structure Issue where
  blk : Nat
  warp : Nat
  lanes : Word
  pc : DWord
  deriving DecidableEq, Repr, Inhabited

/-- The state of the device. `answers` are the acknowledgements (true) and refusals of frames on their way to this
package, `doorbells` the dies whose mailbox commands wait, `mbox` the die and the bytes of the mailbox command that is
being performed (R429), `inputs` the outside events to come, `wire` the frames of
other packages to come, `tick` counts the free values taken, `nextId` the operations named, `cycle` is the cycle
counter: the model's own fields (assumption 1). -/
structure State where
  mode : Mode
  mem : List Host.Cell
  poison : List (Nat × DWord)
  dies : List Die
  clusters : List Cluster
  cores : List Core
  ctxs : List Ctx
  launches : List Launch
  blocks : List Block
  loads : List LoadOp
  stores : List StoreOp
  atoms : List AtomOp
  fences : List FenceOp := []
  replies : List ReplyOp
  hostCopies : List HostCopy
  copies : List CopyOp
  mrt : List MxEntry
  jobs : List Job
  walks : List Walk
  walkReqs : List WalkReq
  appended : List Appended := []
  pageWalks : List PageWalk
  seqOps : List SeqOp
  binds : List MapBind
  mapOps : List MapOp
  topkOps : List TopkOp
  ctrOps : List CtrOp
  deqWaits : List DeqWait
  frames : List Frame
  puts : List PutOp
  frameSeq : List (Nat × Word)
  seen : List (Nat × Word)
  answers : List (Nat × Bool)
  doorbells : List Nat
  mbox : Option (Nat × List Byte) := none
  pkgId : Nat
  ports : List Port
  routes : List Route
  stalls : List StallRec
  intrs : List Intr
  cur : Option Issue
  inputs : List Instr
  wire : List WireFrame := []
  tick : Nat
  nextId : Nat
  cycle : Nat
  deriving DecidableEq, Repr, Inhabited

/-- A signature of no sector. -/
def Sig.none : Sig := ⟨0, false⟩

/-- A core with an empty L1. -/
def Core.reset : Core := ⟨[], Sig.none, Sig.none, [], []⟩

/-- A cluster after reset: no sub-array suspect or fenced, walk ids from 0 (R272, R300). -/
def Cluster.reset : Cluster := ⟨0, 0, 0, 0, 0, [], [0, 0, 0, 0]⟩

/-- A counter after reset (R47; assumption 3). -/
def Counter.reset : Counter := ⟨0, 0, .idle, false, List.replicate 8 0⟩

/-- A command queue after reset (R41; assumption 3). -/
def CmdQ.reset : CmdQ := ⟨0, 0, 0, 0, 0, 0, 0, false, false, false, none, [], []⟩

/-- A die after reset: ELBASE 0 and ELN 1 (R423), IDLEOK 0 (R437), the rest by assumption 3. -/
def Die.reset : Die :=
  { cmdqs := List.replicate 128 CmdQ.reset, vbase := 0, nunits := 0, ivctx := 0, ivdone := 0,
    invalidating := [], elbase := 0, eln := 1, elseq := 0, mbcmd := List.replicate 128 0,
    mbrsp := List.replicate 64 0, mbdone := 0, hostUp := 3, hostFailed := 0, trained := 0,
    idleOk := false, idle := false, idleSince := 0, counters := List.replicate 4096 Counter.reset,
    fired := [], pointer := 0, waits := [], tlb := [] }

/-- A port of the scale-out block after reset (R379; assumption 3). -/
def Port.reset : Port := ⟨0, false⟩

/-- The device right after reset, which is the application of package power: Twilight mode, no context,
no work, memory with nothing listed (R435). -/
def State.reset : State :=
  { mode := .twilight, mem := [], poison := [], dies := List.replicate 4 Die.reset,
    clusters := List.replicate 96 Cluster.reset, cores := List.replicate 384 Core.reset, ctxs := [],
    launches := [], blocks := [], loads := [], stores := [], atoms := [], fences := [], replies := [],
    hostCopies := [], copies := [], mrt := [], jobs := [], walks := [], walkReqs := [], appended := [],
    pageWalks := [], seqOps := [], binds := [], mapOps := [], topkOps := [], ctrOps := [],
    deqWaits := [], frames := [], puts := [], frameSeq := [], seen := [], answers := [], doorbells := [],
    mbox := none, pkgId := 0,
    ports := List.replicate 16 Port.reset, routes := [], stalls := [], intrs := [], cur := none,
    inputs := [], wire := [], tick := 0, nextId := 0, cycle := 0 }

end Sys2Proof.Machine
end

