-- ==== Sys2Proof/Machine/Ops.lean ====
section
/-! DEFINITION. The named operations that every family shares: lane masks, updates of the parts of the
state, physical memory with poison, the error log and interrupts, event counts, and taking a trap and
returning from its handler (R404 to R412, R155). -/

namespace Sys2Proof.Machine

/-- The lanes of a mask, ascending. -/
def lanesOf (m : Word) : List Nat := (List.range 32).filter fun l => m.getLsbD l

/-- The mask of the lanes that meet a condition. -/
def maskOf (p : Nat → Bool) : Word :=
  (List.range 32).foldl (fun m l => if p l then m ||| (1#32 <<< l) else m) 0#32

/-- The lowest lane of a mask, 0 for an empty one. -/
def lowest (m : Word) : Nat := (lanesOf m).headD 0

/-- The number of lanes of a mask. -/
def popcount (m : Word) : Nat := (lanesOf m).length

/-- Whether every lane of one mask is in another. -/
def subset (a b : Word) : Bool := a &&& ~~~b == 0#32

/-- A 64-bit value of two registers, the low half first (R93). -/
def pair (lo hi : Word) : DWord := hi ++ lo

def loHalf (x : DWord) : Word := x.setWidth 32

def hiHalf (x : DWord) : Word := (x >>> 32).setWidth 32

def State.blk (s : State) (b : Nat) : Block := s.blocks.getD b default

def State.updBlk (s : State) (b : Nat) (f : Block → Block) : State :=
  { s with blocks := s.blocks.modify b f }

def Block.warp (b : Block) (w : Nat) : Warp := b.warps.getD w default

def Block.updWarp (b : Block) (w : Nat) (f : Warp → Warp) : Block :=
  { b with warps := b.warps.modify w f }

def State.warp (s : State) (b w : Nat) : Warp := (s.blk b).warp w

def State.updWarp (s : State) (b w : Nat) (f : Warp → Warp) : State :=
  s.updBlk b fun B => B.updWarp w f

def Warp.lane (w : Warp) (l : Nat) : Lane := w.lanes.getD l default

def Warp.updLane (w : Warp) (l : Nat) (f : Lane → Lane) : Warp :=
  { w with lanes := w.lanes.modify l f }

/-- Changes the lanes of a mask. -/
def Warp.mapLanes (w : Warp) (m : Word) (f : Nat → Lane → Lane) : Warp :=
  { w with lanes := w.lanes.mapIdx fun l x => if m.getLsbD l then f l x else x }

def State.lane (s : State) (b w l : Nat) : Lane := (s.warp b w).lane l

def State.updLane (s : State) (b w l : Nat) (f : Lane → Lane) : State :=
  s.updWarp b w fun W => W.updLane l f

def State.updDie (s : State) (d : Nat) (f : Die → Die) : State := { s with dies := s.dies.modify d f }

def State.die (s : State) (d : Nat) : Die := s.dies.getD d default

def State.updLaunch (s : State) (l : Nat) (f : Launch → Launch) : State :=
  { s with launches := s.launches.modify l f }

def State.launch (s : State) (l : Nat) : Launch := s.launches.getD l default

/-- A live context (R431). -/
def State.ctx? (s : State) (c : Nat) : Option Ctx := s.ctxs.find? fun x => x.id == c

def State.ctx (s : State) (c : Nat) : Ctx := (s.ctx? c).getD default

def State.updCtx (s : State) (c : Nat) (f : Ctx → Ctx) : State :=
  { s with ctxs := s.ctxs.map fun x => if x.id == c then f x else x }

/-- The number of a core or a cluster in the package. -/
def clusterNo (die cl : Nat) : Nat := die * Config.clusters + cl

def coreNo (die cl core : Nat) : Nat := clusterNo die cl * Config.cores + core

def Block.coreNo (b : Block) : Nat := Machine.coreNo b.die b.cluster b.core

def Block.clusterNo (b : Block) : Nat := Machine.clusterNo b.die b.cluster

def State.core (s : State) (n : Nat) : Core := s.cores.getD n default

def State.updCore (s : State) (n : Nat) (f : Core → Core) : State := { s with cores := s.cores.modify n f }

def State.cluster (s : State) (n : Nat) : Cluster := s.clusters.getD n default

def State.updCluster (s : State) (n : Nat) (f : Cluster → Cluster) : State :=
  { s with clusters := s.clusters.modify n f }

/-- The die of a physical address that is not host memory (R71). -/
def homeDie (pa : Nat) : Nat :=
  if pa < 0x20_0000_0000 then pa / 0x8_0000_0000 else (pa - 0x20_0000_0000) / 0x20_0000_0000 % 4

/-- Whether a physical address is host memory (R71). -/
def isHost (pa : Nat) : Bool := decide (0x8_0000_0000_0000 ≤ pa)

/-- Whether a physical address lies in no reserved range (R71). -/
def paOk (pa : Nat) : Bool :=
  decide (pa < 0xA0_0000_0000) || (isHost pa && decide (pa < 2 ^ 52))

/-- A free choice between two outcomes, and the state that has taken it (assumption 6). -/
def State.race (s : State) : Bool × State := (Config.freeRace s.tick, { s with tick := s.tick + 1 })

/-- A free number below a bound, and the state that has taken it (assumption 6). -/
def State.pick (s : State) (n : Nat) : Nat × State :=
  (Config.freeCount s.tick % n, { s with tick := s.tick + 1 })

/-- A new name for an operation. -/
def State.fresh (s : State) : Nat × State := (s.nextId, { s with nextId := s.nextId + 1 })

/-! ### Physical memory -/

/-- The poisoned sectors after bytes from an address on have been written (R422). -/
def clearPoison (p : List (Nat × DWord)) (pa n : Nat) : List (Nat × DWord) :=
  p.filterMap fun (sec, done) =>
    let done' := (List.range 64).foldl
      (fun (m : DWord) i => if pa ≤ sec * 64 + i ∧ sec * 64 + i < pa + n then m ||| (1#64 <<< i) else m) done
    if done' = BitVec.allOnes 64 then none else some (sec, done')

/-- An atomic of host memory whose word the device writes sees that write (R360). -/
def AtomOp.seeing (x : AtomOp) (pa n : Nat) : AtomOp :=
  if decide (x.pa < pa + n) && decide (pa < x.pa + 4) then { x with early := none } else x

/-- Bytes of physical memory change; a poisoned sector is mended when its last byte is written (R422). -/
def State.hostWrite (s : State) (pa : Nat) (bs : List Byte) : State :=
  { s with mem := Memory.writeBytes s.mem pa bs, poison := clearPoison s.poison pa bs.length }

/-- A party of the device writes bytes to physical memory: an atomic of host memory on its way sees them, as it need not
see the host's own writes (R38, R360). -/
def State.writePa (s : State) (pa : Nat) (bs : List Byte) : State :=
  { s.hostWrite pa bs with atoms := if isHost pa then s.atoms.map fun x => x.seeing pa bs.length else s.atoms }

def State.readPa (s : State) (pa n : Nat) : List Byte := Memory.readBytes s.mem pa n

/-- Whether a byte of a range lies in a poisoned sector (R422). -/
def State.poisoned (s : State) (pa n : Nat) : Bool :=
  s.poison.any fun (sec, _) => decide (pa < sec * 64 + 64) && decide (sec * 64 < pa + n)

/-- The number of the 128-byte line of a physical address. -/
def lineNo (pa : Nat) : Nat := pa / 128

/-- The L2 set of a line, of the 32,768 sets of 64 MiB (R2, R70). -/
def l2SetOf (line : Nat) : Nat := Config.l2Set line % Config.l2Sets

/-- Whether a context has pinned a line in the L2 of a die (R77). -/
def State.l2Pinned (s : State) (die line : Nat) : Bool := s.ctxs.any fun c => c.l2pins.contains (die, line)

/-- The lines pinned in the set of a line in the L2 of a die (R77). -/
def State.l2SetPins (s : State) (die line : Nat) : List Nat :=
  (((s.ctxs.flatMap (·.l2pins)).filter fun p => p.1 == die && l2SetOf p.2 == l2SetOf line).map (·.2)).eraseDups

/-- Room for a line in its set of the L2 of a die: lines of host memory and pinned lines share the 16 ways, and where
those are full, a line of host memory that no pin holds goes, the spec not stating which (R2, R70, R77). -/
def State.l2Room (s : State) (die line : Nat) : State :=
  let mine := (s.die die).hostLines.filter fun l => l2SetOf l == l2SetOf line && l != line
  let free := mine.filter fun l => !s.l2Pinned die l
  let others := (s.l2SetPins die line).filter fun l => !mine.contains l && l != line
  if mine.length + others.length < Config.l2Ways || free.isEmpty then s
  else
    let (i, s) := s.pick free.length
    s.updDie die fun d => { d with hostLines := d.hostLines.filter (· != free.getD i 0) }

/-- A line of host memory comes into the L2 of a die that does not hold it (R70). -/
def State.addHostLine (s : State) (die line : Nat) : State :=
  if (s.die die).hostLines.contains line then s
  else (s.l2Room die line).updDie die fun d => { d with hostLines := d.hostLines ++ [line] }

/-- A die reads or writes bytes; lines of host memory that it does not hold come into its L2 (R70). -/
def State.touchHost (s : State) (die pa n : Nat) : State :=
  if isHost pa then
    (List.range ((pa + n - 1) / 128 - pa / 128 + 1)).foldl (fun s i => s.addHostLine die (pa / 128 + i)) s
  else s

/-! ### Signatures -/

/-- The bit of a sector in a signature (R388). -/
def sigHash (sector : Nat) : Nat :=
  [0, 9, 18, 27, 36].foldl (fun h i => h ^^^ (sector >>> i) % 512) ((sector >>> 45) % 2)

def Sig.union (a b : Sig) : Sig := ⟨a.bits ||| b.bits, a.sat || b.sat⟩

/-- The signature of a set of sectors (R388). -/
def Sig.ofSectors (l : List Nat) : Sig :=
  ⟨l.foldl (fun (m : BitVec 512) x => m ||| (1#512 <<< sigHash x)) 0, decide (256 < l.length)⟩

/-- Whether a signature names a sector. -/
def Sig.hit (g : Sig) (sector : Nat) : Bool := g.sat || g.bits.getLsbD (sigHash sector)

/-- Adds a sector to a write set. -/
def addSector (l : List Nat) (x : Nat) : List Nat := if l.contains x then l else l ++ [x]

/-- The sectors of a range of bytes. -/
def sectorsOf (pa n : Nat) : List Nat :=
  (List.range ((pa + n - 1) / 64 - pa / 64 + 1)).map fun i => pa / 64 + i

/-- Whether a memory scope of a party on a cluster of a die reaches a core (R380). -/
def reaches (ms die cl n : Nat) : Bool :=
  match ms with
  | 0 => false
  | 1 => n / Config.cores == clusterNo die cl
  | 2 => n / (Config.cores * Config.clusters) == die
  | _ => true

/-- Delivers a signature to the cores that a scope reaches (R388, R389). -/
def State.deliver (s : State) (g : Sig) (ms die cl : Nat) (except : Option Nat) : State :=
  if g == Sig.none then s
  else
    let one (i : Nat) (c : Core) : Core :=
      if reaches ms die cl i && some i != except then { c with pending := c.pending.union g } else c
    { s with cores := s.cores.mapIdx one }

/-- Delivers the signature of bytes that a party off the cores has written, at a scope (R388). -/
def State.publish (s : State) (rs : List (Nat × Nat)) (ms die cl : Nat) : State :=
  s.deliver (Sig.ofSectors ((rs.flatMap fun (pa, n) => sectorsOf pa n).foldl addSector [])) ms die cl none

/-! ### Interrupts and the error log -/

/-- Raises an interrupt; an interrupt that the host has not seen yet is merged (R40, R423). -/
def State.raise (s : State) (i : Intr) : State :=
  if s.intrs.contains i then s else { s with intrs := s.intrs ++ [i] }

/-- The die and the source of an interrupt among the six sources of R40: the error log of its die, and of a context
the thresholds, QUEUE_STALL, the completion of a pre-emption, the forced reset and the service ring, which its task
home die raises (assumption 67). -/
def State.sourceOf (s : State) (i : Intr) : Nat × Nat :=
  let home (c : Nat) : Nat := (s.ctx c).taskDie
  match i with
  | .errorLog d => (d, 0)
  | .threshold c => (home c, 1)
  | .queueStall c => (home c, 2)
  | .preempted c => (home c, 3)
  | .forcedReset c => (home c, 4)
  | .service c => (home c, 5)

/-- The MSI-X vectors of a die that stand raised: those that the host has bound to the sources of its interrupts
(R40). -/
def State.vectors (s : State) (die : Nat) : List Nat :=
  s.intrs.filterMap fun i =>
    let (d, src) := s.sourceOf i
    if d = die then some (Config.vectorOf die src % 2048) else none

/-- An error-log entry before it is numbered (R424); a field that does not apply is none. -/
structure LogRec where
  kind : Nat
  ctx : Option Nat := none
  die : Option Nat := none
  cluster : Option Nat := none
  core : Option Nat := none
  warp : Option Nat := none
  code : Nat := 0
  addr : Nat := 0
  tag : Nat := 0
  aux : Nat := 0
  deriving DecidableEq, Repr, Inhabited

/-- The 64 bytes of an entry (R424). -/
def LogRec.bytes (r : LogRec) (num : Nat) : List Byte :=
  leBytes 4 num ++ leBytes 2 r.kind ++ leBytes 1 (r.ctx.getD 255) ++ leBytes 1 (r.die.getD 255)
    ++ leBytes 1 (r.cluster.getD 255) ++ leBytes 1 (r.core.getD 255) ++ leBytes 1 (r.warp.getD 255)
    ++ leBytes 1 0 ++ leBytes 4 r.code ++ leBytes 8 r.addr ++ leBytes 8 r.tag ++ leBytes 8 r.aux
    ++ leBytes 24 0

/-- Writes an entry to a die's error log, with a release at system scope (R423). -/
def State.log (s : State) (die : Nat) (r : LogRec) : State :=
  let d := s.die die
  let seq := d.elseq.toNat
  let at_ := d.elbase.toNat + 64 * (seq % d.eln.toNat)
  let s := if d.elbase = 0 then s
    else (s.writePa at_ (r.bytes seq)).deliver (Sig.ofSectors (sectorsOf at_ 64)) 3 die 0 none
  (s.updDie die fun d => { d with elseq := d.elseq + 1 }).raise (.errorLog die)

/-- An entry that names a block, and a warp of it if one applies (R424). -/
def State.logBlk (s : State) (b : Nat) (w : Option Nat) (r : LogRec) : State :=
  let B := s.blk b
  s.log B.die { r with ctx := some B.ctx, die := some B.die, cluster := some B.cluster,
                       core := some B.core, warp := w, tag := (s.launch B.launch).rcd.tag.toNat }

/-! ### Floating-point exception counters (R180 to R183) -/

/-- Adds one to a counter of a launch, saturating, and reports a threshold when it is first reached. -/
def State.countOne (s : State) (l i : Nat) : State :=
  let L := s.launch l
  let old := (L.fpx.getD i 0).toNat
  let new := if old = 2 ^ 32 - 1 then old else old + 1
  let c := s.ctx L.rcd.ctx
  let th := (c.thresh.getD i 0).toNat
  let hit := th ≠ 0 && th ≤ new && !L.fpxHit.getLsbD i
  let s := s.updLaunch l fun L => { L with
    fpx := L.fpx.set i (BitVec.ofNat 32 new),
    fpxHit := if hit then L.fpxHit ||| (1#24 <<< i) else L.fpxHit }
  if hit then
    (s.log c.taskDie { kind := 11, ctx := some L.rcd.ctx, tag := L.rcd.tag.toNat, aux := i }).raise
      (.threshold L.rcd.ctx)
  else s

/-- Counts the events of one element result in the group of its format (R180, R181). -/
def State.countEvents (s : State) (l : Nat) (g : Nat) (e : Events) : State :=
  let s := if e.nan then s.countOne l (4 * g) else s
  let s := if e.inf then s.countOne l (4 * g + 1) else s
  let s := if e.ovf then s.countOne l (4 * g + 2) else s
  if e.unf then s.countOne l (4 * g + 3) else s

/-- Counts the events of a list of element results. -/
def State.countAll (s : State) (l : Nat) (es : List (Nat × Events)) : State :=
  es.foldl (fun s (g, e) => s.countEvents l g e) s

/-! ### Lanes, their addresses and their registers -/

/-- Where a lane restarts: the first word of a run that it has begun, else its program counter (R108). -/
def Lane.restart (l : Lane) : DWord := if l.run.isEmpty then l.pc else l.runStart

def Lane.live (l : Lane) : Bool :=
  match l.status with
  | .absent => false
  | .exited => false
  | _ => true

def Lane.full (l : Lane) (n : Nat) : Bool := !l.empty.getLsbD n

def Lane.poisoned (l : Lane) (n : Nat) : Bool := l.poison.getLsbD n

def Lane.reg (l : Lane) (n : Nat) : Word := l.v.getD n 0

/-- Writes registers from a code on: values, full, no poison (R97, R269). -/
def Lane.setRegs (l : Lane) (n : Nat) : List Word → Lane
  | [] => l
  | x :: xs =>
    Lane.setRegs { l with v := l.v.set n x, empty := l.empty &&& ~~~(1#64 <<< n),
                          poison := l.poison &&& ~~~(1#64 <<< n) } (n + 1) xs

/-- Marks `k` registers from a code on empty (R97). -/
def Lane.markEmpty (l : Lane) (n k : Nat) : Lane :=
  { l with empty := (List.range k).foldl (fun m i => m ||| (1#64 <<< (n + i))) l.empty }

/-- Whether all of `k` registers from a code on meet a condition. -/
def allRegs (n k : Nat) (p : Nat → Bool) : Bool := (List.range k).all fun i => p (n + i)

/-- Whether a predicate code is true in a lane; 7 is pt (R91). -/
def Lane.pred (l : Lane) (p : BitVec 3) : Bool := p == 7#3 || l.preds.getLsbD p.toNat

/-- A guard (R95). -/
def Lane.guard (l : Lane) (gn : Bool) (gp : BitVec 3) : Bool := l.pred gp != gn

/-- A lane after it has performed an instruction: the next word, no run, and an STL delay if its SCHED
prefix asks for one (R107, R108). -/
def Lane.advance (l : Lane) (cycle stl : Nat) : Lane :=
  { l with pc := l.pc + 4, run := [], replay := false, watchSkip := 0,
           status := if stl = 0 then .ready else .stl (cycle + stl) }

/-- The delay that the SCHED prefix of a run asks for (R107). -/
def stlOf (run : List Prefix) : Nat :=
  run.foldl (fun n p => match p with | .sched q => q.stl.toNat | _ => n) 0

/-- Lanes of a warp perform an instruction that leaves their program counters at the next word. -/
def Warp.advance (w : Warp) (m : Word) (cycle : Nat) : Warp :=
  w.mapLanes m fun _ l => l.advance cycle (stlOf l.run)

def Warp.reg (w : Warp) (n : Nat) : Word := w.w.getD n 0

def Warp.setReg (w : Warp) (n : Nat) (x : Word) : Warp := { w with w := w.w.set n x }

/-- Writes warp registers from a code on. -/
def Warp.setRegs (w : Warp) (n : Nat) : List Word → Warp
  | [] => w
  | x :: xs => Warp.setRegs (w.setReg n x) (n + 1) xs

/-- A mask register; 15 reads LIVE (R143). -/
def Warp.mask (w : Warp) (n : Nat) : Word := if n = 15 then w.live else w.k.getD n 0

def Warp.setMask (w : Warp) (n : Nat) (x : Word) : Warp := { w with k := w.k.set n x }

/-- The lowest-numbered warp with a live lane (R67, R186). -/
def Block.firstLive (b : Block) : Nat := (b.warps.findIdx? fun w => w.live != 0#32).getD 0

/-! ### Taking a trap and returning from it -/

/-- The code of a cause (R414). -/
def Cause.code : Cause → Nat
  | .illegalOp => 1
  | .emptyRead => 2
  | .misalign => 3
  | .xlate => 4
  | .prot => 5
  | .paramUnbound => 6
  | .scopeMismatch => 7
  | .break_ => 8
  | .poison => 9
  | .engine => 10
  | .watch => 11
  | .spawnDepth => 12

/-- Raises a trap: the block is halted by broadcast, the faulting warp and the warps of `stop` at once
(R404, R406). A warp that traps while its block is halted holds its trap as pending (R410); a trap of the
warp that is in its handler cannot be taken (R412). -/
def Block.trap (b : Block) (t : Trap) (stop : List Nat) : Block :=
  match b.halt with
  | none =>
    let halted := b.warps.mapIdx fun i w => i == t.warp || stop.contains i || w.live == 0#32
    { b with halt := some { trap := t, stopped := halted, skids := b.warps.map fun _ => 0,
                            pending := [], handler := false, lost := false } }
  | some h =>
    if h.handler && h.trap.warp == t.warp then
      { b with halt := some { h with trap := t, lost := true } }
    else
      { b with halt := some { h with
          pending := h.pending ++ [t],
          stopped := h.stopped.mapIdx fun i x => x || i == t.warp || stop.contains i } }

/-- Raises a trap in a block of the state. -/
def State.trap (s : State) (b : Nat) (t : Trap) (stop : List Nat := []) : State :=
  s.updBlk b fun B => B.trap t stop

/-- The trap of one warp at the instruction of its lanes. -/
def mkTrap (w : Nat) (cause : Cause) (fault active : Word) (addr : DWord) (runLen : Nat) : Trap :=
  { warp := w, cause := cause, faultLanes := fault, prevActive := active, faddr := addr, epc := [],
    runLen := List.replicate 32 runLen }

/-- The lowest cause among faults, its lanes, and the address of the lowest of those lanes (R72). -/
def lowestFault (fs : List (Nat × Cause × DWord)) : Option (Cause × Word × DWord) :=
  match fs with
  | [] => none
  | (_, c0, _) :: _ =>
    let c := fs.foldl (fun c (_, d, _) => if d.code < c.code then d else c) c0
    let mine := fs.filter fun (_, d, _) => d == c
    some (c, maskOf fun l => mine.any fun (k, _, _) => k == l, (mine.head?.map fun (_, _, a) => a).getD 0)

/-- Takes the lanes of one warp out of every rendezvous instance; an instance that had completed is open
again, and one that no lane has arrived at is gone (R130). -/
def Block.withdraw (b : Block) (w : Nat) : Block :=
  let touched (x : Inst) : Bool := x.arrived.getD w 0 != 0#32
  let insts := (b.insts.map fun x =>
    if touched x then { x with arrived := x.arrived.set w 0, granted := false } else x).filter
      fun x => x.arrived.any (· != 0#32)
  let back (i : Nat) (W : Warp) : Warp :=
    b.insts.foldl (fun W x => if touched x && x.granted && i != w then
      W.mapLanes (x.arrived.getD i 0) fun _ l => { l with status := .rdv x.u x.addr } else W) W
  { b with insts := insts, warps := b.warps.mapIdx back }

/-- Whether a lane waits at an instruction that has not been performed for it (R407). -/
def Lane.isBehind (l : Lane) : Bool :=
  match l.status with
  | .fill => true
  | .stall _ => true
  | .kwait _ => true
  | _ => false

/-- The restart address of a lane when its warp enters its handler: that of the run where it faulted, the next word or the
instruction where it was of the trapping group, that of the DEQ in which it waits having taken nothing, else its own
(R407, R409, R411). -/
def restartOf (t : Trap) (waits : List DeqWait) (b l : Nat) (x : Lane) : DWord :=
  if t.faultLanes.getLsbD l || (t.prevActive.getLsbD l && !x.isBehind) then x.restart
  else match waits.find? fun q => q.blk == b && q.warp == t.warp && q.lane == l with
    | some q => q.addr
    | none => x.restart

/-- The faulting warp enters its handler (R407 to R409): its waiting lanes are withdrawn, the restart
address of each live lane is recorded with its marks, and every live lane goes to HANDLER; a DEQ that has
taken nothing leaves zeros. -/
def State.enterHandler (s : State) (b : Nat) : State :=
  match (s.blk b).halt with
  | none => s
  | some h =>
    let w := h.trap.warp
    let target := (s.ctx (s.blk b).ctx).handler
    let epc := (s.warp b w).lanes.mapIdx fun l x => restartOf h.trap s.deqWaits b l x
    let mine (q : DeqWait) : Bool := q.blk == b && q.warp == w
    let go (l : Nat) (x : Lane) : Lane :=
      if x.live then
        let x := (s.deqWaits.filter fun q => mine q && q.lane == l).foldl
          (fun x q => x.setRegs q.d (List.replicate 8 0)) x
        { x with pc := target, run := [], status := .ready, replay := false, watchSkip := 0 }
      else x
    let marks (p : Lane → Bool) : Word := maskOf fun l => p ((s.warp b w).lane l)
    let s := s.updBlk b fun B => B.withdraw w
    let s := s.updWarp b w fun W => { W with lanes := W.lanes.mapIdx go, wait := none }
    let s := { s with deqWaits := s.deqWaits.filter fun q => !mine q,
                      stalls := s.stalls.filter fun r => !(r.blk == b && r.warp == w) }
    s.updBlk b fun B => { B with halt := some { h with
      trap := { h.trap with epc := epc, replay := marks (·.replay), skips := (s.warp b w).lanes.map (·.watchSkip) }, handler := true } }

/-- The first pending trap by warp number, and the others. -/
def takePending (ps : List Trap) : Option (Trap × List Trap) :=
  match ps with
  | [] => none
  | p :: _ =>
    let t := ps.foldl (fun t q => if q.warp < t.warp then q else t) p
    some (t, ps.filter fun q => q.warp != t.warp)

/-- RTE: the live lanes of the faulting warp go to their restart addresses, in mode 1 the faulting ones past
the faulting run; a pending trap is next, else the block is released (R155, R410, R411, R413). -/
def State.leaveHandler (s : State) (b : Nat) (skip : Bool) : State :=
  match (s.blk b).halt with
  | none => s
  | some h =>
    let t := h.trap
    let back (l : Nat) (x : Lane) : Lane :=
      if x.live then
        let faulted := t.faultLanes.getLsbD l
        let pc := t.epc.getD l 0
        let kind : BitVec 2 := if t.cause == .watch then (if t.atFetch then 2 else 1) else 0
        { x with pc := if skip && faulted then pc + BitVec.ofNat 64 (4 * t.runLen.getD l 0) else pc,
                 run := [], status := .ready, replay := t.replay.getLsbD l && !(skip && faulted),
                 watchSkip := if !faulted then t.skips.getD l 0 else if skip then 0 else t.skips.getD l 0 ||| kind }
      else x
    let s := s.updWarp b t.warp fun W => { W with lanes := W.lanes.mapIdx back }
    let next := (takePending h.pending).map fun (p, rest) =>
      { h with trap := p, pending := rest, handler := false, stopped := h.stopped.map fun _ => true }
    s.updBlk b fun B => { B with halt := next }

end Sys2Proof.Machine
end

