-- ==== Sys2Proof/Machine/Flags.lean ====
section
/-! DEFINITION. Predicate results: integer and float conditions (R191, R198), how a result combines into a
predicate (R91), and predicates written in a lane. -/

namespace Sys2Proof.Machine

/-- CB: how a compare result combines into a predicate (R91). -/
def combine (cb : BitVec 2) (old c : Bool) : Bool :=
  match cb.toNat with
  | 0 => c
  | 1 => old && c
  | 2 => old || c
  | _ => old != c

/-- Writes a predicate of a lane. -/
def Lane.setPred (l : Lane) (p : Nat) (x : Bool) : Lane :=
  { l with preds := if x then l.preds ||| (1#7 <<< p) else l.preds &&& ~~~(1#7 <<< p) }

/-- The conditions of ICMP and ICMPI by their CC (R191). -/
def intCond (cc : Nat) (a b : Word) : Bool :=
  match cc with
  | 0 => a == b
  | 1 => a != b
  | 2 => a.slt b
  | 3 => a.sle b
  | 4 => b.slt a
  | 5 => b.sle a
  | 6 => a.ult b
  | 7 => a.ule b
  | 8 => b.ult a
  | 9 => b.ule a
  | 10 => a &&& b == 0#32
  | _ => a &&& b != 0#32

/-- The conditions of FCMP by their CC (R198). -/
def floatCond (cc : Nat) (a b : Word) : Bool :=
  match (f32 a).cmp (f32 b) with
  | none => cc == 1 || cc == 6
  | some o =>
    match cc with
    | 0 => o == .eq
    | 1 => o != .eq
    | 2 => o == .lt
    | 3 => o != .gt
    | 4 => o == .gt
    | 5 => o != .lt
    | 6 => false
    | _ => true

end Sys2Proof.Machine
end

