-- ==== Sys2Proof/Machine/Operands.lean ====
section
/-! DEFINITION. Operands: the prefix run of an instruction and what an instruction accepts of it (R101 to
R107), register classes and their codes (R92 to R96), trap bits and full/empty reads (R98), and the
registers as one executing lane sees them. -/

namespace Sys2Proof.Machine

/-- A prefix run by kind (R102). `ok` says that it holds at most three words, no kind twice and no
reserved word. -/
structure Pfx where
  len : Nat
  ok : Bool
  imm : Option PrImm
  mod : Option PrMod
  ord : Option PrOrd
  fmt : Option PrFmt
  sched : Option PrSched
  deriving DecidableEq, Repr, Inhabited

/-- The run taken apart; a second prefix of one kind makes it illegal. -/
def Pfx.of (run : List Prefix) : Pfx :=
  run.foldl (fun p x =>
    let p := { p with len := p.len + 1, ok := p.ok && p.len < 3 }
    match x with
    | .imm q => { p with ok := p.ok && p.imm.isNone, imm := some q }
    | .mod q => { p with ok := p.ok && p.mod.isNone, mod := some q }
    | .ord q => { p with ok := p.ok && p.ord.isNone, ord := some q }
    | .fmt q => { p with ok := p.ok && p.fmt.isNone, fmt := some q }
    | .sched q => { p with ok := p.ok && p.sched.isNone, sched := some q }
    | .bad => { p with ok := false }) ⟨0, true, none, none, none, none, none⟩

/-- The MOD fields of a run, neutral where there is none (R102). -/
def Pfx.modOf (p : Pfx) : PrMod := p.mod.getD ⟨15, 0, false, 0, false, false, 0, false, false, false⟩

/-- SEM and MS of a run's ORD prefix, plain where there is none (R105). -/
def Pfx.sem (p : Pfx) : Nat := (p.ord.map fun o => o.sem.toNat).getD 0

def Pfx.ms (p : Pfx) : Nat := (p.ord.map fun o => o.ms.toNat).getD 0

/-- C of an instruction that takes it: MOD C, or D without a MOD prefix (R104); a MOD prefix with C 0 names register 0
(assumption 89). -/
def Pfx.c (p : Pfx) (d : BitVec 6) : Nat :=
  match p.mod with
  | some m => m.c.toNat
  | none => d.toNat

/-- What an instruction accepts of a run at its scope: the payload bits that IMM uses, whether it takes MOD
and which of its fields, the SEM codes that ORD may carry, and FMT (R102 to R106). -/
structure Acc where
  imm : Option Nat := none
  mod : Bool := false
  k : Bool := false
  rm : Bool := false
  mz : Bool := false
  c : Bool := false
  tc : Bool := false
  ub : Bool := false
  ss : Bool := false
  hi : Bool := false
  sx : Bool := false
  wq : Bool := false
  ord : List Nat := []
  ms0 : Bool := false
  fmt : Bool := false
  deriving DecidableEq, Repr, Inhabited

/-- The scope fields that every instruction of the arithmetic chapter takes (R185): K at warp and set
scope, SS at set scope, MZ where the destination is a v or g register at those scopes; UB is open at lane
and set scope only (R94). -/
def Acc.scoped (a : Acc) (sc : Nat) (vg : Bool) : Acc :=
  { a with mod := true, k := sc == 1 || sc == 2, ss := sc == 2, mz := vg && (sc == 1 || sc == 2),
           ub := a.ub && (sc == 0 || sc == 2) }

/-- Whether the MOD fields of a run are ones that the instruction uses, or neutral (R102, R104). -/
def Acc.modOk (a : Acc) (m : PrMod) : Bool :=
  a.mod && (m.k == 15 || (a.k && m.k.toNat ≤ 11)) && (m.rm == 0 || (a.rm && m.rm.toNat ≤ 5))
    && (a.mz || !m.mz) && (a.c || m.c == 0) && (a.tc || !m.tc) && (a.ub || !m.ub) && (a.ss || m.ss == 0)
    && (a.hi || !m.hi) && (a.sx || !m.sx) && (a.wq || !m.wq)

/-- R105: the SEM and MS of an ORD prefix. -/
def Acc.ordOk (a : Acc) (o : PrOrd) : Bool :=
  a.ord.contains o.sem.toNat && o.ms.toNat ≤ 4 && (o.sem != 0 || o.ms == 0) && (!a.ms0 || o.ms == 0)

/-- R106: the fields of an FMT prefix. -/
def fmtOk (f : PrFmt) : Bool :=
  f.gs.toNat ≤ 5 && f.bf.toNat ≤ 24 && (f.sf != 0 || (f.sra == 0 && f.srb == 0 && f.gs == 0))

/-- Whether the instruction accepts the run (R102). -/
def Acc.accepts (a : Acc) (p : Pfx) : Bool :=
  p.ok && (match p.imm, a.imm with
      | none, _ => true
      | some i, some n => i.pay.toNat < 2 ^ n
      | some _, none => false)
    && (match p.mod with | none => true | some m => a.modOk m)
    && (match p.ord with | none => true | some o => a.ordOk o)
    && (match p.fmt with | none => true | some f => a.fmt && fmtOk f)

/-- Register classes (R92), predicates, masks, mask destinations and literals. -/
inductive RClass where
  | v | w | g
  | pd | p
  | k | kd
  | lit (max : Nat)
  deriving DecidableEq, Repr

/-- The register class of the arithmetic majors at a scope (R92). -/
def scopeClass (sc : Nat) : RClass :=
  match sc with
  | 0 => .v
  | 2 => .g
  | _ => .w

/-- Whether a code names an operand of its class, of `n` registers (R93, R95, R96). -/
def codeOk (lregs gregs : Nat) (c : RClass) (code n : Nat) : Bool :=
  match c with
  | .v => code % n == 0 && code + n ≤ 64 && allRegs code n fun r => r < lregs || r == 63
  | .w => code % n == 0 && code + n ≤ 32
  | .g => code % n == 0 && code + n ≤ gregs
  | .pd => code ≤ 6
  | .p => code ≤ 7
  | .k => code ≤ 11 || code == 15
  | .kd => code ≤ 11
  | .lit m => code ≤ m

/-- An operand field as the word gives it. `trap` is its trap bit. -/
structure Opd where
  cls : RClass
  code : Nat
  n : Nat := 1
  trap : Bool := false

/-- The checks of an operand: its code, and its trap bit only on a v or g register (R93 to R98). -/
def Opd.ok (lregs gregs : Nat) (o : Opd) : Bool :=
  codeOk lregs gregs o.cls o.code o.n && (!o.trap || o.cls == .v || o.cls == .g)

/-- Registers as one executing lane sees them: value, full/empty bit and poison mark of a code, and the
lane's predicates. -/
structure View where
  val : Nat → Word
  full : Nat → Bool
  pois : Nat → Bool
  pred : Nat → Bool

def Lane.view (l : Lane) : View := ⟨l.reg, l.full, l.poisoned, fun n => l.pred (BitVec.ofNat 3 n)⟩

def Warp.view (w : Warp) : View := ⟨w.reg, fun _ => true, fun _ => false, fun _ => false⟩

/-- The element of a set register for a lane of a member position (R133). -/
def SetB.elem (s : SetB) (n pos l : Nat) : Elem := (s.g.getD n []).getD (pos * 32 + l) default

def SetB.view (s : SetB) (pos l : Nat) (x : Lane) : View :=
  ⟨fun n => (s.elem n pos l).val, fun n => (s.elem n pos l).full, fun n => (s.elem n pos l).poison,
    fun n => x.pred (BitVec.ofNat 3 n)⟩

/-- Changes an element of a set register. -/
def SetB.setElem (s : SetB) (n pos l : Nat) (e : Elem) : SetB :=
  { s with g := s.g.modify n fun es => es.set (pos * 32 + l) e }

/-- Writes elements of consecutive set registers, full and without poison. -/
def SetB.setElems (s : SetB) (n pos l : Nat) : List Word → SetB
  | [] => s
  | x :: xs => SetB.setElems (s.setElem n pos l ⟨x, true, false⟩) (n + 1) pos l xs

/-- What a source names: a register of the executing lane's class, a w register of its warp, or a
predicate. -/
inductive SrcKind where
  | own
  | warp
  | pred
  deriving DecidableEq, Repr

/-- A source operand: its code and registers, its trap bit, and what it names. -/
structure Src where
  code : Nat
  n : Nat := 1
  trap : Bool := false
  kind : SrcKind := .own

/-- The value of a source, a pair as 64 bits (R93); a predicate is 1 or 0. -/
def Src.val (x : Src) (v wv : View) : DWord :=
  match x.kind with
  | .pred => if v.pred x.code then 1 else 0
  | .own => if x.n = 1 then (v.val x.code).setWidth 64 else pair (v.val x.code) (v.val (x.code + 1))
  | .warp => if x.n = 1 then (wv.val x.code).setWidth 64 else pair (wv.val x.code) (wv.val (x.code + 1))

def Src.full (x : Src) (v : View) : Bool := x.kind != .own || allRegs x.code x.n v.full

def Src.pois (x : Src) (v : View) : Bool := x.kind == .own && !allRegs x.code x.n fun n => !v.pois n

/-- Whether a lane's sources let it issue (R98, R99, R422). -/
inductive Ready where
  | go
  | wait
  | fault (c : Cause)
  deriving DecidableEq, Repr

/-- R98 and R99: an empty source with its trap bit faults, another empty source or an empty destination
waits, and a source that carries the poison mark raises POISON. -/
def readiness (v : View) (srcs : List Src) (dst : List Nat) : Ready :=
  if srcs.any fun x => x.trap && !x.full v then .fault .emptyRead
  else if !(srcs.all fun x => x.full v) || !dst.all v.full then .wait
  else if srcs.any fun x => x.pois v then .fault .poison
  else .go

/-- Consecutive codes. -/
def codes (n k : Nat) : List Nat := (List.range k).map fun i => n + i

/-- The immediate of a form with its IMM payload above its own bits, sign- or zero-extended (R103). -/
def immOf (p : Pfx) (low : Nat) (w used : Nat) (sx : Bool) : Word :=
  match p.imm with
  | none => if sx then BitVec.ofInt 32 (signed w low) else BitVec.ofNat 32 low
  | some i =>
    let x := i.pay.toNat % 2 ^ used * 2 ^ w + low
    if sx then BitVec.ofInt 32 (signed (w + used) x) else BitVec.ofNat 32 x

/-- An unsigned offset with its IMM payload above it (R103). -/
def offOf (p : Pfx) (low w : Nat) : Nat :=
  match p.imm with
  | none => low
  | some i => i.pay.toNat * 2 ^ w + low

end Sys2Proof.Machine
end

