-- ==== Sys2Proof/Machine/Rdv.lean ====
section
/-! DEFINITION. The issuing group, rendezvous (R123 to R132), WAIT (R136), and the checks for lanes that can
never meet (R131, R147). -/

namespace Sys2Proof.Machine

/-- What an issuing group sees: the state, its issue, its block and warp, and its prefix run. -/
structure Ex where
  s : State
  is : Issue
  b : Block
  w : Warp
  pf : Pfx

/-- The lanes of one group have equal runs (R116), so the run is that of the lowest. -/
def Ex.of (s : State) (is : Issue) : Ex :=
  let b := s.blk is.blk
  let w := b.warp is.warp
  ⟨s, is, b, w, Pfx.of (w.lane (lowest is.lanes)).run⟩

/-- Runs a meaning on the selected group and clears the selection. -/
def issuing (s : State) (k : Ex → State) : Host.Outcome State Fault Refusal :=
  match s.cur with
  | none => .fault .noIssue
  | some is => .next { k (Ex.of s is) with cur := none }

/-- The words of the run with its instruction: RUNLEN of R155. -/
def Ex.runLen (x : Ex) : Nat := x.pf.len + 1

/-- The address of the instruction, or of the first word of its run (R108, R123). -/
def Ex.addr (x : Ex) : DWord := (x.w.lane (lowest x.is.lanes)).restart

/-- A trap of the issuing warp for some of its lanes. -/
def Ex.trap (x : Ex) (c : Cause) (fault : Word) (addr : DWord := 0) : State :=
  x.s.trap x.is.blk (mkTrap x.is.warp c fault x.is.lanes addr x.runLen)

/-- The checks of R113 that need the run and the block: what the instruction accepts of its run, its operand
codes and trap bits, and the cases its description names. -/
def Ex.legal (x : Ex) (a : Acc) (ops : List Opd) (extra : Bool := true) : Bool :=
  a.accepts x.pf && ops.all (fun o => o.ok x.b.lregs x.b.gregs) && extra

/-- Whether the device has left Twilight mode, in which the WALK, STEP and MAP majors raise ILLEGAL_OP (R435). -/
def Ex.inService (x : Ex) : Bool := x.s.mode != .twilight

/-- The set that a warp's slot binds (R20). -/
def Block.setOf (b : Block) (w slot : Nat) : Option Nat :=
  b.sets.findIdx? fun s => s.members.getLsbD w && s.slot == slot

def Block.set (b : Block) (i : Nat) : SetB := b.sets.getD i default

def Block.updSet (b : Block) (i : Nat) (f : SetB → SetB) : Block := { b with sets := b.sets.modify i f }

/-- The position of a warp in a set: members are numbered in ascending warp number (R125). -/
def SetB.pos (s : SetB) (w : Nat) : Nat := ((lanesOf s.members).takeWhile (· < w)).length

/-- The unit of an instruction's scope; none where the slot binds no set (R21). -/
def Ex.unit (x : Ex) (sc : Nat) : Option RdvUnit :=
  match sc with
  | 1 => some (.warp x.is.warp)
  | 2 => (x.b.setOf x.is.warp x.pf.modOf.ss.toNat).map .set
  | _ => some .block

/-- The lanes that an instance opened now includes, for each warp (R124 to R126): K names the mask at warp
scope and the members at set scope, 15 the default. -/
def Ex.partOf (x : Ex) (u : RdvUnit) (k : Nat) : List Word :=
  match u with
  | .warp w => x.b.warps.mapIdx fun i W => if i = w then W.mask k &&& W.live else 0
  | .set i =>
    let st := x.b.set i
    x.b.warps.mapIdx fun w W =>
      if st.members.getLsbD w && (k = 15 || (x.w.mask k).getLsbD (st.pos w)) then W.live else 0
  | .block => x.b.warps.map fun W => W.live

/-- NEEDED of an instance, for each warp (R123). -/
def Block.needed (b : Block) (x : Inst) : List Word :=
  List.zipWith (fun p W => p &&& W.live) x.part b.warps

/-- Whether an instance completes (R123). -/
def Block.completes (b : Block) (x : Inst) : Bool :=
  x.arrived.any (· != 0#32) && (List.zipWith subset (b.needed x) x.arrived).all id

/-- While a block is halted no instance completes but those of the warp in its handler (R130, R405). -/
def Block.mayComplete (b : Block) (u : RdvUnit) : Bool :=
  match b.halt with
  | none => true
  | some h => h.handler && !h.lost && u == .warp h.trap.warp

/-- The lanes of a warp blocked in a WAIT on a mask register (R136). -/
def Warp.waiting (w : Warp) (k : Nat) : Word := maskOf fun l => (w.lane l).status == .kwait k

/-- The release of WAIT on a mask register: when every live lane of it waits, the waiting lanes go on and
leave the mask (R136). -/
def Warp.waitTest (w : Warp) (cycle k : Nat) : Warp :=
  let bl := w.waiting k
  if bl != 0#32 && subset (w.mask k &&& w.live) bl then
    (w.setMask k (w.mask k &&& ~~~bl)).advance bl cycle
  else w

/-- The test for each of some mask registers. -/
def Warp.waitTests (w : Warp) (cycle : Nat) (ks : List Nat) : Warp :=
  ks.foldl (fun w k => w.waitTest cycle k) w

/-- The instance that has not completed at which a lane is blocked: one that the last exit completed and
that has yet to issue is none (R128, R131). -/
def Block.openInst (b : Block) (w l : Nat) : Option Inst :=
  match ((b.warp w).lane l).status with
  | .rdv u a => b.insts.find? fun x =>
      x.u == u && x.addr == a && !x.granted && (x.arrived.getD w 0).getLsbD l && !b.completes x
  | _ => none

/-- Whether a lane is at a rendezvous point (R131). -/
def Block.atPoint (b : Block) (w l : Nat) : Bool :=
  match ((b.warp w).lane l).status with
  | .kwait _ => true
  | .rdv _ _ => (b.openInst w l).isSome
  | _ => false

/-- The missing lanes of the point at which a lane is, for each warp (R131). -/
def Block.missing (b : Block) (w l : Nat) : List Word :=
  match ((b.warp w).lane l).status with
  | .kwait k => b.warps.mapIdx fun i W => if i = w then (W.mask k &&& W.live) &&& ~~~W.waiting k else 0
  | _ =>
    match b.openInst w l with
    | some x => List.zipWith (fun n a => n &&& ~~~a) (b.needed x) x.arrived
    | none => []

/-- One removal step of R131. -/
def Block.stuckStep (b : Block) (st : List Word) : List Word :=
  st.mapIdx fun w m => maskOf fun l => m.getLsbD l && (List.zipWith subset (b.missing w l) st).all id

/-- The removal steps of R131 until nothing changes. -/
def Block.stuckFix (b : Block) : Nat → List Word → List Word
  | 0, st => st
  | n + 1, st =>
    let st' := b.stuckStep st
    if st' = st then st else Block.stuckFix b n st'

/-- The stuck lanes of a block, for each warp (R131). -/
def Block.stuck (b : Block) : List Word :=
  b.stuckFix (32 * b.warps.length + 1) (b.warps.mapIdx fun w _ => maskOf fun l => b.atPoint w l)

/-- Whether a count is past a value: the difference lies in 1 to 2^31 (R146, R230, R235). -/
def passed (cur seen : Word) : Bool := let d := (cur - seen).toNat; decide (1 ≤ d) && decide (d ≤ 2 ^ 31)

/-- Whether a warp is blocked in a BARW whose phase has not passed (R146). -/
def Block.inBarw (b : Block) (w : Warp) : Bool :=
  match w.wait with
  | some (.barrier i ph _ _) => !passed (b.bars.getD i default).phase ph
  | _ => false

/-- R147: every live lane is at a rendezvous point or in BARW, and one is in BARW. -/
def Block.barrierStuck (b : Block) : Bool :=
  b.warps.any b.inBarw && (List.range b.warps.length).all fun w =>
    b.inBarw (b.warp w) || (lanesOf (b.warp w).live).all fun l => b.atPoint w l

/-- The traps of a block's stuck lanes, the lowest warp first: that of the lowest warp with a stuck lane (R132), and
that of the lowest warp in BARW where no barrier can advance (R147). -/
def Block.mismatches (b : Block) : List (Nat × Word) :=
  let st := b.stuck
  let here : List (Nat × Word) := match st.findIdx? (· != 0#32) with
    | some w => [(w, st.getD w 0)]
    | none => []
  if b.barrierStuck then
    let w := (b.warps.findIdx? b.inBarw).getD 0
    let m := (b.warp w).live
    if here.any fun p => p.1 < w then here ++ [(w, m)] else (w, m) :: here.filter fun p => p.1 != w
  else here

/-- Checks a block that is not halted for stuck lanes, and traps with SCOPE_MISMATCH; of two warps that trap at once
the lower one goes first (R131, R132, R147, R410). PREVACTIVE holds the stuck lanes of the warp, and RUNLEN is each
lane's own (assumption 11). -/
def Block.settle (b : Block) : Block :=
  if b.halt.isSome then b
  else b.mismatches.foldl (fun c (w, m) =>
    c.trap { mkTrap w .scopeMismatch m m 0 0 with runLen := (b.warp w).lanes.map (·.run.length + 1) } []) b

def State.settle (s : State) (b : Nat) : State := s.updBlk b Block.settle

/-- The tests of WAIT on every mask register of a warp, and the check for stuck lanes (R131, R136). -/
def State.masksChanged (s : State) (b w : Nat) : State :=
  (s.updWarp b w fun W => W.waitTests s.cycle (List.range 12)).settle b

/-- Puts an instance in the place of the one of its unit and address that has not completed. -/
def Block.putInst (b : Block) (x : Inst) : Block :=
  let same (y : Inst) : Bool := y.u == x.u && y.addr == x.addr && !y.granted
  if b.insts.any same then { b with insts := b.insts.map fun y => if same y then x else y }
  else { b with insts := b.insts ++ [x] }

/-- The group arrives (R123 to R127): at an instance that has completed and waits for its issue, it goes on
to it; else at the open instance of its unit and address, or a new one. Lanes that the instance does not
include trap. The answer is the instance where the instruction may issue now. -/
def Ex.arrive (x : Ex) (u : RdvUnit) (k : Nat) : State × Option Inst :=
  let a := x.addr
  let w := x.is.warp
  match x.b.insts.find? fun y => y.u == u && y.addr == a && y.granted && subset x.is.lanes (y.arrived.getD w 0) with
  | some y => (x.s, some y)
  | none =>
    let y := (x.b.insts.find? fun y => y.u == u && y.addr == a && !y.granted).getD
      ⟨u, a, x.partOf u k, x.b.warps.map fun _ => 0, false, 0⟩
    let inside := x.is.lanes &&& y.part.getD w 0
    let outside := x.is.lanes &&& ~~~inside
    let y := { y with arrived := y.arrived.set w (y.arrived.getD w 0 ||| inside) }
    let b := x.b.updWarp w fun W => W.mapLanes inside fun _ l => { l with status := .rdv u a }
    let go := b.completes y && b.mayComplete u && outside == 0#32
    let y := { y with granted := go }
    let b := if inside == 0#32 then b else b.putInst y
    let s := x.s.updBlk x.is.blk fun _ => b
    if outside != 0#32 then
      (s.trap x.is.blk (mkTrap w .scopeMismatch outside ((b.needed y).getD w 0) 0 x.runLen), none)
    else if go then (s, some y)
    else (s.settle x.is.blk, none)

/-- Whether two entries stand for one instance that has completed: instances of one place that have completed and
not issued hold different lanes. -/
def Inst.same (x y : Inst) : Bool := x.u == y.u && x.addr == y.addr && x.granted && x.arrived == y.arrived

/-- An instance issues without moving its lanes: it is gone. -/
def Block.dropInst (b : Block) (y : Inst) : Block := { b with insts := b.insts.filter fun z => !z.same y }

def State.dropInst (s : State) (b : Nat) (y : Inst) : State := s.updBlk b fun B => B.dropInst y

/-- An instance has issued: it is gone, and its lanes go on together from the next word (R129). -/
def Block.finish (b : Block) (cycle : Nat) (y : Inst) : Block :=
  { b.dropInst y with
           warps := b.warps.mapIdx fun w W => W.advance (y.arrived.getD w 0) cycle }

def State.finish (s : State) (b : Nat) (y : Inst) : State := s.updBlk b fun B => B.finish s.cycle y

/-- Lanes of a completed instance whose sources are empty wait for their fill (R98, R131). -/
def Block.park (b : Block) (w : Nat) (m : Word) (st : LaneStatus) : Block :=
  b.updWarp w fun W => W.mapLanes m fun _ l => { l with status := st }

/-- An instruction of a wider scope: arrival, and where the instance completes the instruction's action on
it. -/
def Ex.wide (x : Ex) (u : RdvUnit) (k : Nat) (act : State → Inst → State) : State :=
  match x.arrive u k with
  | (s, none) => s
  | (s, some y) => act s y

/-- NEEDED of an instance in the issuing warp. -/
def Ex.neededHere (x : Ex) (s : State) (y : Inst) : Word := ((s.blk x.is.blk).needed y).getD x.is.warp 0

/-- A trap that leaves an instruction of a wider scope unperformed (R411). -/
def State.wideTrap (s : State) (b w : Nat) (y : Inst) (c : Cause) (fault : Word) (addr : DWord)
    (runLen : Nat) (stop : List Nat := []) : State :=
  s.trap b (mkTrap w c fault (((s.blk b).needed y).getD w 0) addr runLen) stop

/-- The traps of an instruction of a wider scope, one for each member warp with faulting lanes, the lowest first;
every selected member stops at it (R406, R410). -/
def Ex.memberTraps (x : Ex) (s : State) (y : Inst) (needed : List Word) (fault : Nat → Option (Cause × Word × DWord)) :
    State :=
  let members := (List.range y.part.length).filter fun w => y.part.getD w 0 != 0#32
  members.foldl (fun s w =>
    match fault w with
    | none => s
    | some (c, f, a) => s.trap x.is.blk (mkTrap w c f (needed.getD w 0) a x.runLen) members) s

/-- The lanes of the group that are not among the participants of a unit and a mask code, or of the instance that has
begun there. -/
def Ex.outsiders (x : Ex) (u : RdvUnit) (k : Nat) : Word :=
  let open_ := x.b.insts.find? fun y => y.u == u && y.addr == x.addr && !y.granted
  x.is.lanes &&& ~~~((open_.map (·.part)).getD (x.partOf u k)).getD x.is.warp 0

/-- ILLEGAL_OP with no effect (R113): at lane scope for every lane of the group, at a wider one for the participants,
which gather first (R123, R411); the group itself where its slot binds no set (R21), and those of it that are no
participants (assumption 10). `k` is the mask code of the instruction. -/
def Ex.illegal (x : Ex) (sc : Nat := 0) (k : Nat := 15) : State :=
  let k := if k ≤ 11 then k else 15
  if sc = 0 then x.trap .illegalOp x.is.lanes
  else match x.unit sc with
    | none => x.trap .illegalOp x.is.lanes
    | some u =>
      if x.outsiders u k != 0#32 then x.trap .illegalOp (x.outsiders u k)
      else x.wide u k fun s y =>
        let n := (s.blk x.is.blk).needed y
        match u with
        | .set _ => x.memberTraps s y n fun w => if n.getD w 0 == 0#32 then none else some (.illegalOp, n.getD w 0, 0)
        | _ => s.wideTrap x.is.blk x.is.warp y .illegalOp (x.neededHere s y) 0 x.runLen

/-- ILLEGAL_OP at a scope with the mask that MOD names. -/
def Ex.illegalAt (x : Ex) (sc : Nat) : State := x.illegal sc x.pf.modOf.k.toNat

/-- An instance that has all the lanes it needs issues next: its lanes look at the instruction again (R123). -/
def Block.grant (b : Block) (k : Nat) (y : Inst) : Block :=
  let w := (y.arrived.findIdx? (· != 0#32)).getD 0
  { b.updWarp w (fun W => W.mapLanes (y.arrived.getD w 0 &&& W.live) fun _ l => { l with status := .ready }) with
    insts := b.insts.set k { y with granted := true } }

/-- Whether an instance completes now: it has every lane it needs, and its block is not halted (R123, R130). -/
def Block.completesNow (b : Block) (y : Inst) : Bool := !y.granted && b.completes y && b.mayComplete y.u

/-- The instances that an exit completes complete with it (R128). -/
def Block.grantAll (b : Block) : Block :=
  b.insts.zipIdx.foldl (fun b (y, k) => if b.completesNow y then b.grant k y else b) b

/-- An issue of a sibling of a halted block is part of its skid (R404). -/
def Block.countSkid (b : Block) (w : Nat) : Block :=
  match b.halt with
  | none => b
  | some h => if h.handler then b else { b with halt := some { h with skids := h.skids.modify w (· + 1) } }

/-- Lanes that only found that they must wait for a fill have not issued (R98, R116). -/
def Block.uncountSkid (b : Block) (w : Nat) : Block :=
  match b.halt with
  | none => b
  | some h => if h.handler then b else { b with halt := some { h with skids := h.skids.modify w (· - 1) } }

def State.uncountSkid (s : State) (b w : Nat) : State := s.updBlk b fun B => B.uncountSkid w

/-- The place of the completed instance that a lane is of. -/
def Block.doneInst (b : Block) (w l : Nat) : Option Nat :=
  b.insts.findIdx? fun y => y.granted && (y.arrived.getD w 0).getLsbD l

/-- Wakes the lanes of a block that wait for a fill; they look at their operands again (R98). -/
def Block.wake (b : Block) : Block :=
  { b with warps := b.warps.map fun W => { W with
      lanes := W.lanes.map fun l => if l.status == .fill then { l with status := .ready } else l } }

end Sys2Proof.Machine
end

