-- ==== Sys2Proof/Machine/Alu.lean ====
section
/-! DEFINITION. How an instruction that computes in registers runs at each scope (R92, R129, R133, R186): one
description of its operands and its function, and the four ways of applying it. -/

namespace Sys2Proof.Machine

/-- Where a result goes: registers from a code on, or a predicate combined under CB. -/
inductive Dst where
  | reg (code n : Nat)
  | pred (pd : BitVec 3) (cb : BitVec 2)

/-- A result: a value of up to 64 bits, or a condition in bit 0, with the events of its elements. -/
structure AluOut where
  val : DWord
  ev : List (Nat × Events) := []

/-- An instruction that computes in registers: operands A, B, C, D read as a source, its guard, its
destination and its function of the four values. -/
structure Alu where
  a : Option Src := none
  b : Option Src := none
  c : Option Src := none
  d : Option Src := none
  gn : Bool := false
  gp : BitVec 3 := 7
  dst : Dst
  fn : DWord → DWord → DWord → DWord → AluOut

def Alu.srcs (al : Alu) : List Src := [al.a, al.b, al.c, al.d].filterMap id

/-- The destination registers, which must be full before they are written over (R99). -/
def Dst.codes : Dst → List Nat
  | .reg c n => Machine.codes c n
  | .pred _ _ => []

/-- The result of the instruction on the registers of one view; `wv` is the view of its warp. -/
def Alu.out (al : Alu) (v wv : View) : AluOut :=
  let get (x : Option Src) : DWord := (x.map fun y => y.val v wv).getD 0
  al.fn (get al.a) (get al.b) (get al.c) (get al.d)

/-- The words that a result writes. -/
def wordsOf (n : Nat) (x : DWord) : List Word := if n = 1 then [loHalf x] else [loHalf x, hiHalf x]

/-- A result written into a lane's registers or predicates. -/
def Dst.toLane (d : Dst) (x : DWord) (l : Lane) : Lane :=
  match d with
  | .reg c n => l.setRegs c (wordsOf n x)
  | .pred pd cb => l.setPred pd.toNat (combine cb (l.preds.getLsbD pd.toNat) (x.getLsbD 0))

/-- What a lane-scope instruction does in one lane. -/
inductive LaneRes where
  | done (l : Lane) (ev : List (Nat × Events))
  | wait
  | fault (c : Cause) (addr : DWord)

/-- The instruction in one lane (R186, R100): a lane whose guard is false writes nothing. -/
def Alu.lane (al : Alu) (w : Warp) (l : Lane) : LaneRes :=
  if !l.guard al.gn al.gp then .done l []
  else match readiness l.view al.srcs al.dst.codes with
    | .fault c => .fault c 0
    | .wait => .wait
    | .go =>
      let o := al.out l.view w.view
      .done (al.dst.toLane o.val l) o.ev

/-- A lane after its part of a lane-scope instruction: performed and at the next word, waiting for a fill, or
where it was with a fault. -/
def LaneRes.apply (r : LaneRes) (cycle : Nat) (l : Lane) : Lane :=
  match r with
  | .done x _ => x.advance cycle (stlOf l.run)
  | .wait => { l with status := .fill }
  | .fault _ _ => l

def LaneRes.fault? (r : LaneRes) (l : Nat) : Option (Nat × Cause × DWord) :=
  match r with
  | .fault c a => some (l, c, a)
  | _ => none

def LaneRes.events (r : LaneRes) : List (Nat × Events) :=
  match r with
  | .done _ ev => ev
  | _ => []

def LaneRes.waits (r : LaneRes) : Bool := match r with | .wait => true | _ => false

/-- A lane-scope instruction without effects outside its lanes: every lane of the group by itself; the lanes
that fault trap with the lowest cause (R72, R117). Lanes that must wait for a fill are not of the issue group
(R116). -/
def Ex.lanewise (x : Ex) (f : Nat → Lane → LaneRes) : State :=
  let group := lanesOf x.is.lanes
  let acting := maskOf fun l => x.is.lanes.getLsbD l && !(f l (x.w.lane l)).waits
  let s := x.s.updWarp x.is.blk x.is.warp fun W =>
    W.mapLanes x.is.lanes fun l y => (f l y).apply x.s.cycle y
  let s := s.countAll x.b.launch (group.flatMap fun l => (f l (x.w.lane l)).events)
  match lowestFault (group.filterMap fun l => (f l (x.w.lane l)).fault? l) with
  | none => if acting == 0#32 then s.uncountSkid x.is.blk x.is.warp else s
  | some (c, m, a) => s.trap x.is.blk (mkTrap x.is.warp c m acting a x.runLen)

/-- A uniform result written to a w register or to a predicate of some lanes (R186). -/
def Dst.toWarp (d : Dst) (x : DWord) (m : Word) (w : Warp) : Warp :=
  match d with
  | .reg c n => w.setRegs c (wordsOf n x)
  | .pred _ _ => w.mapLanes m fun _ l => d.toLane x l

/-- Warp scope: once, on w registers (R186). Where a guard applies, the lowest lane's decides (R192). -/
def Alu.atWarp (al : Alu) (x : Ex) (s : State) (y : Inst) : State :=
  let n := ((s.blk x.is.blk).needed y).getD x.is.warp 0
  let w := s.warp x.is.blk x.is.warp
  let o := al.out w.view w.view
  let s := s.finish x.is.blk y
  if (w.lane (lowest n)).guard al.gn al.gp then
    (s.updWarp x.is.blk x.is.warp fun W => al.dst.toWarp o.val n W).countAll x.b.launch o.ev
  else s

/-- Block scope: once, on the w registers of the lowest-numbered live warp, written in every warp with a live
lane (R186). -/
def Alu.atBlock (al : Alu) (x : Ex) (s : State) (y : Inst) : State :=
  let b := s.blk x.is.blk
  let w := b.warp b.firstLive
  let o := al.out w.view w.view
  let s := s.finish x.is.blk y
  if (w.lane (lowest w.live)).guard al.gn al.gp then
    (s.updBlk x.is.blk fun B => { B with
      warps := B.warps.map fun W => if W.live == 0#32 then W else al.dst.toWarp o.val W.live W }).countAll
        x.b.launch o.ev
  else s

/-- The lanes of an instance, each with its warp. -/
def Inst.lanes (n : List Word) : List (Nat × Nat) :=
  (List.range n.length).flatMap fun w => (lanesOf (n.getD w 0)).map fun l => (w, l)

/-- A result written into a set's element or a lane's predicate. -/
def Dst.toSet (d : Dst) (x : DWord) (i w l : Nat) (b : Block) : Block :=
  match d with
  | .reg c n => { b with sets := b.sets.modify i fun st => st.setElems c (st.pos w) l (wordsOf n x) }
  | .pred _ _ => b.updWarp w fun W => W.updLane l fun y => d.toLane x y

/-- The live lanes of a set's members outside NEEDED, each with its warp. -/
def Block.others (b : Block) (i : Nat) (n : List Word) : List (Nat × Nat) :=
  (lanesOf (b.set i).members).flatMap fun w =>
    (lanesOf ((b.warp w).live &&& ~~~n.getD w 0)).map fun l => (w, l)

/-- MZ at set scope: the elements of live lanes outside NEEDED are 0 and full (R104, R129, R133). -/
def Block.zeroOthers (b : Block) (i : Nat) (n : List Word) (regs : List Nat) : Block :=
  { b with sets := b.sets.set i ((b.others i n).foldl (fun st (w, l) =>
      regs.foldl (fun st r => st.setElem r (st.pos w) l ⟨0, true, false⟩) st) (b.set i)) }

/-- Whether an element that MZ will zero waits for a pending fill (R99). -/
def Block.othersPend (b : Block) (i : Nat) (n : List Word) (regs : List Nat) : Bool :=
  (b.others i n).any fun (w, l) => regs.any fun r => !((b.set i).elem r ((b.set i).pos w) l).full

/-- A set-scope instruction that one of its lanes keeps from issuing: lanes whose sources are empty wait, all of them
where an element that it will zero has yet to be filled (`pend`), and a fault traps with nothing performed, in every
warp with a faulting lane (R98, R99, R406, R411). `none` where it may issue. -/
def Ex.setBlocked (x : Ex) (s : State) (y : Inst) (lanes : List (Nat × Nat))
    (r : Nat → Nat → Ready) (pend : Bool := false) : Option State :=
  let faults (w : Nat) : List (Nat × Cause × DWord) := lanes.filterMap fun (w', l) =>
    match r w' l with
    | .fault c => if w' == w then some (l, c, (0 : DWord)) else none
    | _ => none
  let waits := lanes.filter fun (w, l) => r w l == .wait
  let park (ls : List (Nat × Nat)) : State := (s.updBlk x.is.blk fun b =>
    ls.foldl (fun b (w, l) => b.park w (1#32 <<< l) .fill) b).uncountSkid x.is.blk x.is.warp
  if lanes.any fun (w, _) => !(faults w).isEmpty then
    some (x.memberTraps s y ((s.blk x.is.blk).needed y) fun w => lowestFault (faults w))
  else if !waits.isEmpty then some (park waits)
  else if pend then some (park lanes)
  else none

/-- Set scope: lane-wise on the elements of every lane of NEEDED (R133, R186). -/
def Alu.atSet (al : Alu) (x : Ex) (i : Nat) (s : State) (y : Inst) : State :=
  let b := s.blk x.is.blk
  let st := b.set i
  let n := b.needed y
  let lanes := Inst.lanes n
  let acts (w l : Nat) : Bool := ((b.warp w).lane l).guard al.gn al.gp
  let view (w l : Nat) : View := st.view (st.pos w) l ((b.warp w).lane l)
  match x.setBlocked s y lanes (fun w l =>
      if acts w l then readiness (view w l) al.srcs al.dst.codes else .go)
      (x.pf.modOf.mz && b.othersPend i n al.dst.codes) with
  | some s => s
  | none =>
    let s := s.finish x.is.blk y
    let s := s.updBlk x.is.blk fun b =>
      lanes.foldl (fun b (w, l) => if acts w l then
        al.dst.toSet (al.out (view w l) (b.warp w).view).val i w l b else b) b
    let s := if x.pf.modOf.mz then s.updBlk x.is.blk fun b => b.zeroOthers i n al.dst.codes else s
    s.countAll x.b.launch (lanes.flatMap fun (w, l) =>
      if acts w l then (al.out (view w l) (b.warp w).view).ev else [])

/-- An instruction of the arithmetic chapter at its scope, after the checks of R113. -/
def Ex.alu (x : Ex) (sc : Nat) (acc : Acc) (ops : List Opd) (extra : Bool) (al : Alu) : State :=
  if !x.legal acc ops extra then x.illegalAt sc
  else if sc = 0 then x.lanewise fun _ l => al.lane x.w l
  else match x.unit sc with
    | none => x.illegalAt sc
    | some u => x.wide u x.pf.modOf.k.toNat fun s y =>
      match u with
      | .warp _ => al.atWarp x s y
      | .set i => al.atSet x i s y
      | .block => al.atBlock x s y

end Sys2Proof.Machine
end

