-- ==== Sys2Proof/Machine/IntArith.lean ====
section
/-! DEFINITION. Integer, logical, immediate, compare, select and permute instructions (R187 to R193). -/

namespace Sys2Proof.Machine

/-! ### Shapes -/

/-- The B operand of an instruction that accepts UB: a w register under it (R94). -/
def Ex.srcB (x : Ex) (b : BitVec 6) (tb : Bool) : Src :=
  ⟨b.toNat, 1, tb, if x.pf.modOf.ub then .warp else .own⟩

/-- The operand check of B: under UB it is a w register. -/
def Ex.opdB (x : Ex) (sc : Nat) (b : BitVec 6) (tb : Bool) (n : Nat := 1) : Opd :=
  ⟨if x.pf.modOf.ub then .w else scopeClass sc, b.toNat, n, tb⟩

/-- A binary instruction of form A: D from A and B (R186). -/
def binary (f : FormA) (acc : Acc) (fn : Ex → Word → Word → Word × List (Nat × Events)) (s : State) :
    Host.Outcome State Fault Refusal :=
  issuing s fun x =>
    let sc := f.sc.toNat
    x.alu sc ({ acc with ub := true }.scoped sc (sc == 2))
      [⟨scopeClass sc, f.d.toNat, 1, false⟩, ⟨scopeClass sc, f.a.toNat, 1, f.ta⟩, x.opdB sc f.b f.tb] true
      { a := some ⟨f.a.toNat, 1, f.ta, .own⟩, b := some (x.srcB f.b f.tb), dst := .reg f.d.toNat 1,
        fn := fun a b _ _ => let (r, ev) := fn x (loHalf a) (loHalf b); ⟨r.setWidth 64, ev⟩ }

/-- A unary instruction of form A (R186). -/
def unary (f : FormA1) (acc : Acc) (fn : Ex → Word → Word × List (Nat × Events)) (s : State) :
    Host.Outcome State Fault Refusal :=
  issuing s fun x =>
    let sc := f.sc.toNat
    x.alu sc (acc.scoped sc (sc == 2))
      [⟨scopeClass sc, f.d.toNat, 1, false⟩, ⟨scopeClass sc, f.a.toNat, 1, f.ta⟩] true
      { a := some ⟨f.a.toNat, 1, f.ta, .own⟩, dst := .reg f.d.toNat 1,
        fn := fun a _ _ _ => let (r, ev) := fn x (loHalf a); ⟨r.setWidth 64, ev⟩ }

/-- An instruction of form A with C (R104, R189): D and C hold `n` registers. -/
def ternary (f : FormA) (acc : Acc) (n : Nat) (fn : Ex → Word → Word → DWord → DWord × List (Nat × Events))
    (s : State) : Host.Outcome State Fault Refusal :=
  issuing s fun x =>
    let sc := f.sc.toNat
    let c := x.pf.c f.d
    let tc := x.pf.modOf.tc
    x.alu sc ({ acc with ub := true, c := true, tc := true }.scoped sc (sc == 2))
      [⟨scopeClass sc, f.d.toNat, n, false⟩, ⟨scopeClass sc, f.a.toNat, 1, f.ta⟩, x.opdB sc f.b f.tb,
       ⟨scopeClass sc, c, n, tc⟩] true
      { a := some ⟨f.a.toNat, 1, f.ta, .own⟩, b := some (x.srcB f.b f.tb), c := some ⟨c, n, tc, .own⟩,
        dst := .reg f.d.toNat n,
        fn := fun a b c _ => let (r, ev) := fn x (loHalf a) (loHalf b) c; ⟨r, ev⟩ }

/-- A compare of form C: a condition of A and B combined into PD (R191, R198). -/
def compare (f : FormC) (cond : Word → Word → Bool) (s : State) : Host.Outcome State Fault Refusal :=
  issuing s fun x =>
    let sc := f.sc.toNat
    x.alu sc ({ ub := true : Acc }.scoped sc false)
      [⟨.pd, f.pd.toNat, 1, false⟩, ⟨scopeClass sc, f.a.toNat, 1, f.ta⟩, x.opdB sc f.b f.tb] true
      { a := some ⟨f.a.toNat, 1, f.ta, .own⟩, b := some (x.srcB f.b f.tb), dst := .pred f.pd f.cb,
        fn := fun a b _ _ => ⟨if cond (loHalf a) (loHalf b) then 1 else 0, []⟩ }

/-- A compare of form CI: a condition of A and the immediate (R191). -/
def compareImm (f : FormCI) (cc : Nat) (s : State) : Host.Outcome State Fault Refusal :=
  issuing s fun x =>
    let sc := f.sc.toNat
    let i := immOf x.pf f.imm.toNat 8 22 true
    x.alu sc ({ imm := some 22 : Acc }.scoped sc false)
      [⟨.pd, f.pd.toNat, 1, false⟩, ⟨scopeClass sc, f.a.toNat, 1, f.ta⟩] true
      { a := some ⟨f.a.toNat, 1, f.ta, .own⟩, dst := .pred f.pd f.cb,
        fn := fun a _ _ _ => ⟨if intCond cc (loHalf a) i then 1 else 0, []⟩ }

/-- A binary integer instruction: no event, and no MOD field of its own but UB (R185, R186). -/
def intBin (f : FormA) (fn : Word → Word → Word) (s : State) : Host.Outcome State Fault Refusal :=
  binary f {} (fun _ a b => (fn a b, [])) s

/-- A unary integer instruction. -/
def intUn (f : FormA1) (fn : Word → Word) (s : State) : Host.Outcome State Fault Refusal :=
  unary f {} (fun _ a => (fn a, [])) s

/-! ### IARITH (R187) -/

/-- An exact integer clamped to the signed range of 32 bits. -/
def clamp32 (z : Int) : Word :=
  BitVec.ofInt 32 (if z < -(2 ^ 31) then -(2 ^ 31) else if 2 ^ 31 - 1 < z then 2 ^ 31 - 1 else z)

/-- Bits 63 to 32 of the signed or unsigned product. -/
def mulHigh (sg : Bool) (a b : Word) : Word :=
  if sg then hiHalf (a.signExtend 64 * b.signExtend 64) else hiHalf (a.setWidth 64 * b.setWidth 64)

def execIadd (f : FormA) (s : State) := intBin f (fun a b => a + b) s
def execIsub (f : FormA) (s : State) := intBin f (fun a b => a - b) s
def execImul (f : FormA) (s : State) := intBin f (fun a b => a * b) s
def execImulhS (f : FormA) (s : State) := intBin f (mulHigh true) s
def execImulhN (f : FormA) (s : State) := intBin f (mulHigh false) s
def execIminS (f : FormA) (s : State) := intBin f (fun a b => if a.sle b then a else b) s
def execIminN (f : FormA) (s : State) := intBin f (fun a b => if a.ule b then a else b) s
def execImaxS (f : FormA) (s : State) := intBin f (fun a b => if a.sle b then b else a) s
def execImaxN (f : FormA) (s : State) := intBin f (fun a b => if a.ule b then b else a) s
def execIabsd (f : FormA) (s : State) := intBin f (fun a b => BitVec.ofNat 32 (a.toInt - b.toInt).natAbs) s
def execIaddsS (f : FormA) (s : State) := intBin f (fun a b => clamp32 (a.toInt + b.toInt)) s
def execIsubsS (f : FormA) (s : State) := intBin f (fun a b => clamp32 (a.toInt - b.toInt)) s

/-! ### LOGIC (R188) -/

/-- A shift count: b[7:0]. -/
def shiftCount (b : Word) : Nat := b.toNat % 256

def shiftLeft (a : Word) (n : Nat) : Word := if 32 ≤ n then 0 else a <<< n

def shiftRight (a : Word) (n : Nat) : Word := if 32 ≤ n then 0 else a >>> n

def shiftArith (a : Word) (n : Nat) : Word := a.sshiftRight (min n 31)

def rotLeft (a : Word) (n : Nat) : Word := a.rotateLeft n

def rotRight (a : Word) (n : Nat) : Word := a.rotateRight n

/-- Start and length of a bit field (R188). -/
def fieldOf (b : Word) : Nat × Nat :=
  let st := b.toNat % 32
  (st, min (b.toNat / 256 % 64) (32 - st))

/-- A bit field of a, zero- or sign-extended from its top bit. -/
def extractField (sg : Bool) (a b : Word) : Word :=
  let (st, n) := fieldOf b
  let x := (a.toNat >>> st) % 2 ^ n
  if n = 0 then 0 else if sg then BitVec.ofInt 32 (signed n x) else BitVec.ofNat 32 x

/-- d with a bit field replaced by the low bits of a. -/
def insertField (a b d : Word) : Word :=
  let (st, n) := fieldOf b
  let m : Word := BitVec.ofNat 32 ((2 ^ n - 1) <<< st)
  (d &&& ~~~m) ||| ((a <<< st) &&& m)

def leadingZeros (a : Word) : Nat := if a = 0 then 32 else 31 - a.toNat.log2

def reverseBits (a : Word) : Word := maskOf fun i => a.getLsbD (31 - i)

def execAndB (f : FormA) (s : State) := intBin f (fun a b => a &&& b) s
def execOrB (f : FormA) (s : State) := intBin f (fun a b => a ||| b) s
def execXorB (f : FormA) (s : State) := intBin f (fun a b => a ^^^ b) s
def execAndn (f : FormA) (s : State) := intBin f (fun a b => a &&& ~~~b) s
def execOrn (f : FormA) (s : State) := intBin f (fun a b => a ||| ~~~b) s
def execShl (f : FormA) (s : State) := intBin f (fun a b => shiftLeft a (shiftCount b)) s
def execShr (f : FormA) (s : State) := intBin f (fun a b => shiftRight a (shiftCount b)) s
def execSar (f : FormA) (s : State) := intBin f (fun a b => shiftArith a (shiftCount b)) s
def execRotl (f : FormA) (s : State) := intBin f (fun a b => rotLeft a (shiftCount b)) s
def execRotr (f : FormA) (s : State) := intBin f (fun a b => rotRight a (shiftCount b)) s
def execPopc (f : FormA1) (s : State) := intUn f (fun a => BitVec.ofNat 32 (popcount a)) s
def execClz (f : FormA1) (s : State) := intUn f (fun a => BitVec.ofNat 32 (leadingZeros a)) s
def execBrev (f : FormA1) (s : State) := intUn f reverseBits s
def execBfxN (f : FormA) (s : State) := intBin f (extractField false) s
def execBfxS (f : FormA) (s : State) := intBin f (extractField true) s

/-- BFI reads D as a source, whose read waits (R188). -/
def execBfi (f : FormA) (s : State) : Host.Outcome State Fault Refusal :=
  issuing s fun x =>
    let sc := f.sc.toNat
    x.alu sc ({ ub := true : Acc }.scoped sc (sc == 2))
      [⟨scopeClass sc, f.d.toNat, 1, false⟩, ⟨scopeClass sc, f.a.toNat, 1, f.ta⟩, x.opdB sc f.b f.tb] true
      { a := some ⟨f.a.toNat, 1, f.ta, .own⟩, b := some (x.srcB f.b f.tb),
        d := some ⟨f.d.toNat, 1, false, .own⟩, dst := .reg f.d.toNat 1,
        fn := fun a b _ d => ⟨(insertField (loHalf a) (loHalf b) (loHalf d)).setWidth 64, []⟩ }

/-! ### IMAD (R189) -/

/-- An IMAD instruction on 32-bit operands. -/
def mad (f : FormA) (fn : Word → Word → Word → Word) (s : State) : Host.Outcome State Fault Refusal :=
  ternary f {} 1 (fun _ a b c => ((fn a b (loHalf c)).setWidth 64, [])) s

/-- An IMAD instruction whose C and D are pairs. -/
def madWide (f : FormA) (fn : Word → Word → DWord → DWord) (s : State) : Host.Outcome State Fault Refusal :=
  ternary f {} 2 (fun _ a b c => (fn a b c, [])) s

/-- The sum of the products of the w-bit elements of a and b, signed or unsigned. -/
def dot (w : Nat) (sg : Bool) (a b : Word) : Int :=
  let el (x : Word) (i : Nat) : Int :=
    let e := elemOf w i x.toNat
    if sg then signed w e else e
  (List.range (32 / w)).foldl (fun t i => t + el a i * el b i) 0

def execImad (f : FormA) (s : State) := mad f (fun a b c => a * b + c) s
def execImadhS (f : FormA) (s : State) := mad f (fun a b c => mulHigh true a b + c) s
def execImadhN (f : FormA) (s : State) := mad f (fun a b c => mulHigh false a b + c) s
def execImadwS (f : FormA) (s : State) := madWide f (fun a b c => a.signExtend 64 * b.signExtend 64 + c) s
def execImadwN (f : FormA) (s : State) := madWide f (fun a b c => a.setWidth 64 * b.setWidth 64 + c) s
def execIdot4S8 (f : FormA) (s : State) := mad f (fun a b c => c + BitVec.ofInt 32 (dot 8 true a b)) s
def execIdot4N8 (f : FormA) (s : State) := mad f (fun a b c => c + BitVec.ofInt 32 (dot 8 false a b)) s
def execIdot8S4 (f : FormA) (s : State) := mad f (fun a b c => c + BitVec.ofInt 32 (dot 4 true a b)) s
def execIdot8N4 (f : FormA) (s : State) := mad f (fun a b c => c + BitVec.ofInt 32 (dot 4 false a b)) s

/-! ### Immediates (R190) -/

/-- An instruction with one register source and an immediate. -/
def withImm (sc : BitVec 2) (d a : BitVec 6) (ta : Bool) (acc : Acc) (fn : Ex → Word → Word) (s : State) :
    Host.Outcome State Fault Refusal :=
  issuing s fun x =>
    let sc := sc.toNat
    x.alu sc (acc.scoped sc (sc == 2))
      [⟨scopeClass sc, d.toNat, 1, false⟩, ⟨scopeClass sc, a.toNat, 1, ta⟩] true
      { a := some ⟨a.toNat, 1, ta, .own⟩, dst := .reg d.toNat 1,
        fn := fun a _ _ _ => ⟨(fn x (loHalf a)).setWidth 64, []⟩ }

def execIaddi (f : FormI) (s : State) :=
  withImm f.sc f.d f.a f.ta { imm := some 21 } (fun x a => a + immOf x.pf f.imm.toNat 11 21 true) s

/-- A shift by an immediate: no IMM prefix is accepted. -/
def shiftImm (f : FormSh) (fn : Word → Nat → Word) (s : State) : Host.Outcome State Fault Refusal :=
  withImm f.sc f.d f.a f.ta {} (fun _ a => fn a f.imm.toNat) s

/-- An operation of form S on an immediate, zero- or sign-extended. -/
def opImm (f : FormS) (sx : Bool) (fn : Word → Word → Word) (s : State) : Host.Outcome State Fault Refusal :=
  withImm f.sc f.d f.a f.ta { imm := some 22 } (fun x a => fn a (immOf x.pf f.imm.toNat 8 22 sx)) s

def execShli (f : FormSh) (s : State) := shiftImm f shiftLeft s
def execShri (f : FormSh) (s : State) := shiftImm f shiftRight s
def execSari (f : FormSh) (s : State) := shiftImm f shiftArith s
def execRotli (f : FormSh) (s : State) := shiftImm f rotLeft s
def execAndi (f : FormS) (s : State) := opImm f false (fun a i => a &&& i) s
def execOri (f : FormS) (s : State) := opImm f false (fun a i => a ||| i) s
def execXori (f : FormS) (s : State) := opImm f false (fun a i => a ^^^ i) s
def execImuli (f : FormS) (s : State) := opImm f true (fun a i => a * i) s

def execMovi (f : FormV) (s : State) : Host.Outcome State Fault Refusal :=
  issuing s fun x =>
    let sc := f.sc.toNat
    let i := immOf x.pf f.imm.toNat 18 14 true
    x.alu sc ({ imm := some 14 : Acc }.scoped sc (sc == 2)) [⟨scopeClass sc, f.d.toNat, 1, false⟩] true
      { dst := .reg f.d.toNat 1, fn := fun _ _ _ _ => ⟨i.setWidth 64, []⟩ }

/-! ### ICMP and ICMPI (R191) -/

def execIcmpEq (f : FormC) (s : State) := compare f (intCond 0) s
def execIcmpNe (f : FormC) (s : State) := compare f (intCond 1) s
def execIcmpLtS (f : FormC) (s : State) := compare f (intCond 2) s
def execIcmpLeS (f : FormC) (s : State) := compare f (intCond 3) s
def execIcmpGtS (f : FormC) (s : State) := compare f (intCond 4) s
def execIcmpGeS (f : FormC) (s : State) := compare f (intCond 5) s
def execIcmpLtN (f : FormC) (s : State) := compare f (intCond 6) s
def execIcmpLeN (f : FormC) (s : State) := compare f (intCond 7) s
def execIcmpGtN (f : FormC) (s : State) := compare f (intCond 8) s
def execIcmpGeN (f : FormC) (s : State) := compare f (intCond 9) s
def execIcmpTstz (f : FormC) (s : State) := compare f (intCond 10) s
def execIcmpTstnz (f : FormC) (s : State) := compare f (intCond 11) s
def execIcmpiEq (f : FormCI) (s : State) := compareImm f 0 s
def execIcmpiNe (f : FormCI) (s : State) := compareImm f 1 s
def execIcmpiLtS (f : FormCI) (s : State) := compareImm f 2 s
def execIcmpiLeS (f : FormCI) (s : State) := compareImm f 3 s
def execIcmpiGtS (f : FormCI) (s : State) := compareImm f 4 s
def execIcmpiGeS (f : FormCI) (s : State) := compareImm f 5 s
def execIcmpiLtN (f : FormCI) (s : State) := compareImm f 6 s
def execIcmpiLeN (f : FormCI) (s : State) := compareImm f 7 s
def execIcmpiGtN (f : FormCI) (s : State) := compareImm f 8 s
def execIcmpiGeN (f : FormCI) (s : State) := compareImm f 9 s
def execIcmpiTstz (f : FormCI) (s : State) := compareImm f 10 s
def execIcmpiTstnz (f : FormCI) (s : State) := compareImm f 11 s

/-! ### SEL and PRM (R192, R193) -/

/-- SEL: a guarded bitwise select that reads D (R192). -/
def execSel (f : FormG) (s : State) : Host.Outcome State Fault Refusal :=
  issuing s fun x =>
    let sc := f.sc.toNat
    x.alu sc ({ ub := true : Acc }.scoped sc (sc == 2))
      [⟨scopeClass sc, f.d.toNat, 1, false⟩, ⟨scopeClass sc, f.a.toNat, 1, f.ta⟩, x.opdB sc f.b f.tb] true
      { a := some ⟨f.a.toNat, 1, f.ta, .own⟩, b := some (x.srcB f.b f.tb),
        d := some ⟨f.d.toNat, 1, false, .own⟩, gn := f.gn, gp := f.gp, dst := .reg f.d.toNat 1,
        fn := fun a b _ d => ⟨(a &&& b) ||| (d &&& ~~~b), []⟩ }

/-- Byte selection of PRMB: the nibbles of c[15:0] select bytes of b:a, or their sign (R193). -/
def permBytes (a b c : Word) : Word :=
  let src := b.toNat * 2 ^ 32 + a.toNat
  BitVec.ofNat 32 ((List.range 4).foldl (fun t i =>
    let sel := elemOf 4 i c.toNat
    let byte := elemOf 8 (sel % 8) src
    t + (if sel < 8 then byte else if 128 ≤ byte then 255 else 0) * 2 ^ (8 * i)) 0)

/-- Nibble selection of PRMN (R193). -/
def permNibbles (a b c : Word) : Word :=
  let src := b.toNat * 2 ^ 32 + a.toNat
  BitVec.ofNat 32 ((List.range 8).foldl (fun t i => t + elemOf 4 (elemOf 4 i c.toNat) src * 2 ^ (4 * i)) 0)

/-- Two nibbles of a, selected by b, extended to 16 bits each (R193). -/
def spreadNibbles (sg : Bool) (a b : Word) : Word :=
  let ext (n : Nat) : Nat := if sg && 8 ≤ n then n + 0xFFF0 else n
  let pick (i : Nat) : Nat := ext (elemOf 4 (elemOf 4 i b.toNat % 8) a.toNat)
  BitVec.ofNat 32 (pick 0 + pick 1 * 2 ^ 16)

def execPrmb (f : FormA) (s : State) := mad f permBytes s
def execPrmn (f : FormA) (s : State) := mad f permNibbles s
def execPrmnSx (f : FormA) (s : State) := intBin f (spreadNibbles true) s
def execPrmnZx (f : FormA) (s : State) := intBin f (spreadNibbles false) s

/-- PACK2: a half of a and a half of b, the upper halves under MOD HI (R193). -/
def execPack2 (f : FormA) (s : State) : Host.Outcome State Fault Refusal :=
  binary f { hi := true } (fun x a b =>
    let h := if x.pf.modOf.hi then 1 else 0
    (BitVec.ofNat 32 (elemOf 16 h a.toNat + elemOf 16 h b.toNat * 2 ^ 16), [])) s

end Sys2Proof.Machine
end

