-- ==== Sys2Proof/Machine/CrossLane.lean ====
section
/-! DEFINITION. Cross-lane exchange, moves, special registers and address arithmetic (R203 to R209). -/

namespace Sys2Proof.Machine

/-- Whether a register that MZ will zero waits for a pending fill (R99). -/
def Warp.othersPend (w : Warp) (n : Word) (regs : List Nat) : Bool :=
  (lanesOf (w.live &&& ~~~n)).any fun l => regs.any fun r => !(w.lane l).full r

/-- A warp-scope instruction that one of its lanes keeps from issuing, or a register that it will zero and that has
yet to be filled (`pend`) (R98, R99); `none` where it may issue. -/
def Ex.warpBlocked (x : Ex) (s : State) (y : Inst) (n : Word) (r : Nat → Ready) (pend : Bool := false) :
    Option State :=
  let faults := (lanesOf n).filterMap fun l =>
    match r l with
    | .fault c => some (l, c, (0 : DWord))
    | _ => none
  let waits := maskOf fun l => n.getLsbD l && r l == .wait
  match lowestFault faults with
  | some (c, m, a) => some (s.wideTrap x.is.blk x.is.warp y c m a x.runLen)
  | none =>
    let park (m : Word) : State :=
      (s.updBlk x.is.blk fun b => b.park x.is.warp m .fill).uncountSkid x.is.blk x.is.warp
    if waits != 0#32 then some (park waits) else if pend then some (park n) else none

/-- v registers of the live lanes outside NEEDED are 0 and full under MZ (R129). -/
def Warp.zeroOthers (w : Warp) (n : Word) (regs : List Nat) : Warp :=
  w.mapLanes (w.live &&& ~~~n) fun _ l => regs.foldl (fun l r => l.setRegs r [0]) l

/-- A warp-scope instruction on v registers: it issues once when the sources and destinations of its lanes are
full, and then acts on its warp (R98, R99, R129). `masks` says that it may change a mask register. -/
def Ex.cross (x : Ex) (k : Nat) (acc : Acc) (ops : List Opd) (extra : Bool) (srcs : List Src) (dst : List Nat)
    (act : Warp → Word → Warp) (masks : Bool := false) : State :=
  if !x.legal acc ops extra then x.illegal 1 k
  else x.wide (.warp x.is.warp) k fun s y =>
    let n := x.neededHere s y
    let W := s.warp x.is.blk x.is.warp
    match x.warpBlocked s y n (fun l => readiness (W.lane l).view srcs dst) (x.pf.modOf.mz && W.othersPend n dst) with
    | some s => s
    | none =>
      let s := (s.finish x.is.blk y).updWarp x.is.blk x.is.warp fun W =>
        let W := act W n
        if x.pf.modOf.mz then W.zeroOthers n dst else W
      if masks then s.masksChanged x.is.blk x.is.warp else s

/-! ### XLA, XLB, XLR (R203 to R206) -/

/-- What XLA, XLB and XLR accept: MZ with a v destination, HI on XLR (R185). -/
def crossAcc (mz hi : Bool) : Acc := { mod := true, mz := mz, hi := hi }

/-- A v source of form L, which carries no trap bit. -/
def vsrc (c : BitVec 6) : Src := ⟨c.toNat, 1, false, .own⟩

/-- vA of a source lane, or the lane's own vA where the source does not take part (R203). -/
def Warp.exchange (w : Warp) (n : Word) (a : Nat) (l : Nat) (src : Int) : Word :=
  if 0 ≤ src ∧ src < 32 ∧ n.getLsbD src.toNat then (w.lane src.toNat).reg a else (w.lane l).reg a

/-- XLA: every lane takes vA of its source lane. -/
def permute (f : FormL) (bv : Bool) (src : Warp → Nat → Int) (s : State) : Host.Outcome State Fault Refusal :=
  issuing s fun x =>
    x.cross f.k.toNat (crossAcc true false)
      [⟨.v, f.d.toNat, 1, false⟩, ⟨.v, f.a.toNat, 1, false⟩, ⟨if bv then .v else .w, f.b.toNat, 1, false⟩,
       ⟨.k, f.k.toNat, 1, false⟩] true
      (if bv then [vsrc f.a, vsrc f.b] else [vsrc f.a]) [f.d.toNat]
      fun W n => W.mapLanes n fun l y => y.setRegs f.d.toNat [W.exchange n f.a.toNat l (src W l)]

def execPerm (f : FormL) (s : State) :=
  permute f true (fun W l => (((W.lane l).reg f.b.toNat).toNat % 32 : Nat)) s
def execPermx (f : FormL) (s : State) := permute f false (fun W l => (l ^^^ (W.reg f.b.toNat).toNat % 32 : Nat)) s
def execPermu (f : FormL) (s : State) := permute f false (fun W l => l - (W.reg f.b.toNat).toInt) s
def execPermd (f : FormL) (s : State) := permute f false (fun W l => l + (W.reg f.b.toNat).toInt) s

/-- XLB on a predicate: a w result of the lanes of NEEDED in which it is true. -/
def vote (f : FormLP) (fn : Word → Word → Word) (s : State) : Host.Outcome State Fault Refusal :=
  issuing s fun x =>
    x.cross f.k.toNat (crossAcc false false) [⟨.w, f.d.toNat, 1, false⟩, ⟨.k, f.k.toNat, 1, false⟩] true [] []
      fun W n => W.setReg f.d.toNat (fn n (maskOf fun l => n.getLsbD l && (W.lane l).pred f.p))

def execBallot (f : FormLP) (s : State) := vote f (fun _ m => m) s
def execVall (f : FormLP) (s : State) := vote f (fun n m => if m == n then 1 else 0) s
def execVany (f : FormLP) (s : State) := vote f (fun _ m => if m == 0#32 then 0 else 1) s

def execMatchB (f : FormL1) (s : State) : Host.Outcome State Fault Refusal :=
  issuing s fun x =>
    x.cross f.k.toNat (crossAcc true false)
      [⟨.v, f.d.toNat, 1, false⟩, ⟨.v, f.a.toNat, 1, false⟩, ⟨.k, f.k.toNat, 1, false⟩] true [vsrc f.a] [f.d.toNat]
      fun W n => W.mapLanes n fun l y => y.setRegs f.d.toNat
        [maskOf fun j => n.getLsbD j && (W.lane j).reg f.a.toNat == (W.lane l).reg f.a.toNat]

/-- The reduction of vA over some lanes, from the lowest on. -/
def Warp.reduce (w : Warp) (a : Nat) (op : Word → Word → Word) (m : Word) : Word :=
  match lanesOf m with
  | [] => 0
  | l :: ls => ls.foldl (fun r j => op r ((w.lane j).reg a)) ((w.lane l).reg a)

/-- The lanes of a lane's quarter (R9). -/
def quarterOf (l : Nat) : Word := 0xFF#32 <<< (8 * (l / 8))

/-- XLR reductions: to wD, or with HI to vD of every lane for its own quarter (R206). -/
def reduction (f : FormL1) (op : Word → Word → Word) (s : State) : Host.Outcome State Fault Refusal :=
  issuing s fun x =>
    let hi := x.pf.modOf.hi
    x.cross f.k.toNat (crossAcc hi true)
      [⟨if hi then .v else .w, f.d.toNat, 1, false⟩, ⟨.v, f.a.toNat, 1, false⟩, ⟨.k, f.k.toNat, 1, false⟩] true
      [vsrc f.a] (if hi then [f.d.toNat] else [])
      fun W n =>
        if hi then W.mapLanes n fun l y => y.setRegs f.d.toNat [W.reduce f.a.toNat op (n &&& quarterOf l)]
        else W.setReg f.d.toNat (W.reduce f.a.toNat op n)

def execRedadd (f : FormL1) (s : State) := reduction f (fun a b => a + b) s
def execRedmin (f : FormL1) (s : State) := reduction f (fun a b => if a.sle b then a else b) s
def execRedmax (f : FormL1) (s : State) := reduction f (fun a b => if a.sle b then b else a) s

/-- SCANADD: the inclusive sum of the lanes at or below, in quarter mode within the quarter (R206). -/
def execScanadd (f : FormL1) (s : State) : Host.Outcome State Fault Refusal :=
  issuing s fun x =>
    let hi := x.pf.modOf.hi
    x.cross f.k.toNat (crossAcc true true)
      [⟨.v, f.d.toNat, 1, false⟩, ⟨.v, f.a.toNat, 1, false⟩, ⟨.k, f.k.toNat, 1, false⟩] (hi || f.d != f.a)
      [vsrc f.a] [f.d.toNat]
      fun W n => W.mapLanes n fun l y => y.setRegs f.d.toNat
        [W.reduce f.a.toNat (fun a b => a + b)
          (n &&& (if hi then quarterOf l else BitVec.allOnes 32) &&& (maskOf fun j => j ≤ l))]

/-! ### MOVX (R207) -/

def execMovv (f : FormA1) (s : State) := unary f {} (fun _ a => (a, [])) s

def execBcastw (f : FormBc) (s : State) : Host.Outcome State Fault Refusal :=
  issuing s fun x =>
    let sc := if f.set then 2 else 0
    x.alu sc (({} : Acc).scoped sc true) [⟨scopeClass sc, f.d.toNat, 1, false⟩, ⟨.w, f.a.toNat, 1, false⟩] true
      { a := some ⟨f.a.toNat, 1, false, .warp⟩, dst := .reg f.d.toNat 1, fn := fun a _ _ _ => ⟨a, []⟩ }

def execReadl (f : FormA3) (s : State) : Host.Outcome State Fault Refusal :=
  issuing s fun x =>
    x.cross x.pf.modOf.k.toNat (({} : Acc).scoped 1 false)
      [⟨.w, f.d.toNat, 1, false⟩, ⟨.v, f.a.toNat, 1, f.ta⟩, ⟨.w, f.b.toNat, 1, false⟩] true
      [⟨f.a.toNat, 1, f.ta, .own⟩] []
      fun W n =>
        let l := (W.reg f.b.toNat).toNat % 32
        W.setReg f.d.toNat (if n.getLsbD l then (W.lane l).reg f.a.toNat else 0)

/-- GSLR: element (wB, l) of gA, 0 where no member has that position (R207). -/
def execGslr (f : FormA3) (s : State) : Host.Outcome State Fault Refusal :=
  issuing s fun x =>
    match x.b.setOf x.is.warp x.pf.modOf.ss.toNat with
    | none => x.illegal
    | some i =>
      if !x.legal { mod := true, ss := true }
          [⟨.v, f.d.toNat, 1, false⟩, ⟨.g, f.a.toNat, 1, f.ta⟩, ⟨.w, f.b.toNat, 1, false⟩] then x.illegal
      else
        let st := x.b.set i
        let j := (x.w.reg f.b.toNat).toNat
        x.lanewise fun l y =>
          let srcs : List Src := if j < popcount st.members then [⟨f.a.toNat, 1, f.ta, .own⟩] else []
          match readiness (st.view j l y) srcs [], readiness y.view [] [f.d.toNat] with
          | .fault c, _ => .fault c 0
          | .wait, _ => .wait
          | .go, .go => .done (y.setRegs f.d.toNat
              [if j < popcount st.members then (st.elem f.a.toNat j l).val else 0]) []
          | .go, _ => .wait

/-- GSLW: element (wB, l) of gD becomes vA, and full (R207). -/
def execGslw (f : FormA3) (s : State) : Host.Outcome State Fault Refusal :=
  issuing s fun x =>
    match x.b.setOf x.is.warp x.pf.modOf.ss.toNat with
    | none => x.illegal
    | some i =>
      if !x.legal { mod := true, ss := true }
          [⟨.g, f.d.toNat, 1, false⟩, ⟨.v, f.a.toNat, 1, f.ta⟩, ⟨.w, f.b.toNat, 1, false⟩] then x.illegal
      else
        let st := x.b.set i
        let j := (x.w.reg f.b.toNat).toNat
        let inSet := j < popcount st.members
        let ready (l : Nat) (y : Lane) : Ready :=
          match readiness y.view [⟨f.a.toNat, 1, f.ta, .own⟩] [] with
          | .go => if inSet && !(st.elem f.d.toNat j l).full then .wait else .go
          | r => r
        let res (l : Nat) (y : Lane) : LaneRes :=
          match ready l y with
          | .go => .done y []
          | .wait => .wait
          | .fault c => .fault c 0
        let put (st : SetB) (l : Nat) : SetB :=
          if ready l (x.w.lane l) == .go then st.setElems f.d.toNat j l [(x.w.lane l).reg f.a.toNat] else st
        let s := x.lanewise res
        if inSet then
          s.updBlk x.is.blk fun b =>
            { b with sets := b.sets.modify i fun st => (lanesOf x.is.lanes).foldl put st }
        else s

def execKtow (f : FormDA) (s : State) : Host.Outcome State Fault Refusal :=
  issuing s fun x =>
    x.cross x.pf.modOf.k.toNat (({} : Acc).scoped 1 false) [⟨.w, f.d.toNat, 1, false⟩, ⟨.k, f.a.toNat, 1, false⟩]
      true [] [] fun W _ => W.setReg f.d.toNat (W.mask f.a.toNat)

def execWtok (f : FormDA) (s : State) : Host.Outcome State Fault Refusal :=
  issuing s fun x =>
    x.cross x.pf.modOf.k.toNat (({} : Acc).scoped 1 false) [⟨.kd, f.d.toNat, 1, false⟩, ⟨.w, f.a.toNat, 1, false⟩]
      true [] [] (fun W _ => W.setMask f.d.toNat (W.reg f.a.toNat)) true

def execPtov (f : FormPv) (s : State) : Host.Outcome State Fault Refusal :=
  issuing s fun x =>
    let sc := if f.set then 2 else 0
    x.alu sc (({} : Acc).scoped sc true) [⟨scopeClass sc, f.d.toNat, 1, false⟩] true
      { a := some ⟨f.p.toNat, 1, false, .pred⟩, dst := .reg f.d.toNat 1, fn := fun a _ _ _ => ⟨a, []⟩ }

def execVtop (f : FormVp) (s : State) : Host.Outcome State Fault Refusal :=
  issuing s fun x =>
    let sc := if f.set then 2 else 0
    x.alu sc (({} : Acc).scoped sc false) [⟨.pd, f.pd.toNat, 1, false⟩, ⟨scopeClass sc, f.a.toNat, 1, f.ta⟩] true
      { a := some ⟨f.a.toNat, 1, f.ta, .own⟩, dst := .pred f.pd 0,
        fn := fun a _ _ _ => ⟨if loHalf a == 0#32 then 0 else 1, []⟩ }

/-! ### MOVS (R208) -/

/-- The trap of a warp that is in its handler. -/
def Block.handlerOf (b : Block) (w : Nat) : Option Halt :=
  b.halt.filter fun h => h.handler && h.trap.warp == w

/-- A special register as a lane of a warp reads it; `active` is ACTIVE (R115, R208, R408). -/
def specialReg (s : State) (b w l : Nat) (active : Word) (hi : Bool) (n : Nat) : Word :=
  let B := s.blk b
  let W := B.warp w
  let L := s.launch B.launch
  let r := L.rcd
  let t := 32 * w + l
  let ofNat (n : Nat) : Word := BitVec.ofNat 32 n
  let trap := (B.handlerOf w).map (·.trap)
  let held (f : Trap → Word) : Word := (trap.map f).getD 0
  match n with
  | 0 => ofNat (t % r.blkX)
  | 1 => ofNat (t / r.blkX % r.blkY)
  | 2 => ofNat (t / (r.blkX * r.blkY))
  | 3 => ofNat (B.index % r.gridX)
  | 4 => ofNat (B.index / r.gridX % r.gridY)
  | 5 => ofNat (B.index / (r.gridX * r.gridY))
  | 6 => ofNat r.blkX
  | 7 => ofNat r.blkY
  | 8 => ofNat r.blkZ
  | 9 => ofNat r.gridX
  | 10 => ofNat r.gridY
  | 11 => ofNat r.gridZ
  | 12 => ofNat l
  | 13 => ofNat w
  | 14 => ofNat B.core
  | 15 => ofNat B.cluster
  | 16 => ofNat B.die
  | 17 => W.live
  | 18 => active
  | 19 => ofNat s.cycle
  | 20 => W.clockHi
  | 21 => ofNat B.ctx
  | 22 => ofNat ((List.range 4).foldl (fun v i =>
      v + (match B.setOf w i with | some j => 0x80 ||| j | none => 0) * 2 ^ (8 * i)) 0)
  | 23 => held fun t => t.prevActive
  | 24 => held fun t => t.faultLanes
  | 25 => held fun t => ofNat t.cause.code
  | 26 => held fun t => let e := t.epc.getD l 0; if hi then hiHalf e else loHalf e
  | 27 => ((B.handlerOf w).map fun h =>
      ofNat (B.warps.length - 1 + ((h.skids.set w 0).foldl max 0) * 256)).getD 0
  | 28 => held fun t => loHalf t.faddr
  | 29 => held fun t => hiHalf t.faddr
  | 30 => ofNat (r.cls + if (s.ctx B.ctx).preState == .draining then 256 else 0)
  | _ => ofNat (B.spGran * 16384)

/-- The special registers that differ from lane to lane. -/
def perLane (n : Nat) : Bool := n ≤ 2 || n == 12 || n == 26

/-- CLOCKLO latches the high half of the cycle counter for the warp. -/
def Warp.latch (w : Warp) (cycle n : Nat) : Warp :=
  if n = 19 then { w with clockHi := BitVec.ofNat 32 (cycle / 2 ^ 32) } else w

/-- MOVS (R208). ACTIVE at set and block scope is as at warp scope the reading warp's lanes of NEEDED
(assumption 91). -/
def execMovs (f : FormMs) (s : State) : Host.Outcome State Fault Refusal :=
  issuing s fun x =>
    let sc := f.sc.toNat
    let n := f.n.toNat
    let hi := x.pf.modOf.hi
    let d := f.d.toNat
    if !x.legal ({ hi := n == 26 : Acc }.scoped sc (sc == 2)) [⟨scopeClass sc, d, 1, false⟩]
        (!(sc == 1 || sc == 3) || !perLane n) then x.illegalAt sc
    else if sc = 0 then
      let acting := maskOf fun l => x.is.lanes.getLsbD l && (x.w.lane l).full d
      (x.lanewise fun l y =>
        match readiness y.view [] [d] with
        | .go => .done (y.setRegs d [specialReg x.s x.is.blk x.is.warp l acting hi n]) []
        | _ => .wait).updWarp x.is.blk x.is.warp fun W => if acting == 0#32 then W else W.latch x.s.cycle n
    else match x.unit sc with
      | none => x.illegalAt sc
      | some u => x.wide u x.pf.modOf.k.toNat fun s y =>
        let b := s.blk x.is.blk
        let need := b.needed y
        let latch (B : Block) : Block :=
          { B with warps := B.warps.mapIdx fun w W => if need.getD w 0 == 0#32 then W else W.latch s.cycle n }
        match u with
        | .warp w =>
          let v := specialReg s x.is.blk w 0 (need.getD w 0) false n
          ((s.finish x.is.blk y).updWarp x.is.blk w fun W => W.setReg d v).updBlk x.is.blk latch
        | .block =>
          let w := b.firstLive
          let v := specialReg s x.is.blk w 0 (need.getD w 0) false n
          ((s.finish x.is.blk y).updBlk x.is.blk fun B => { B with
            warps := B.warps.map fun W => if W.live == 0#32 then W else W.setReg d v }).updBlk x.is.blk latch
        | .set i =>
          let st := b.set i
          let lanes := Inst.lanes need
          match x.setBlocked s y lanes (fun w l => readiness (st.view (st.pos w) l ((b.warp w).lane l)) [] [d])
              (x.pf.modOf.mz && b.othersPend i need [d]) with
          | some s => s
          | none =>
            let s' := (s.finish x.is.blk y).updBlk x.is.blk fun B =>
              latch { B with sets := B.sets.modify i fun st => lanes.foldl (fun st (w, l) =>
                st.setElems d (st.pos w) l [specialReg s x.is.blk w l (need.getD w 0) hi n]) st }
            if x.pf.modOf.mz then s'.updBlk x.is.blk fun B => B.zeroOthers i need [d] else s'

/-! ### ADDR (R209) -/

/-- LEA: A plus B shifted, B zero-extended, or sign-extended under SX. -/
def leaOp (f : FormA) (sh : Nat) (s : State) : Host.Outcome State Fault Refusal :=
  issuing s fun x =>
    let sc := f.sc.toNat
    let sx := x.pf.modOf.sx
    x.alu sc ({ ub := true, sx := true : Acc }.scoped sc (sc == 2))
      [⟨scopeClass sc, f.d.toNat, 2, false⟩, ⟨scopeClass sc, f.a.toNat, 2, f.ta⟩, x.opdB sc f.b f.tb] true
      { a := some ⟨f.a.toNat, 2, f.ta, .own⟩, b := some (x.srcB f.b f.tb), dst := .reg f.d.toNat 2,
        fn := fun a b _ _ => ⟨a + ((if sx then (loHalf b).signExtend 64 else b) <<< sh), []⟩ }

/-- ADD64 and SUB64 on pairs. -/
def pairOp (f : FormA) (fn : DWord → DWord → DWord) (s : State) : Host.Outcome State Fault Refusal :=
  issuing s fun x =>
    let sc := f.sc.toNat
    x.alu sc (({} : Acc).scoped sc (sc == 2))
      [⟨scopeClass sc, f.d.toNat, 2, false⟩, ⟨scopeClass sc, f.a.toNat, 2, f.ta⟩,
       ⟨scopeClass sc, f.b.toNat, 2, f.tb⟩] true
      { a := some ⟨f.a.toNat, 2, f.ta, .own⟩, b := some ⟨f.b.toNat, 2, f.tb, .own⟩, dst := .reg f.d.toNat 2,
        fn := fun a b _ _ => ⟨fn a b, []⟩ }

def execLea0 (f : FormA) (s : State) := leaOp f 0 s
def execLea1 (f : FormA) (s : State) := leaOp f 1 s
def execLea2 (f : FormA) (s : State) := leaOp f 2 s
def execLea3 (f : FormA) (s : State) := leaOp f 3 s
def execLea4 (f : FormA) (s : State) := leaOp f 4 s
def execAdd64 (f : FormA) (s : State) := pairOp f (fun a b => a + b) s
def execSub64 (f : FormA) (s : State) := pairOp f (fun a b => a - b) s

end Sys2Proof.Machine
end

