-- ==== Sys2Proof/Machine/FloatArith.lean ====
section
/-! DEFINITION. Conversion, floating-point, special-function and online-softmax instructions (R194 to
R202). -/

namespace Sys2Proof.Machine

/-- The rounding mode of an instruction whose default is RNE (R104, R170). -/
def Ex.rm (x : Ex) : Nat := if x.pf.modOf.rm = 0 then 1 else x.pf.modOf.rm.toNat

/-- A rounded element in a register with its events, from the values it was formed of (R171, R181). -/
def rounded (v : Val) (c rm : Nat) (ins : List Val) : Nat × List (Nat × Events) :=
  let (r, e) := roundTo v c rm false (ins.any Val.isNan) (ins.any Val.isInf)
  (r, [(fmtGroup c, e)])

/-- A rounded FP32 result. -/
def rounded32 (v : Val) (rm : Nat) (ins : List Val) : Word × List (Nat × Events) :=
  let (r, e) := rounded v 0 rm ins
  (BitVec.ofNat 32 r, e)

/-! ### CONV (R172, R173, R194) -/

/-- One element converted: the code of the destination format with its events. -/
def convElem (sf df : Nat) (sat : Bool) (rm code : Nat) : Nat × List (Nat × Events) :=
  let v := valueOf sf code
  match fmtOf sf, fmtOf df with
  | .int _ _, .int w sg =>
    let z : Int := match v with | .fin s n _ _ => if s then -(n : Int) else n | _ => 0
    let lo : Int := if sg then -(2 ^ (w - 1) : Nat) else 0
    let hi : Int := if sg then (2 ^ (w - 1) : Nat) - 1 else (2 ^ w : Nat) - 1
    let y := if sat then (if z < lo then lo else if hi < z then hi else z) else z
    ((y % (2 ^ w : Nat)).toNat, [])
  | _, .int _ _ =>
    let (r, e) := roundTo v df rm true v.isNan v.isInf
    (r, [(fmtGroup df, e)])
  | _, _ =>
    let (r, e) := roundTo v df rm sat v.isNan v.isInf
    (r, [(fmtGroup df, e)])

/-- The codes that CONV accepts; pair mode takes formats of at most 16 bits and no code from 21 up. -/
def convOk (sf df : Nat) (hi : Bool) : Bool :=
  sf ≤ 24 && df ≤ 24 && df != 21 &&
    (!hi || (sf < 21 && df < 21 && fmtWidth sf ≤ 16 && fmtWidth df ≤ 16))

def execConv (f : FormZ) (s : State) : Host.Outcome State Fault Refusal :=
  issuing s fun x =>
    let sc := f.sc.toNat
    let sf := f.sf.toNat
    let df := f.df.toNat
    let hi := x.pf.modOf.hi
    let na := if sf = 24 then 2 else 1
    let nd := if df = 24 then 2 else 1
    x.alu sc ({ rm := true, hi := true : Acc }.scoped sc (sc == 2))
      [⟨scopeClass sc, f.d.toNat, nd, false⟩, ⟨scopeClass sc, f.a.toNat, na, f.ta⟩] (convOk sf df hi)
      { a := some ⟨f.a.toNat, na, f.ta, .own⟩, dst := .reg f.d.toNat nd,
        fn := fun a _ _ _ =>
          if hi then
            let one (i : Nat) := convElem sf df f.sat x.rm (elemOf (fmtWidth sf) i a.toNat)
            let (r0, e0) := one 0
            let (r1, e1) := one 1
            ⟨BitVec.ofNat 64 (r0 + r1 * 2 ^ fmtWidth df), e0 ++ e1⟩
          else
            let (r, e) := convElem sf df f.sat x.rm a.toNat
            ⟨if df = 24 then BitVec.ofNat 64 r else (placeElem df r).setWidth 64, e⟩ }

/-! ### FARITH (R195) -/

/-- A binary FP32 instruction under MOD RM. -/
def floatBin (f : FormA) (fn : Nat → Word → Word → Word × List (Nat × Events)) (s : State) :
    Host.Outcome State Fault Refusal :=
  binary f { rm := true } (fun x a b => fn x.rm a b) s

/-- A unary FP32 instruction: it takes MOD RM as the whole row of R185 does, and no UB, for it reads no B
(assumption 90). -/
def floatUn (f : FormA1) (fn : Nat → Word → Word × List (Nat × Events)) (s : State) :
    Host.Outcome State Fault Refusal :=
  unary f { rm := true } (fun x a => fn x.rm a) s

/-- The rounded result of an exact binary operation on FP32 values. -/
def exact32 (op : Bool → Val → Val → Val) (rm : Nat) (a b : Word) : Word × List (Nat × Events) :=
  rounded32 (op (rm == 3) (f32 a) (f32 b)) rm [f32 a, f32 b]

/-- FMIN and FMAX on codes of one format; `nm` lets a single NaN operand yield the other (R195). -/
def minMax (c : Nat) (big nm : Bool) (a b : Nat) : Nat :=
  let x := valueOf c a
  let y := valueOf c b
  if x.isNan && y.isNan || (!nm && (x.isNan || y.isNan)) then (roundTo .nan c 1 false true false).1
  else if x.isNan then b
  else if y.isNan then a
  else if big then (if y.ltSigned x then a else b) else if x.ltSigned y then a else b

def minMax32 (big nm : Bool) (a b : Word) : Word × List (Nat × Events) :=
  (BitVec.ofNat 32 (minMax 0 big nm a.toNat b.toNat), [])

/-- The class mask of FCLASS. -/
def classOf (a : Word) : Word :=
  let v := f32 a
  let sub := (a &&& 0x7F800000#32) == 0#32
  let k := if v.isNan then 8
    else if v.isInf then (if v.neg then 0 else 7)
    else if v.isZero then (if v.neg then 3 else 4)
    else if sub then (if v.neg then 2 else 5)
    else if v.neg then 1 else 6
  1#32 <<< k

/-- An operation on the bits of an operand that is not NaN; NaN gives the canonical NaN. -/
def unlessNan (a r : Word) : Word := if (f32 a).isNan then nan32 else r

/-- b read as S32 and clamped to ±600: the exponent of FSCALE. -/
def scaleExp (b : Word) : Int := if b.toInt < -600 then -600 else if 600 < b.toInt then 600 else b.toInt

def execFadd (f : FormA) (s : State) := floatBin f (exact32 Val.add) s
def execFsub (f : FormA) (s : State) := floatBin f (exact32 fun r a b => Val.add r a b.flip) s
def execFmul (f : FormA) (s : State) := floatBin f (exact32 fun _ a b => a.mul b) s
def execFmin (f : FormA) (s : State) := floatBin f (fun _ a b => minMax32 false false a b) s
def execFmax (f : FormA) (s : State) := floatBin f (fun _ a b => minMax32 true false a b) s
def execFminnm (f : FormA) (s : State) := floatBin f (fun _ a b => minMax32 false true a b) s
def execFmaxnm (f : FormA) (s : State) := floatBin f (fun _ a b => minMax32 true true a b) s
def execFabs (f : FormA1) (s : State) := floatUn f (fun _ a => (unlessNan a (a &&& 0x7FFFFFFF#32), [])) s
def execFneg (f : FormA1) (s : State) := floatUn f (fun _ a => (unlessNan a (a ^^^ 0x80000000#32), [])) s
def execFcpys (f : FormA) (s : State) :=
  floatBin f (fun _ a b => (unlessNan a ((a &&& 0x7FFFFFFF#32) ||| (b &&& 0x80000000#32)), [])) s
def execFscale (f : FormA) (s : State) :=
  floatBin f (fun rm a b => rounded32 ((f32 a).mul (.fin false 1 1 (scaleExp b))) rm [f32 a]) s
def execFrint (f : FormA1) (s : State) := floatUn f (fun rm a => (code32 ((f32 a).toIntegral rm), [])) s
def execFclass (f : FormA1) (s : State) := floatUn f (fun _ a => (classOf a, [])) s

/-! ### FFMA (R196) -/

/-- a × b + c, or with the signs of the product and of c turned, exactly. -/
def fusedVal (np nc rdn : Bool) (a b c : Val) : Val :=
  let p := a.mul b
  Val.add rdn (if np then p.flip else p) (if nc then c.flip else c)

/-- An FFMA instruction on FP32 values: `np` turns the product's sign, `nc` that of c. -/
def fused (f : FormA) (np nc : Bool) (s : State) : Host.Outcome State Fault Refusal :=
  ternary f { rm := true } 1 (fun x a b c =>
    let ins := [f32 a, f32 b, f32 (loHalf c)]
    let (r, e) := rounded32 (fusedVal np nc (x.rm == 3) (f32 a) (f32 b) (f32 (loHalf c))) x.rm ins
    (r.setWidth 64, e)) s

/-- Both halves of a pair operation on a 16-bit format. -/
def halves (fn : Nat → Nat × List (Nat × Events)) : Word × List (Nat × Events) :=
  let (r0, e0) := fn 0
  let (r1, e1) := fn 1
  (BitVec.ofNat 32 (r0 + r1 * 2 ^ 16), e0 ++ e1)

/-- The value of a half of a register in a 16-bit format. -/
def half (c i : Nat) (x : Word) : Val := valueOf c (elemOf 16 i x.toNat)

def fusedPair (f : FormA) (c : Nat) (s : State) : Host.Outcome State Fault Refusal :=
  ternary f { rm := true } 1 (fun x a b cc =>
    let (r, e) := halves fun i =>
      let p := half c i a
      let q := half c i b
      let t := half c i (loHalf cc)
      rounded (fusedVal false false (x.rm == 3) p q t) c x.rm [p, q, t]
    (r.setWidth 64, e)) s

/-- The sum of the products of both halves and an FP32 value, rounded once. -/
def dotPair (f : FormA) (c : Nat) (s : State) : Host.Outcome State Fault Refusal :=
  ternary f { rm := true } 1 (fun x a b cc =>
    let t := f32 (loHalf cc)
    let ins := [half c 0 a, half c 1 a, half c 0 b, half c 1 b, t]
    let rdn := x.rm == 3
    let p := Val.add rdn ((half c 0 a).mul (half c 0 b)) ((half c 1 a).mul (half c 1 b))
    let (r, e) := rounded32 (Val.add rdn p t) x.rm ins
    (r.setWidth 64, e)) s

def execFfma (f : FormA) (s : State) := fused f false false s
def execFfms (f : FormA) (s : State) := fused f false true s
def execFfnma (f : FormA) (s : State) := fused f true true s
def execFfnms (f : FormA) (s : State) := fused f true false s
def execHfma2 (f : FormA) (s : State) := fusedPair f 2 s
def execBfma2 (f : FormA) (s : State) := fusedPair f 3 s
def execHdot2 (f : FormA) (s : State) := dotPair f 2 s
def execBdot2 (f : FormA) (s : State) := dotPair f 3 s

/-! ### FPACK (R197) -/

/-- An exact operation on both halves, each rounded. -/
def packExact (c : Nat) (op : Bool → Val → Val → Val) (rm : Nat) (a b : Word) : Word × List (Nat × Events) :=
  halves fun i => rounded (op (rm == 3) (half c i a) (half c i b)) c rm [half c i a, half c i b]

/-- The smaller or larger of each pair of halves. -/
def packMinMax (c : Nat) (big : Bool) (a b : Word) : Word × List (Nat × Events) :=
  halves fun i => (minMax c big false (elemOf 16 i a.toNat) (elemOf 16 i b.toNat), [])

def execHadd2 (f : FormA) (s : State) := floatBin f (packExact 2 Val.add) s
def execHmul2 (f : FormA) (s : State) := floatBin f (packExact 2 fun _ a b => a.mul b) s
def execHmin2 (f : FormA) (s : State) := floatBin f (fun _ a b => packMinMax 2 false a b) s
def execHmax2 (f : FormA) (s : State) := floatBin f (fun _ a b => packMinMax 2 true a b) s
def execBadd2 (f : FormA) (s : State) := floatBin f (packExact 3 Val.add) s
def execBmul2 (f : FormA) (s : State) := floatBin f (packExact 3 fun _ a b => a.mul b) s
def execBmin2 (f : FormA) (s : State) := floatBin f (fun _ a b => packMinMax 3 false a b) s
def execBmax2 (f : FormA) (s : State) := floatBin f (fun _ a b => packMinMax 3 true a b) s

/-! ### FCMP (R198) -/

def execFcmpEq (f : FormC) (s : State) := compare f (floatCond 0) s
def execFcmpNe (f : FormC) (s : State) := compare f (floatCond 1) s
def execFcmpLt (f : FormC) (s : State) := compare f (floatCond 2) s
def execFcmpLe (f : FormC) (s : State) := compare f (floatCond 3) s
def execFcmpGt (f : FormC) (s : State) := compare f (floatCond 4) s
def execFcmpGe (f : FormC) (s : State) := compare f (floatCond 5) s
def execFcmpUn (f : FormC) (s : State) := compare f (floatCond 6) s
def execFcmpNum (f : FormC) (s : State) := compare f (floatCond 7) s

/-! ### SFU and RNDH (R199, R200) -/

/-- A special function: MOD RM must be 0 (R199). -/
def special (f : FormA1) (fn : Word → Word × Events) (s : State) : Host.Outcome State Fault Refusal :=
  unary f {} (fun _ a => let (r, e) := fn a; (r, [(0, e)])) s

def execRcp (f : FormA1) (s : State) := special f sfuRcp s
def execRsq (f : FormA1) (s : State) := special f sfuRsq s
def execSqrt (f : FormA1) (s : State) := special f sfuSqrt s
def execExp2 (f : FormA1) (s : State) := special f sfuExp2 s
def execLog2 (f : FormA1) (s : State) := special f sfuLog2 s
def execSinp (f : FormA1) (s : State) := special f sfuSinp s
def execCosp (f : FormA1) (s : State) := special f sfuCosp s
def execTanh (f : FormA1) (s : State) := special f sfuTanh s
def execSigm (f : FormA1) (s : State) := special f sfuSigm s

/-- The hash of a counter under a key (R200). -/
def hash (a b : Word) : Word :=
  let x := a ^^^ rotLeft b 7
  let x := x * 0x9E3779B1#32
  let x := x ^^^ (x >>> 15)
  let x := x + rotLeft b 19
  let x := x * 0x7FEB352D#32
  let x := x ^^^ (x >>> 15)
  let x := x * 0x846CA68B#32
  x ^^^ (x >>> 16)

def execRndh (f : FormA) (s : State) := intBin f hash s

/-! ### SMX (R201) -/

/-- SMXF: P2(a - b). -/
def smxFactor (a b : Word) : Word × List (Nat × Events) :=
  let x := f32 a
  let y := f32 b
  let d := Val.add false x y.flip
  let r := if x == .inf true then 0#32
    else if x.isNan || y.isNan then Config.smxfNan a b
    else if d.isNan then 0#32
    else p2 d
  (r, [(0, sfuEvents (if x.isNan || y.isNan then .nan else if x.isInf || y.isInf then .inf false else .one) r
    false false)])

/-- SMXS and SMXC: state (m, s) takes a score, or another state's maximum, x and a sum t; `one` says that t
is the constant 1 of SMXS. -/
def smxMerge (m s x t : Word) (one : Bool) : DWord × List (Nat × Events) :=
  let vm := f32 m
  let vx := f32 x
  let ins := if one then [vm, f32 s, vx] else [vm, f32 s, vx, f32 t]
  if vm.isNan || vx.isNan || vm == .inf false || vx == .inf false then
    let e : Events := ⟨!(ins.any Val.isNan), false, false, false⟩
    (pair nan32 nan32, [(0, e), (0, e)])
  else if vx == .inf true then (pair m s, [])
  else
    let m' := if vm.ltSigned vx then x else m
    let part (v : Val) : Val := f32 (p2 (Val.add false v (f32 m').flip))
    let left := (f32 s).mul (part vm)
    let right := if one then part vx else (f32 t).mul (part vx)
    let (r, e) := rounded32 (Val.add false left right) 1 ins
    (pair m' r, e)

def execSmxm (f : FormA) (s : State) : Host.Outcome State Fault Refusal :=
  binary f {} (fun _ a b => minMax32 true false a b) s

def execSmxs (f : FormA1) (s : State) : Host.Outcome State Fault Refusal :=
  issuing s fun x =>
    let sc := f.sc.toNat
    x.alu sc (({} : Acc).scoped sc (sc == 2))
      [⟨scopeClass sc, f.d.toNat, 2, false⟩, ⟨scopeClass sc, f.a.toNat, 1, f.ta⟩] true
      { a := some ⟨f.a.toNat, 1, f.ta, .own⟩, d := some ⟨f.d.toNat, 2, false, .own⟩,
        dst := .reg f.d.toNat 2,
        fn := fun a _ _ d => let (r, e) := smxMerge (loHalf d) (hiHalf d) (loHalf a) 0 true; ⟨r, e⟩ }

def execSmxf (f : FormA) (s : State) : Host.Outcome State Fault Refusal :=
  binary f {} (fun _ a b => smxFactor a b) s

def execSmxc (f : FormA1) (s : State) : Host.Outcome State Fault Refusal :=
  issuing s fun x =>
    let sc := f.sc.toNat
    x.alu sc (({} : Acc).scoped sc (sc == 2))
      [⟨scopeClass sc, f.d.toNat, 2, false⟩, ⟨scopeClass sc, f.a.toNat, 2, f.ta⟩] (f.a != f.d)
      { a := some ⟨f.a.toNat, 2, f.ta, .own⟩, d := some ⟨f.d.toNat, 2, false, .own⟩,
        dst := .reg f.d.toNat 2,
        fn := fun a _ _ d =>
          let (r, e) := smxMerge (loHalf d) (hiHalf d) (loHalf a) (hiHalf a) false; ⟨r, e⟩ }

end Sys2Proof.Machine
end

