-- ==== Sys2Proof/Machine/Xlate.lean ====
section
/-! DEFINITION. Translation from virtual to physical addresses (R72 to R75, R82, R83), and reads and writes of
ranges of virtual addresses by the device's own units. -/

namespace Sys2Proof.Machine

/-- What an access does to memory. -/
inductive Access where
  | load
  | store
  | atomic
  | fetch
  deriving DecidableEq, Repr

/-- The outcome of a translation: the leaf entry and the physical address, or the cause of a fault. -/
inductive XRes where
  | ok (entry : DWord) (pa : Nat)
  | fault (c : Cause)
  deriving DecidableEq, Repr

/-- Bits [63:57] all equal bit 56 (R72). -/
def canonical (va : DWord) : Bool :=
  let top := va.toNat / 2 ^ 56
  top == 0 || top == 255

/-! ### Translation entries (R74) -/

def entryAddr (e : DWord) : Nat := e.toNat / 256 % 2 ^ 44 * 256

def entryRepl (e : DWord) : Nat := e.toNat / 2 ^ 60

def entryRo (e : DWord) : Bool := e.getLsbD 5

def entryNx (e : DWord) : Bool := e.getLsbD 4

def entryLeaf (e : DWord) : Bool := e.getLsbD 1

/-- The page size of a leaf of a level (R73). -/
def pageSize (level : Nat) : Nat :=
  match level with
  | 2 => 2 ^ 30
  | 3 => 2 ^ 21
  | _ => 2 ^ 16

/-- A replication mask is 0, or has two bits set, one of them the die of an address in near memory (R82). -/
def replOk (addr mask : Nat) : Bool :=
  mask == 0 || (addr < 0x20_0000_0000 && mask.testBit (addr / 0x8_0000_0000) &&
    2 ≤ ((List.range 4).filter mask.testBit).length)

/-- Whether a valid entry of a level is malformed (R74). -/
def malformed (level : Nat) (e : DWord) : Bool :=
  let n := e.toNat
  let reserved := n / 2 ^ 52 % 256 != 0 || n / 64 % 2 != 0 || n / 4 % 4 != 0
  reserved || if entryLeaf e then
    level < 2 || entryAddr e % pageSize level != 0 || !replOk (entryAddr e) (entryRepl e)
  else
    level == 4 || entryAddr e % (if level == 3 then 256 else 4096) != 0 || entryRepl e != 0
      || e.getLsbD 7 || entryRo e || entryNx e

/-- The index of a level in a virtual address (R73). -/
def vaIndex (level : Nat) (va : DWord) : Nat :=
  match level with
  | 0 => va.toNat / 2 ^ 48 % 512
  | 1 => va.toNat / 2 ^ 39 % 512
  | 2 => va.toNat / 2 ^ 30 % 512
  | 3 => va.toNat / 2 ^ 21 % 512
  | _ => va.toNat / 2 ^ 16 % 32

/-- A walk from a table of a level: the leaf with its page size, or a fault. A table in a reserved range
gives PROT as an address there does (R71, R73). -/
def walkFrom (mem : List Host.Cell) (va : DWord) : Nat → Nat → Nat → Sum Cause (DWord × Nat)
  | 0, _, _ => .inl .prot
  | fuel + 1, level, table =>
    if !paOk table then .inl .prot
    else
      let e : DWord := BitVec.ofNat 64 (leNat (Memory.readBytes mem (table + 8 * vaIndex level va) 8))
      if !e.getLsbD 0 then .inl .xlate
      else if malformed level e then .inl .prot
      else if entryLeaf e then .inr (e, pageSize level)
      else walkFrom mem va fuel (level + 1) (entryAddr e)

/-- The walk of a context (R73). -/
def State.walk (s : State) (ctx : Nat) (va : DWord) : Sum Cause (DWord × Nat) :=
  match s.ctx? ctx with
  | none => .inl .xlate
  | some c => walkFrom s.mem va 5 0 c.root.toNat

/-! ### Translation buffers (R2, R75)

A place that translates is a number: a die's walker with its cache is the number of the die, then come the buffers of
the package's clusters and those of its cores. -/

def clusterPlace (c : Nat) : Nat := Config.dies + c

def corePlace (n : Nat) : Nat := Config.dies + Config.dies * Config.clusters + n

/-- The die of a place. -/
def placeDie (p : Nat) : Nat :=
  if p < Config.dies then p
  else if p < corePlace 0 then (p - Config.dies) / Config.clusters
  else (p - corePlace 0) / (Config.clusters * Config.cores)

/-- The buffers that a place looks in, the nearest first: a core's, its cluster's, the walker's cache of its die. -/
def placeChain (p : Nat) : List Nat :=
  if p < Config.dies then [p]
  else if p < corePlace 0 then [p, placeDie p]
  else [p, clusterPlace ((p - corePlace 0) / Config.cores), placeDie p]

/-- The entries of a buffer among which a page finds its place: the ways of its set in a cluster's, all of a core's; the
spec gives no size for the walker's cache. -/
def placeRoom (p : Nat) : Option Nat :=
  if p < Config.dies then none else if p < corePlace 0 then some Config.clusterTlbWays else some Config.coreTlb

/-- The set of a buffer in which a page has its place (R2). -/
def placeSet (p : Nat) (t : Tlb) : Nat :=
  if Config.dies ≤ p && p < corePlace 0 then
    Config.tlbSet t.ctx t.va t.size % (Config.clusterTlb / Config.clusterTlbWays)
  else 0

/-- A translation that a buffer of a die holds. -/
def Die.lookup (d : Die) (p ctx : Nat) (va : DWord) : Option Tlb :=
  d.tlb.find? fun t => t.place == p && t.ctx == ctx && decide (t.va ≤ va.toNat) && decide (va.toNat < t.va + t.size)

/-- The first address and the size of the page of an address of a context; one of 64 KiB where no translation stands. -/
def State.pageOf (s : State) (ctx : Nat) (va : DWord) : Nat × Nat :=
  match s.walk ctx va with
  | .inr (_, n) => (va.toNat / n * n, n)
  | .inl _ => (va.toNat / 0x10000 * 0x10000, 0x10000)

/-- The nearest translation that a place finds. -/
def State.lookup (s : State) (p ctx : Nat) (va : DWord) : Option Tlb :=
  (placeChain p).findSome? fun q => (s.die (placeDie p)).lookup q ctx va

/-- A buffer that does not hold an entry takes it; a full one replaces another, the spec not stating which. -/
def State.keepEntry (s : State) (t : Tlb) (q : Nat) : State :=
  let die := placeDie q
  let mine := (s.die die).tlb.filter fun x => x.place == q && placeSet q x == placeSet q t
  if mine.any fun x => x.ctx == t.ctx && x.va == t.va && x.size == t.size then s
  else
    let add (s : State) : State := s.updDie die fun d => { d with tlb := d.tlb ++ [{ t with place := q }] }
    match placeRoom q with
    | none => add s
    | some n =>
      if mine.length < n then add s
      else
        let (i, s) := s.pick mine.length
        add (s.updDie die fun d => { d with tlb := d.tlb.filter fun x => x != mine.getD i default })

/-- The entry that a place uses for an address: from the buffers it looks in, or by a walk; the buffers on the way
take it. A walk that faults leaves no entry (R75). -/
def State.entryFor (s : State) (p ctx : Nat) (va : DWord) : State × Sum Cause DWord :=
  match (s.die (placeDie p)).lookup p ctx va with
  | some t => (s, .inr t.entry)
  | none =>
    match s.lookup p ctx va with
    | some t => ((placeChain p).foldl (State.keepEntry · t) s, .inr t.entry)
    | none =>
      match s.walk ctx va with
      | .inl c => (s, .inl c)
      | .inr (e, n) => ((placeChain p).foldl (State.keepEntry · ⟨p, ctx, va.toNat / n * n, n, e⟩) s, .inr e)

/-- The die whose replica a die reads and plainly writes (R83). -/
def replicaDie (mask die : Nat) : Nat :=
  if mask.testBit die then die else ((List.range 4).find? mask.testBit).getD 0

/-- The level of a leaf follows from its page: the offset within it for a page of a size. -/
def replicaPa (e : DWord) (off die : Nat) : Nat :=
  let a := entryAddr e
  if entryRepl e = 0 then a + off
  else a % 0x8_0000_0000 + die * 0x8_0000_0000 + off

/-- The size of the page that a held entry maps, from its translation. -/
def State.pageOff (s : State) (p ctx : Nat) (va : DWord) : Nat :=
  match (s.die (placeDie p)).lookup p ctx va with
  | some t => va.toNat - t.va
  | none => 0

/-- In Twilight mode only second-tier stack 0 and host memory can be reached (R435). -/
def State.reachable (s : State) (pa : Nat) : Bool :=
  s.mode != .twilight || isHost pa || (decide (0x20_0000_0000 ≤ pa) && decide (pa < 0x40_0000_0000))

/-- Translates an access of `n` bytes made at a place, with the checks of R72 in their order. -/
def State.xlate (s : State) (p ctx : Nat) (va : DWord) (n : Nat) (k : Access) : State × XRes :=
  if !canonical va then (s, .fault .prot)
  else if va.toNat % n != 0 then (s, .fault .misalign)
  else match s.entryFor p ctx va with
    | (s, .inl c) => (s, .fault c)
    | (s, .inr e) =>
      let pa := replicaPa e (s.pageOff p ctx va) (replicaDie (entryRepl e) (placeDie p))
      let denied := match k with
        | .load => false
        | .store => entryRo e
        | .atomic => entryRo e || entryRepl e != 0
        | .fetch => entryNx e
      if !paOk pa || denied || !s.reachable pa then (s, .fault .prot) else (s, .ok e pa)

/-- Every replica of a translated address (R83); the address itself where the page is not replicated. -/
def replicas (e : DWord) (pa : Nat) : List Nat :=
  if entryRepl e = 0 then [pa]
  else ((List.range 4).filter (entryRepl e).testBit).map fun d => pa % 0x8_0000_0000 + d * 0x8_0000_0000

/-! ### Ranges -/

/-- A range of virtual addresses as physical runs, up to the first fault: the runs (virtual address,
physical address, length, entry), and the fault with its address. Pages are at least 64 KiB. -/
def State.xlateRange (s : State) (p ctx : Nat) (k : Access) :
    Nat → DWord → Nat → State × List (DWord × Nat × Nat × DWord) × Option (Cause × DWord)
  | 0, _, _ => (s, [], none)
  | fuel + 1, va, n =>
    if n = 0 then (s, [], none)
    else
      let len := min n (0x10000 - va.toNat % 0x10000)
      match s.xlate p ctx va 1 k with
      | (s, .fault c) => (s, [], some (c, va))
      | (s, .ok e pa) =>
        match State.xlateRange s p ctx k fuel (va + BitVec.ofNat 64 len) (n - len) with
        | (s, rs, f) => (s, (va, pa, len, e) :: rs, f)

/-- The pages that a range of `n` bytes may touch, as fuel. -/
def rangeFuel (n : Nat) : Nat := n / 0x10000 + 2

/-- The first poisoned byte of runs, as an address (R422). -/
def State.firstPoison (s : State) (rs : List (DWord × Nat × Nat × DWord)) : Option DWord :=
  rs.findSome? fun (va, pa, n, _) =>
    ((List.range n).find? fun i => s.poisoned (pa + i) 1).map fun i => va + BitVec.ofNat 64 i

/-- Reads a range by a unit of the device: its bytes, or the first fault with its address; poisoned data
counts as a fault. -/
def State.readVa (s : State) (p ctx : Nat) (va : DWord) (n : Nat) : State × Sum (Cause × DWord) (List Byte) :=
  match s.xlateRange p ctx .load (rangeFuel n) va n with
  | (s, _, some f) => (s, .inl f)
  | (s, rs, none) =>
    let s := rs.foldl (fun s (_, pa, n, _) => s.touchHost (placeDie p) pa n) s
    if s.poison.isEmpty then (s, .inr (rs.flatMap fun (_, pa, n, _) => s.readPa pa n))
    else match s.firstPoison rs with
      | some a => (s, .inl (.poison, a))
      | none => (s, .inr (rs.flatMap fun (_, pa, n, _) => s.readPa pa n))

/-- Writes bytes to physical runs. -/
def State.writeRuns (s : State) : List (DWord × Nat × Nat × DWord) → List Byte → State
  | [], _ => s
  | (_, pa, n, _) :: rs, bs => State.writeRuns (s.writePa pa (bs.take n)) rs (bs.drop n)

/-- Writes a range by a unit of the device, where all of it may be written; else the fault. -/
def State.writeVa (s : State) (p ctx : Nat) (va : DWord) (bs : List Byte) : State × Option (Cause × DWord) :=
  match s.xlateRange p ctx .store (rangeFuel bs.length) va bs.length with
  | (s, _, some f) => (s, some f)
  | (s, rs, none) => (s.writeRuns rs bs, none)

end Sys2Proof.Machine
end

