-- ==== Sys2Proof/Machine/Cache.lean ====
section
/-! DEFINITION. L1 lines, signatures, releases and acquires (R66, R78, R214, R387 to R390), and how loads,
stores and atomics on their way are performed (R213, R219, R220, R357 to R365). -/

namespace Sys2Proof.Machine

/-! ### Lines -/

/-- Whether two entries of an L1 stand for one line: L1 tags its lines by context (R85). -/
def L1Line.same (x y : L1Line) : Bool := x.ctx == y.ctx && x.line == y.line

/-- The line of a context that a core holds. -/
def Core.line? (c : Core) (ctx n : Nat) : Option L1Line := c.l1.find? fun x => x.ctx == ctx && x.line == n

/-- Puts a line in the place of the one that it stands for, or adds it. -/
def Core.putLine (c : Core) (x : L1Line) : Core :=
  if c.l1.any fun y => y.same x then
    { c with l1 := c.l1.map fun y => if y.same x then x else y }
  else { c with l1 := c.l1 ++ [x] }

def Core.dropLine (c : Core) (x : L1Line) : Core := { c with l1 := c.l1.filter fun y => !y.same x }

/-- A block that holds its place on its core (R53, R60). -/
def Block.resident (b : Block) : Bool :=
  match b.phase with
  | .prologue _ => true
  | .running => true
  | .saved => false
  | .gone => false

/-- The blocks resident on a core, with their numbers. -/
def State.residents (s : State) (n : Nat) : List (Nat × Block) :=
  (s.blocks.zipIdx.filter fun (b, _) => b.resident && b.coreNo == n).map fun (b, i) => (i, b)

/-- The granules of a core's store that are left for L1 (R64). -/
def State.l1Grans (s : State) (n : Nat) : Nat :=
  64 - ((s.residents n).map fun (_, b) => b.regGran + b.spGran).sum

/-- The L1 set of a line (R66). -/
def State.l1SetOf (s : State) (n line : Nat) : Nat :=
  Config.l1Set (s.l1Grans n) line % (16 * s.l1Grans n)

/-- The die of a core. -/
def coreDie (n : Nat) : Nat := n / (Config.cores * Config.clusters)

/-- Writes the dirty bytes of a line that a mask names back to their home and marks them clean. -/
def State.cleanPart (s : State) (n : Nat) (x : L1Line) (m : BitVec 128) : State :=
  let out := x.dirty &&& m
  let s := (List.range 128).foldl (fun (s : State) i =>
    if out.getLsbD i then s.writePa (x.line * 128 + i) [x.bytes.getD i 0] else s) s
  let s := s.touchHost (coreDie n) (x.line * 128) 128
  s.updCore n fun c => c.putLine { x with dirty := x.dirty &&& ~~~m }

/-- Writes the dirty bytes of a line back to its home and marks it clean. -/
def State.cleanLine (s : State) (n : Nat) (x : L1Line) : State := s.cleanPart n x (BitVec.allOnes 128)

/-- Writes back the lines of a core that meet a condition (R390). -/
def State.cleanLines (s : State) (n : Nat) (p : L1Line → Bool) : State :=
  ((s.core n).l1.filter fun x => p x && x.dirty != 0).foldl (fun s x => s.cleanLine n x) s

/-- The bytes of the two sectors of a line that meet a condition. -/
def sectorMask (p : Nat → Bool) (line : Nat) : BitVec 128 :=
  (if p (2 * line) then (BitVec.allOnes 64).setWidth 128 else 0)
    ||| if p (2 * line + 1) then (BitVec.allOnes 64).setWidth 128 <<< 64 else 0

/-- Writes back the dirty sectors of a core that meet a condition (R389). -/
def State.cleanSectors (s : State) (n : Nat) (p : Nat → Bool) : State :=
  ((s.core n).l1.filter fun x => x.dirty &&& sectorMask p x.line != 0).foldl
    (fun s x => s.cleanPart n x (sectorMask p x.line)) s

/-- Removes a line from an L1 after its dirty bytes are written back. -/
def State.evict (s : State) (n : Nat) (x : L1Line) : State :=
  (s.cleanLines n fun y => y.same x).updCore n fun c => c.dropLine x

/-- The granules of a core's L1 have changed from an old number: lines that no pin holds and that stood in granules that
L1 no longer has go home, and so do those that the sets of the rest have no way for; pinned lines keep their place
(R66, R68, R78; assumption 68). -/
def State.resizeL1 (s : State) (n old : Nat) : State :=
  let new := s.l1Grans n
  let inMoved (x : L1Line) : Bool := x.pins.isEmpty && decide (16 * new ≤ Config.l1Set old x.line % (16 * old))
  let s := ((s.core n).l1.filter inMoved).foldl (fun s x => s.evict n x) s
  let crowded (s : State) (x : L1Line) : Bool :=
    decide (8 < ((s.core n).l1.filter fun y => s.l1SetOf n y.line == s.l1SetOf n x.line).length)
  if old = new then s
  else ((s.core n).l1.filter fun x => x.pins.isEmpty).foldl (fun s x => if crowded s x then s.evict n x else s) s

/-- The bytes of a line at its home. -/
def State.homeLine (s : State) (line : Nat) : List Byte := s.readPa (line * 128) 128

/-! ### Instruction caches (R88, R89) -/

/-- The line of a context's code that a core holds at a physical address. -/
def Core.codeLine? (c : Core) (ctx pa : Nat) : Option CodeLine := c.code.find? fun x => x.ctx == ctx && x.line == lineNo pa

/-- A fetch brings the line of its word into the instruction cache that does not hold it; in a full one it replaces
another, the spec not stating which (R2, R89). -/
def State.keepCode (s : State) (n ctx pa : Nat) : State :=
  match (s.core n).codeLine? ctx pa with
  | some _ => s
  | none =>
    let add (s : State) : State :=
      s.updCore n fun c => { c with code := ⟨ctx, lineNo pa, s.homeLine (lineNo pa)⟩ :: c.code }
    if (s.core n).code.length < Config.codeLines then add s
    else
      let (i, s) := s.pick (s.core n).code.length
      add (s.updCore n fun c => { c with code := c.code.eraseIdx i })

/-- The instruction caches that serve a context are invalidated (R89). -/
def State.dropCode (s : State) (ctx : Nat) : State :=
  { s with cores := s.cores.map fun c => { c with code := c.code.filter fun x => x.ctx != ctx } }

/-- The bytes at the home with the dirty bytes of a copy over them. -/
def L1Line.refreshed (x : L1Line) (home : List Byte) : List Byte :=
  (List.range 128).map fun i => if x.dirty.getLsbD i then x.bytes.getD i 0 else home.getD i 0

/-- Makes room in the set of a line: a line that no pin holds is replaced, one brought in under the hint .stream
first; `false` where every way is pinned (R66, R77, R214). -/
def State.makeRoom (s : State) (n line : Nat) : State × Bool :=
  let mine := (s.core n).l1.filter fun x => s.l1SetOf n x.line == s.l1SetOf n line
  if mine.length < 8 then (s, true)
  else
    let free := mine.filter fun x => x.pins.isEmpty
    let out := if free.any (·.stream) then free.filter (·.stream) else free
    if out.isEmpty then (s, false)
    else
      let (i, s) := s.pick out.length
      (s.evict n (out.getD i default), true)

/-- Brings a line into an L1 from its home, or brings a held copy up to date and takes its marks away (R214,
R215). -/
def State.fetchLine (s : State) (n ctx line : Nat) (ro : Bool) (stream : Bool := false) : State :=
  let s := s.touchHost (coreDie n) (line * 128) 128
  match (s.core n).line? ctx line with
  | some x =>
    s.updCore n fun c => c.putLine
      { x with bytes := x.refreshed (s.homeLine line), stale := false, void := false, since := s.cycle,
               ro := ro || (x.ro && !x.stale) }
  | none =>
    let (s, ok) := s.makeRoom n line
    if ok then
      s.updCore n fun c => c.putLine
        { line := line, ctx := ctx, bytes := s.homeLine line, dirty := 0, ro := ro, stale := false, pins := [],
          stream := stream, since := s.cycle }
    else s

/-- Whether a held line may serve a load of a hint by a launch taken in a cycle: a stale one serves only loads of the
read-only promise, and one from before the taking, or invalidated in its place, none (R214, R215, R224, R278, R390). -/
def L1Line.serves (x : L1Line) (hint taken : Nat) : Bool :=
  !x.void && decide (taken ≤ x.since) && (hint == 1 || !x.stale)

/-- The bytes that a core's load reads: from its L1 where a line held there serves it, else from the home. -/
def State.coreRead (s : State) (n ctx pa size hint taken : Nat) : List Byte :=
  match (s.core n).line? ctx (lineNo pa) with
  | some x => ((if x.serves hint taken then x.bytes else x.refreshed (s.homeLine x.line)).drop (pa % 128)).take size
  | none => s.readPa pa size

/-- Whether a core's load hits in its L1. -/
def State.l1Hit (s : State) (n ctx pa hint taken : Nat) : Bool :=
  ((s.core n).line? ctx (lineNo pa)).any fun x => x.serves hint taken

/-- What a core's load does to its L1: a hit under the read-only promise marks the line, a miss brings the line in or
up to date, unless the hint keeps it out of L1 (R214). -/
def State.loadLine (s : State) (n ctx pa hint taken : Nat) : State :=
  match (s.core n).line? ctx (lineNo pa) with
  | some x =>
    if !x.serves hint taken then s.fetchLine n ctx (lineNo pa) (hint == 1)
    else if hint = 1 && !x.ro then s.updCore n fun c => c.putLine { x with ro := true }
    else s
  | none => if hint = 3 then s.touchHost (coreDie n) pa 1 else s.fetchLine n ctx (lineNo pa) (hint == 1) (hint == 2)

/-! ### Write sets and signatures -/

/-- Adds the sectors of some ranges to a warp's write set (R388). -/
def Warp.wrote (w : Warp) (rs : List (Nat × Nat)) : Warp :=
  { w with wset := (rs.flatMap fun (pa, n) => sectorsOf pa n).foldl addSector w.wset }

/-- The sectors of a load are among those that a FENCE makes acquires (R383). -/
def Warp.read (w : Warp) (pa n : Nat) : Warp := { w with reads := (sectorsOf pa n).foldl addSector w.reads }

/-- A read with an acquire: what it read happens before what follows it (R383, R385). -/
def Warp.readAcquire (w : Warp) (pa n : Nat) : Warp := { w with seen := (sectorsOf pa n).foldl addSector w.seen }

/-- A FENCE makes acquires of the reads before it (R383). -/
def Warp.fenceReads (w : Warp) : Warp := { w with seen := w.reads.foldl addSector w.seen, reads := [] }

/-- A core applies its pending signature and clears it (R390, R78). -/
def State.applyPending (s : State) (n : Nat) : State :=
  let g := (s.core n).pending
  if g == Sig.none then s
  else
    let hit (x : L1Line) : Bool := g.hit (2 * x.line) || g.hit (2 * x.line + 1)
    let s := s.cleanLines n hit
    let home := s.homeLine
    s.updCore n fun c => { c with
      pending := Sig.none, known := c.known.union g,
      l1 := c.l1.filterMap fun x =>
        if !hit x then some x
        else if !x.pins.isEmpty then
          some { x with bytes := home x.line, stale := false, void := false, since := s.cycle }
        else if x.ro then some { x with stale := true }
        else none }

/-! ### Fills -/

/-- The registers that data of a size becomes, extended to 32 bits (R213). -/
def loadWords (bs : List Byte) (sx : Bool) : List Word :=
  if bs.length < 4 then
    let w := 8 * bs.length
    [if sx then BitVec.ofInt 32 (signed w (leNat bs)) else BitVec.ofNat 32 (leNat bs)]
  else (List.range (bs.length / 4)).map fun i => BitVec.ofNat 32 (fieldAt bs (4 * i) 4)

/-- The warp of a member position of a set (R125). -/
def SetB.warpAt (s : SetB) (pos : Nat) : Nat := (lanesOf s.members).getD pos 0

/-- Writes values to a destination; poisoned data leaves the mark on its registers (R269, R422). Values for
a lane that has exited are discarded (R99, R149). -/
def State.writeDest (s : State) (b w : Nat) (d : Dest) (vals : List Word) (pois : Bool) : State :=
  match d with
  | .v lane first =>
    s.updLane b w lane fun l =>
      if l.live then
        let l := l.setRegs first vals
        let marks := (List.range vals.length).foldl (fun (m : DWord) i => m ||| (1#64 <<< (first + i))) l.poison
        if pois then { l with poison := marks } else l
      else l
  | .w first => s.updWarp b w fun W => W.setRegs first vals
  | .g i pos lane first =>
    let mark (st : SetB) (k : Nat) : SetB :=
      st.setElem (first + k) pos lane { st.elem (first + k) pos lane with poison := true }
    let put (st : SetB) : SetB :=
      let st := st.setElems first pos lane vals
      if pois then (List.range vals.length).foldl mark st else st
    if ((s.blk b).sets.getD i default).warpAt pos |> fun w => (s.lane b w lane).live then
      s.updBlk b fun B => { B with sets := B.sets.modify i put }
    else s

/-- Marks the registers of a destination empty (R97); a w destination holds the warp's issue under the name
of the operation. -/
def State.emptyDest (s : State) (b w : Nat) (d : Dest) (k id : Nat) : State :=
  match d with
  | .v lane first => s.updLane b w lane fun l => l.markEmpty first k
  | .w _ => s.updWarp b w fun W => { W with hold := some id }
  | .g i pos lane first =>
    let mark (st : SetB) (j : Nat) : SetB :=
      st.setElem (first + j) pos lane { st.elem (first + j) pos lane with full := false }
    s.updBlk b fun B => { B with sets := B.sets.modify i fun st => (List.range k).foldl mark st }

/-- A value arrives: it is written, the warp's issue is released if it was held for it, and lanes of the block
that wait for a fill look again (R97, R98). -/
def State.fill (s : State) (b w id : Nat) (d : Dest) (vals : List Word) (pois : Bool) : State :=
  let s := s.writeDest b w d vals pois
  let s := s.updWarp b w fun W => if W.hold == some id then { W with hold := none } else W
  s.updBlk b Block.wake

/-- An engine's status arrives in registers that held the warp's issue (R97). -/
def State.status (s : State) (b w id d : Nat) (vals : List Word) : State := s.fill b w id (.w d) vals false

/-! ### Stores -/

/-- Writes bytes into a block's scratchpad; a poisoned word is mended when its last byte is written (R422). -/
def Block.writeSp (b : Block) (off : Nat) (bs : List Byte) : Block :=
  { b with
    sp := Memory.writeBytes b.sp off bs,
    spPoison := b.spPoison.filterMap fun (wd, m) =>
      let m' := (List.range 4).foldl (fun (m : BitVec 4) i =>
        if off ≤ 4 * wd + i ∧ 4 * wd + i < off + bs.length then m ||| (1#4 <<< i) else m) m
      if m' = BitVec.allOnes 4 then none else some (wd, m') }

def Block.readSp (b : Block) (off n : Nat) : List Byte := Memory.readBytes b.sp off n

/-- The size of a block's scratchpad in bytes (R65). -/
def Block.spSize (b : Block) : Nat := b.spGran * 16384

/-- Whether a byte of a range of scratchpad lies in a poisoned word (R422). -/
def Block.spPoisoned (b : Block) (off n : Nat) : Bool :=
  b.spPoison.any fun (wd, _) => decide (off < 4 * wd + 4) && decide (4 * wd < off + n)

/-- The bytes of a line that a range of some bytes from an offset on covers. -/
def byteMask (off n : Nat) : BitVec 128 :=
  (List.range n).foldl (fun (m : BitVec 128) i => m ||| (1#128 <<< (off + i))) 0

/-- Writes bytes into a core's copy of a line, which is brought in if there is room; else to the home. -/
def State.l1Write (s : State) (n ctx pa : Nat) (bs : List Byte) : State :=
  let line := lineNo pa
  let s := if ((s.core n).line? ctx line).isSome then s else s.fetchLine n ctx line false
  match (s.core n).line? ctx line with
  | none => s.writePa pa bs
  | some x =>
    let off := pa % 128
    let s := s.updCore n fun c => c.putLine
      { x with bytes := (putBytes x.bytes off bs).take 128, dirty := x.dirty ||| byteMask off bs.length }
    { s with poison := clearPoison s.poison pa bs.length }

/-- Brings a core's copies of the line of a range up to date with bytes that have been written at the home; they are
no longer ones to write back (R84, R386). -/
def State.refreshCopies (s : State) (n pa : Nat) (bs : List Byte) : State :=
  let put (x : L1Line) : L1Line :=
    if x.line == lineNo pa then
      { x with bytes := (putBytes x.bytes (pa % 128) bs).take 128, dirty := x.dirty &&& ~~~byteMask (pa % 128) bs.length }
    else x
  s.updCore n fun c => { c with l1 := c.l1.map put }

/-- A core's copies of a line are replaced by the line as it stands at the home, with their pins (R390). -/
def State.replaceCopies (s : State) (n line : Nat) : State :=
  let home := s.homeLine line
  let put (x : L1Line) : L1Line :=
    if x.line == line then { x with bytes := home, stale := false, void := false, since := s.cycle } else x
  s.updCore n fun c => { c with l1 := c.l1.map put }

/-- DRAINED of a warp: its issues before the oldest one with a write not yet performed at core scope (R365). -/
def State.countDrained (s : State) (b w : Nat) : State :=
  let W := s.warp b w
  let ages := (s.stores.filter fun x => x.blk == b && x.warp == w && !x.atCore).map (·.issue)
    ++ (s.atoms.filter fun x => x.blk == b && x.warp == w).map (·.issue)
  let oldest := ages.foldl (fun m i => max m (W.issued - i + 1).toNat) 0
  s.updWarp b w fun W => { W with drained := W.issued - BitVec.ofNat 32 oldest }

/-! ### Releases and acquires (R380, R385, R388 to R390) -/

/-- A signature without the bits of another. -/
def Sig.minus (a b : Sig) : Sig := if b.sat then Sig.none else ⟨a.bits &&& ~~~b.bits, a.sat⟩

/-- The sectors that a warp's release covers: its write set, and the writes of its core that happen before (R385,
R389). -/
def Warp.covers (w : Warp) : List Nat := w.seen.foldl addSector w.wset

/-- The signature that a warp's release delivers (R388, R389). -/
def Warp.sig (w : Warp) : Sig := ((Sig.ofSectors w.wset).union (Sig.ofSectors w.seen)).union w.seenSig

/-- Sectors are among those that the acquires of a core make known to its warps (R385; assumption 19). -/
def State.share (s : State) (n : Nat) (secs : List Nat) : State :=
  s.updCore n fun c => { c with shared := secs.foldl addSector c.shared }

/-- The release of a warp at a scope, its accesses having been performed (R389). At core scope it makes what it covers
known to the acquires of the core. At a wider one the dirty sectors that it covers go home, the signature is delivered,
and the write set is cleared; what one of less than package scope does not reach is kept for a later one. -/
def State.release (s : State) (b w ms : Nat) : State :=
  let B := s.blk b
  let n := B.coreNo
  let W := s.warp b w
  if ms = 0 then (s.share n W.covers).updCore n fun c => { c with known := c.known.union W.seenSig }
  else
    let g := W.sig
    let mine (sec : Nat) : Bool := W.covers.contains sec
    let s := s.cleanSectors n mine
    let raised (a : Appended) : Appended := if a.blk = b && a.warp = w then { a with ms := max a.ms ms } else a
    let s := { s with appended := s.appended.map raised }
    let home (x : StoreOp) : Bool := x.atCore && (s.blk x.blk).coreNo == n && x.pas.all fun pa => mine (pa / 64)
    let s := { s with stores := s.stores.filter fun x => !home x }
    let s := s.deliver g ms B.die B.cluster (some n)
    let s := s.updCore n fun c =>
      if 3 ≤ ms then { c with known := c.known.minus g, shared := c.shared.filter fun sec => !mine sec }
      else { c with known := c.known.union g }
    s.updWarp b w fun W => { W with wset := [], seen := [], seenSig := if 3 ≤ ms then Sig.none else g }

/-- The appends whose TOKENS a warp has learnt of happen before what follows (R298, R385; assumption 19). -/
def State.learnAppends (s : State) (b w : Nat) : State :=
  let W := s.warp b w
  let learnt (a : Appended) : Bool := a.elems.getLast?.any fun e => W.seen.contains (e.1 / 64) || W.seenSig.hit (e.1 / 64)
  let note (a : Appended) : Appended := if learnt a then { a with known := (b, w) :: a.known } else a
  { s with appended := s.appended.map note }

/-- The acquire of a warp (R390): the core applies its pending signature, but at core scope, and the warp's later
releases cover what releases on the core have covered and what the core has learnt of (R385; assumption 19). -/
def State.acquire (s : State) (b w ms : Nat) : State :=
  let n := (s.blk b).coreNo
  let s := if ms = 0 then s else s.applyPending n
  let shared := (s.core n).shared
  let known := (s.core n).known
  (s.updWarp b w fun W => { W with
    seen := (shared.filter fun x => !W.wset.contains x).foldl addSector W.seen,
    seenSig := W.seenSig.union known }).learnAppends b w

/-- The read of an acquire at cluster scope or wider: at the home, the core's own dirty bytes of the line having
been written back; copies that the L1 holds are replaced by the line as read (R390). -/
def State.acquireRead (s : State) (n pa size : Nat) : State × List Byte :=
  let s := (s.cleanLines n fun x => x.line == lineNo pa).touchHost (coreDie n) pa size
  (s.replaceCopies n (lineNo pa), s.readPa pa size)

/-- An access with an acquire has its value: the acquire takes effect, and the lane that it held goes on, once its delay
has run (R107, R220, R363). -/
def State.acquired (s : State) (b w lane : Nat) (acq : Option Nat) : State :=
  match acq with
  | none => s
  | some ms =>
    (s.acquire b w ms).updLane b w lane fun l =>
      match l.status with
      | .held til => { l with status := if til = 0 then .ready else .stl til }
      | _ => l

/-- An access with a release is performed after it (R220, R363, R389). -/
def State.releaseFor (s : State) (b w : Nat) (rel : Option Rel) : State :=
  match rel with
  | none => s
  | some r => s.release b w r.ms

/-- Whether an arrival at a sync word of a block's scratchpad is in flight, for an operation of a copy queue, a
decompression job or a matrix engine (R234, R236). -/
def State.syncInFlight (s : State) (b off : Nat) : Bool :=
  s.copies.any (fun x => x.blk == b && x.sync == some off)
    || s.jobs.any (fun j => j.blk == b && !j.done && fieldAt j.card 28 4 == off)
    || s.mrt.any fun e => e.blk == b && (match e.kind with
        | .drain _ d => fieldAt d 12 4 == off
        | .req d => fieldAt d 24 4 == off
        | _ => false)

/-- Whether an access of a block to scratchpad is one event: one of at most 64 bits, or one to a whole sync word with an
arrival in flight (R236, R381). -/
def State.oneEvent (s : State) (b off size : Nat) : Bool := size ≤ 8 || s.syncInFlight b off

/-- A scratchpad store is performed, one of 128 bits in two halves in an order that is free (R236, R381). -/
def State.storeScratch (s : State) (op : StoreOp) : State :=
  let at_ := op.pas.headD 0
  if s.oneEvent op.blk at_ op.bytes.length then
    { s.updBlk op.blk (fun b => b.writeSp at_ op.bytes) with stores := s.stores.filter fun x => x.id != op.id }
  else
    let (hi, s) := s.race
    let half (x : StoreOp) (k : Bool) : StoreOp :=
      if k then { x with pas := [at_ + 8], bytes := x.bytes.drop 8 } else { x with bytes := x.bytes.take 8 }
    let now := half op hi
    { s.updBlk op.blk (fun b => b.writeSp (now.pas.headD 0) now.bytes) with
      stores := s.stores.map fun x => if x.id == op.id then { half x (!hi) with rel := none } else x }

/-- A write is performed at its core, its release before it: into scratchpad, into every replica for a multicast store,
else into the core's L1, from where it is visible to the core (R219, R361, R386). The other half of a 128-bit store
takes no second release. -/
def State.storeAtCore (s : State) (op : StoreOp) : State :=
  let B := s.blk op.blk
  let n := B.coreNo
  let size := op.bytes.length
  let s := s.releaseFor op.blk op.warp op.rel
  let twin (x : StoreOp) : Bool := x.blk == op.blk && x.warp == op.warp && x.lane == op.lane && x.issue == op.issue
  let s := if op.rel.isNone then s
    else { s with stores := s.stores.map fun x => if twin x then { x with rel := none } else x }
  let s :=
    if op.scratch then s.storeScratch op
    else if op.multicast then
      let s := op.pas.foldl (fun s pa => (s.writePa pa op.bytes).refreshCopies n pa op.bytes) s
      let s := s.updWarp op.blk op.warp fun W => W.wrote (op.pas.map fun pa => (pa, size))
      { s with stores := s.stores.filter fun x => x.id != op.id }
    else
      let pa := op.pas.headD 0
      let s := s.l1Write n B.ctx pa op.bytes
      let s := s.updWarp op.blk op.warp fun W => W.wrote [(pa, size)]
      { s with stores := s.stores.map fun x => if x.id == op.id then { x with atCore := true } else x }
  s.countDrained op.blk op.warp

/-- A write that the L1 has is performed at its home (R387). -/
def State.storeAtHome (s : State) (op : StoreOp) : State :=
  let n := (s.blk op.blk).coreNo
  let s := s.cleanLines n fun x => x.line == lineNo (op.pas.headD 0)
  { s with stores := s.stores.filter fun x => x.id != op.id }

/-- STORE_PERFORMED: the next place at which a write is performed. -/
def State.performStore (s : State) (op : StoreOp) : State :=
  if op.atCore then s.storeAtHome op else s.storeAtCore op

/-! ### Loads -/

/-- A plain read of global memory by a warp: from its core's L1 or from the home, with what it does to the L1 (R213,
R214). -/
def State.plainRead (s : State) (b w pa size hint : Nat) : State × List Byte :=
  let B := s.blk b
  let t := (s.launch B.launch).taken
  ((s.loadLine B.coreNo B.ctx pa hint t).updWarp b w fun W => W.read pa size, s.coreRead B.coreNo B.ctx pa size hint t)

/-- The read of an acquiring load: at core scope like another (R390). -/
def State.orderedRead (s : State) (b w pa size hint ms : Nat) : State × List Byte :=
  let s' := s.updWarp b w fun W => W.readAcquire pa size
  if ms = 0 then s'.plainRead b w pa size hint else s'.acquireRead (s.blk b).coreNo pa size

/-- The read of a load on its way. -/
def State.loadRead (s : State) (op : LoadOp) (pa size : Nat) : State × List Byte :=
  if op.scratch then (s, (s.blk op.blk).readSp pa size)
  else match op.acq with
    | none => s.plainRead op.blk op.warp pa size op.hint
    | some ms => s.orderedRead op.blk op.warp pa size op.hint ms

/-- A load on its way has its bytes: they fill its registers, and its acquire takes effect (R97, R213, R220). -/
def State.finishLoad (s : State) (op : LoadOp) (bs : List Byte) : State :=
  let pois := if op.scratch then (s.blk op.blk).spPoisoned op.pa op.size else s.poisoned op.pa op.size
  ({ s with loads := s.loads.filter fun x => x.id != op.id }.fill op.blk op.warp op.id op.dest (loadWords bs op.sx)
    pois).acquired op.blk op.warp op.lane op.acq

/-- LOAD_FILL: a load is performed, from scratchpad, or from the L1 or the home; one of 128 bits that is not one event
reads its two halves one after the other in an order that is free, and fills its registers with the second (R97, R213,
R236, R381). -/
def State.performLoad (s : State) (op : LoadOp) : State :=
  match op.half with
  | some (hi, half) =>
    let (s, bs) := s.loadRead op (if hi then op.pa else op.pa + 8) 8
    s.finishLoad op (if hi then bs ++ half else half ++ bs)
  | none =>
    if op.size ≤ 8 || (op.scratch && s.oneEvent op.blk op.pa op.size) then
      let (s, bs) := s.loadRead op op.pa op.size
      s.finishLoad op bs
    else
      let (hi, s) := s.race
      let (s, bs) := s.loadRead op (if hi then op.pa + 8 else op.pa) 8
      { s with loads := s.loads.map fun x => if x.id == op.id then { x with half := some (hi, bs) } else x }

/-! ### Atomics -/

/-- What an operation writes over an old value, with the events that it counts (R359, R362). -/
def AtomOpn.apply (o : AtomOpn) (old b b2 : Word) : Word × List (Nat × Events) :=
  match o with
  | .add => (old + b, [])
  | .exch => (b, [])
  | .mins => (if old.sle b then old else b, [])
  | .maxs => (if old.sle b then b else old, [])
  | .and => (old &&& b, [])
  | .or => (old ||| b, [])
  | .xor => (old ^^^ b, [])
  | .cas => (if old == b then b2 else old, [])
  | .fadd => exact32 Val.add 1 old b
  | .fmin => minMax32 false true old b
  | .fmax => minMax32 true true old b
  | .incw => (if b.toNat ≤ old.toNat then 0 else old + 1, [])
  | .maxn => (if old.toNat ≤ b.toNat then b else old, [])
  | .hadd2 => halves fun i => rounded (Val.add false (half 2 i old) (half 2 i b)) 2 1 [half 2 i old, half 2 i b]
  | .badd2 => halves fun i => rounded (Val.add false (half 3 i old) (half 3 i b)) 3 1 [half 3 i old, half 3 i b]

/-- A word of memory as a register. -/
def wordOf (bs : List Byte) : Word := BitVec.ofNat 32 (leNat bs)

/-- The old value of an atomic goes on its way to its register, with the poison mark where the location is poisoned
(R359, R422). -/
def State.sendReply (s : State) (op : AtomOp) (old : Word) (pois : Bool) : State :=
  let s := match op.dest with
    | none => s
    | some d =>
      let r : ReplyOp :=
        { id := op.id, blk := op.blk, warp := op.warp, lane := op.lane, dest := d, vals := [old], pois := pois, acq := op.acq }
      { s with replies := s.replies ++ [r] }
  s.countDrained op.blk op.warp

/-- The scratchpad unit performs an atomic or a reduction as one step (R358, R361). -/
def State.performScratchAtom (s : State) (op : AtomOp) : State :=
  let B := s.blk op.blk
  let old := wordOf (B.readSp op.pa 4)
  let (new, ev) := op.opn.apply old op.b op.b2
  let s := s.releaseFor op.blk op.warp op.rel
  let s := { s with atoms := s.atoms.filter fun x => x.id != op.id }
  ((s.updBlk op.blk fun B => B.writeSp op.pa (leBytes 4 new.toNat)).countAll B.launch ev).sendReply op old
    (B.spPoisoned op.pa 4)

/-- The home performs an atomic or a reduction as one step; one with an acquire replaces the copies of its line that
its core holds (R357 to R362, R390). -/
def State.performHomeAtom (s : State) (op : AtomOp) : State :=
  let B := s.blk op.blk
  let n := B.coreNo
  let s := (s.releaseFor op.blk op.warp op.rel).cleanLines n fun x => x.line == lineNo op.pa
  let early := ((s.atoms.find? fun x => x.id == op.id).bind (·.early))
  let s := { s with atoms := s.atoms.filter fun x => x.id != op.id }.touchHost 0 op.pa 4
  let old := early.getD (wordOf (s.readPa op.pa 4))
  let pois := s.poisoned op.pa 4
  let (new, ev) := op.opn.apply old op.b op.b2
  let s := ((s.writePa op.pa (leBytes 4 new.toNat)).refreshCopies n op.pa (leBytes 4 new.toNat)).countAll B.launch ev
  let s := if (op.acq.getD 0) = 0 then s else s.replaceCopies n (lineNo op.pa)
  (s.updWarp op.blk op.warp fun W => W.wrote [(op.pa, 4)]).sendReply op old pois

/-- ASW_REQUEST: an atomic or a reduction is performed, at its home or by the scratchpad unit. -/
def State.performAtom (s : State) (op : AtomOp) : State :=
  if op.scratch then s.performScratchAtom op else s.performHomeAtom op

/-! ### Order (R220, R222, R363, R382, R438) -/

/-- What an access on its way is, with a FENCE whose release is still to come and a DEQ that waits for its entry. -/
inductive PendKind where
  | load
  | store
  | atomic
  | fence
  | deq
  deriving DecidableEq, Repr

/-- An access that has been issued and not performed, or a FENCE or DEQ that orders accesses: the lanes that it is of,
its bytes, whether it returns a value, its release, and the cycle of its issue. -/
structure Pend where
  id : Nat
  blk : Nat
  warp : Nat
  lanes : Word
  kind : PendKind
  scratch : Bool := false
  pas : List Nat := []
  len : Nat := 0
  reads : Bool := false
  rel : Option Rel := none
  cycle : Nat := 0

/-- The lanes of an access: one of warp scope belongs to each. -/
def accessLanes (lane : Nat) : Word := if lane = 32 then BitVec.allOnes 32 else 1#32 <<< lane

/-- Whether two ranges of bytes share one. -/
def overlap (a n b m : Nat) : Bool := decide (a < b + m) && decide (b < a + n)

/-- Whether an access touches a byte of a range. -/
def Pend.touches (x : Pend) (scratch : Bool) (pa n : Nat) : Bool :=
  x.scratch == scratch && x.pas.any fun a => overlap a x.len pa n

/-- Whether an access belongs to some lanes of a warp. -/
def Pend.ofLanes (x : Pend) (b w : Nat) (m : Word) : Bool := x.blk == b && x.warp == w && x.lanes &&& m != 0#32

/-- Whether it reads or writes memory. -/
def Pend.isAccess (x : Pend) : Bool := x.kind == .load || x.kind == .store || x.kind == .atomic

def LoadOp.pend (x : LoadOp) : Pend :=
  { id := x.id, blk := x.blk, warp := x.warp, lanes := accessLanes x.lane, kind := .load, scratch := x.scratch,
    pas := [x.pa], len := x.size, reads := true }

def StoreOp.pend (x : StoreOp) : Pend :=
  { id := x.id, blk := x.blk, warp := x.warp, lanes := accessLanes x.lane, kind := .store, scratch := x.scratch,
    pas := x.pas, len := x.bytes.length, rel := x.rel, cycle := x.cycle }

def AtomOp.pend (x : AtomOp) : Pend :=
  { id := x.id, blk := x.blk, warp := x.warp, lanes := accessLanes x.lane, kind := .atomic, scratch := x.scratch,
    pas := [x.pa], len := 4, reads := x.dest.isSome, rel := x.rel, cycle := x.cycle }

def FenceOp.pend (x : FenceOp) : Pend := { id := x.id, blk := x.blk, warp := x.warp, lanes := x.lanes, kind := .fence }

def DeqWait.pend (x : DeqWait) : Pend :=
  { id := x.id, blk := x.blk, warp := x.warp, lanes := accessLanes x.lane, kind := .deq }

/-- Puts an access among others in the order of their names, which is that of their issue. -/
def insertPend (l : List Pend) (x : Pend) : List Pend :=
  l.takeWhile (fun y => y.id < x.id) ++ x :: l.dropWhile fun y => y.id < x.id

/-- The accesses that have been issued and not performed at their core, the FENCEs and the DEQs that they may have to
follow, in the order of their issue. -/
def State.pend (s : State) : List Pend :=
  (s.loads.map LoadOp.pend ++ (s.stores.filter fun x => !x.atCore).map StoreOp.pend ++ s.atoms.map AtomOp.pend
    ++ s.fences.map FenceOp.pend ++ s.deqWaits.map DeqWait.pend).foldl insertPend []

/-- Whether two are of common lanes of one warp. -/
def Pend.meets (x y : Pend) : Bool := x.blk == y.blk && x.warp == y.warp && x.lanes &&& y.lanes != 0#32

/-- Whether a DEQ, a FENCE or a release puts one before a later one. Every later access of a lane follows its DEQ (R52,
R438). A FENCE's release follows every earlier access of its lanes, and their later stores and atomics follow it
(R222); a release follows every earlier access of its lanes (R220, R363). -/
def Pend.ordered (x y : Pend) : Bool :=
  match x.kind, y.kind with
  | _, .deq => false
  | .deq, _ => x.meets y
  | _, .fence => x.meets y && x.isAccess
  | .fence, .load => false
  | .fence, _ => x.meets y
  | _, _ => x.blk == y.blk && x.warp == y.warp
      && y.rel.any fun r => decide (x.id < r.first) && x.lanes &&& r.lanes != 0#32

/-- Whether two accesses to a common byte are ordered: those of one lane (R220), and writes or atomics of one
instruction (R218, R358). -/
def Pend.inOrder (x y : Pend) : Bool :=
  x.isAccess && y.isAccess && x.blk == y.blk && x.pas.any (fun a => y.touches x.scratch a x.len)
    && (x.meets y || (x.kind != .load && x.kind == y.kind && x.cycle == y.cycle))

/-- Whether one must be performed before a later one. -/
def Pend.before (x y : Pend) : Bool := x.ordered y || x.inOrder y

/-- Whether nothing stands before an access. -/
def State.isFirst (s : State) (y : Pend) : Bool := (s.pend.filter fun x => x.id < y.id).all fun x => !x.before y

/-- The release of a FENCE is performed (R222, R389). -/
def State.performFence (s : State) (x : FenceOp) : State :=
  { s with fences := s.fences.filter fun y => y.id != x.id }.release x.blk x.warp x.ms

/-- Performs an access at its core; one of 128 bits in both of its halves. -/
def State.performOne (s : State) (x : Pend) : State :=
  match x.kind with
  | .store =>
    let s := (s.stores.filter fun y => y.id == x.id && !y.atCore).foldl State.storeAtCore s
    (s.stores.filter fun y => y.id == x.id && !y.atCore).foldl State.storeAtCore s
  | .atomic => (s.atoms.filter fun y => y.id == x.id).foldl State.performAtom s
  | .load =>
    let s := (s.loads.filter fun y => y.id == x.id).foldl State.performLoad s
    (s.loads.filter fun y => y.id == x.id).foldl State.performLoad s
  | .fence => (s.fences.filter fun y => y.id == x.id).foldl State.performFence s
  | .deq => s

/-- What meets a condition, and what must come before it, in the order of issue. -/
def State.mustPerform (s : State) (p : Pend → Bool) : List Pend :=
  s.pend.foldr (fun x out => if p x || out.any x.before then x :: out else out) []

/-- Performs the accesses that meet a condition, and those that must come before them, in the order of their issue; what
follows a DEQ that has no entry yet stays. -/
def State.performPending (s : State) (p : Pend → Bool) : State :=
  (s.mustPerform p).foldl (fun s x => if s.isFirst x then s.performOne x else s) s

/-- Performs every earlier access of some lanes of a warp (R382). -/
def State.orderLanes (s : State) (b w : Nat) (m : Word) : State := s.performPending fun x => x.ofLanes b w m

/-- Whether an earlier access of some lanes of a warp follows a DEQ that has no entry yet: what orders it waits (R52,
R438). -/
def State.deqBlocks (s : State) (b w : Nat) (m : Word) (p : Pend → Bool := Pend.isAccess) : Bool :=
  !s.deqWaits.isEmpty
    && (s.mustPerform fun x => x.ofLanes b w m && x.kind != .deq && p x).any fun x => x.kind == .deq

/-- Whether a DEQ of some lanes of a warp has no entry yet. -/
def State.deqOpen (s : State) (b w : Nat) (m : Word) : Bool :=
  s.deqWaits.any fun x => x.blk == b && x.warp == w && accessLanes x.lane &&& m != 0#32

/-- Performs the writes of a block to a range of its scratchpad (R234, R236). -/
def State.settleSp (s : State) (b off n : Nat) : State :=
  s.performPending fun x => x.blk == b && x.kind != .load && x.touches true off n

/-- A release of some lanes of a warp that takes effect as its instruction issues: their earlier accesses first (R220,
R363; assumption 16). -/
def State.releaseLanes (s : State) (b w : Nat) (m : Word) (ms : Nat) : State :=
  (s.orderLanes b w m).release b w ms

/-- ATOMIC_REPLY: a value arrives in its register; an acquire then takes effect, and the lane that it held goes on
(R97, R359, R363). -/
def State.performReply (s : State) (op : ReplyOp) : State :=
  ({ s with replies := s.replies.filter fun x => x.id != op.id }.fill op.blk op.warp op.id op.dest op.vals
    op.pois).acquired op.blk op.warp op.lane op.acq

/-! ### Watch ranges (R413) -/

/-- Whether an access of a kind (0 loads, 1 stores and atomics, 2 fetch) touches an enabled watch range; one with LEN 0 is
off. -/
def State.watched (s : State) (ctx kind : Nat) (va : DWord) (n : Nat) : Bool :=
  (s.ctx ctx).watch.any fun r =>
    r.kinds.getLsbD kind && r.len != 0 && overlap r.base.toNat r.len.toNat va.toNat n

/-- A lane's global access: the checks of R72, then the watch ranges, then for a read the poison (R413, R422).
The answer is the entry and the physical address. -/
def State.laneAccess (s : State) (b : Nat) (va : DWord) (n : Nat) (k : Access) (skip : Bool) : State × XRes :=
  let B := s.blk b
  match s.xlate (corePlace B.coreNo) B.ctx va n k with
  | (s, .fault c) => (s, .fault c)
  | (s, .ok e pa) =>
    let kind := match k with | .load => 0 | .fetch => 2 | .store => 1 | .atomic => 1
    if !skip && s.watched B.ctx kind va n then (s, .fault .watch)
    else
      let reads := match k with | .load => true | .fetch => true | .store => false | .atomic => false
      if reads && s.poisoned pa n then (s, .fault .poison) else (s, .ok e pa)

end Sys2Proof.Machine
end

