-- ==== Sys2Proof/Machine/Access.lean ====
section
/-! DEFINITION. How an instruction that reaches memory or a queue runs at each scope: one description of its
registers and its effect, and the ways of applying it (R211, R213, R218, R355, R411). -/

namespace Sys2Proof.Machine

/-- What one access answers. `held` is an access that has been made and whose lane waits for its reply (R363). -/
inductive AccRes where
  | done
  | held
  | wait
  | fault (c : Cause) (addr : DWord)
  | stall (on : StallOn)
  deriving DecidableEq, Repr, Inhabited

/-- Who makes an access: lane 32 stands for an access of warp scope, `mask` for the lanes whose accesses it
orders; `skip` is the one access without the watch check (R413). -/
structure Who where
  blk : Nat
  warp : Nat
  lane : Nat
  mask : Word
  skip : Bool

/-- An instruction that reaches memory: its sources and destination codes, its guard, whether ISSUED counts it
(R365), and what an access does, given the registers it sees and where its result goes. -/
structure MemAct where
  srcs : List Src
  dst : List Nat := []
  gn : Bool := false
  gp : BitVec 3 := 7
  counted : Bool := false
  act : State → Who → View → (Nat → Dest) → State × AccRes

/-- Whether a record is of a queue of a context, or of a pipe or engine queue of a block. -/
def StallRec.same (x : StallRec) (ctx b : Nat) (on : StallOn) : Bool :=
  x.ctx == ctx && x.on == on && (match on with
    | .queue _ => true
    | .ring => true
    | _ => x.blk == b)

/-- Whether a lane whose earlier accesses an instruction orders may issue: not while one of them follows a DEQ that has
no entry yet (R52, R438). -/
def State.orderedReady (s : State) (b w l : Nat) (r : Ready) : Ready := if s.deqBlocks b w (1#32 <<< l) then .wait else r

/-- Records that an issuer is stalled on a full queue, pipe or ring (R59); an interval that has begun on it goes
on. -/
def State.stalled (s : State) (b w : Nat) (on : StallOn) : State :=
  let ctx := (s.blk b).ctx
  let r : StallRec := match s.stalls.find? fun x => x.same ctx b on with
    | some x => { x with blk := b, warp := w }
    | none => ⟨ctx, on, b, w, s.cycle, false⟩
  if s.stalls.any fun x => x.blk == b && x.warp == w && x.on == on then s else { s with stalls := s.stalls ++ [r] }

/-- The records of a warp's stalls on which no lane of it is stalled any longer go (R59). -/
def State.unstalled (s : State) (b w : Nat) : State :=
  let still (on : StallOn) : Bool := (s.warp b w).lanes.any fun l => l.status == .stall on
  { s with stalls := s.stalls.filter fun x => !(x.blk == b && x.warp == w) || still x.on }

/-- A consumption ends the stall interval of a queue or pipe (R59). -/
def State.consumed (s : State) (ctx b : Nat) (on : StallOn) : State :=
  let again (r : StallRec) : StallRec :=
    if r.same ctx b on then { r with since := s.cycle, logged := false } else r
  { s with stalls := s.stalls.map again }

/-- A lane after its part of a lane-scope instruction. -/
def AccRes.apply (r : AccRes) (cycle : Nat) (l : Lane) : Lane :=
  match r with
  | .done => l.advance cycle (stlOf l.run)
  | .held => { l.advance cycle 0 with status := .held (if stlOf l.run = 0 then 0 else cycle + stlOf l.run) }
  | .wait => { l with status := .fill }
  | .fault _ _ => l
  | .stall on => { l with status := .stall on }

/-- An issue of a warp is counted (R365). -/
def State.countIssue (s : State) (b w : Nat) (counted : Bool) : State :=
  if counted then s.updWarp b w fun W => { W with issued := W.issued + 1 } else s

/-- Whether SEM releases, and whether it acquires (R105). -/
def semReleases (sem : Nat) : Bool := sem == 2 || sem == 3

def semAcquires (sem : Nat) : Bool := sem == 1 || sem == 3

/-- The release of an access that is made now, for the lanes that it orders (R220, R363). -/
def Who.rel (o : Who) (s : State) (sem ms : Nat) : Option Rel :=
  if semReleases sem then some ⟨ms, o.mask, s.nextId⟩ else none

/-- Whether a lane may make its access now. -/
def MemAct.ready (m : MemAct) (l : Lane) (v : View) : Ready :=
  if l.guard m.gn m.gp then readiness v m.srcs m.dst else .go

/-- One lane's part. -/
def MemAct.lane (m : MemAct) (s : State) (o : Who) (l : Lane) (v : View) (d : Nat → Dest) : State × AccRes :=
  if !l.guard m.gn m.gp then (s, .done)
  else match readiness v m.srcs m.dst with
    | .fault c => (s, .fault c 0)
    | .wait => (s, .wait)
    | .go => m.act s o v d

/-- A post or task operation, which releases its lanes' accesses as it issues; it waits for a DEQ that they follow (R52,
R232, R256, R299, R306, R369, R438; assumption 16). -/
def State.post (s : State) (o : Who) (ms : Nat) (act : State → State × AccRes) : State × AccRes :=
  if s.deqBlocks o.blk o.warp o.mask then (s, .wait) else act (s.releaseLanes o.blk o.warp o.mask ms)

/-- What the lanes before stall on, if one does: a later lane of the instruction waits behind it. -/
def stallAmong (rs : List (Nat × Nat × AccRes)) : Option StallOn :=
  rs.findSome? fun (_, _, r) => match r with | .stall on => some on | _ => none

/-- The lanes of a list in turn, each with its answer; those behind a lane that stalls stall with it (R369, R371). -/
def MemAct.each (m : MemAct) (view : State → Nat → Nat → View) (dst : Nat → Nat → Nat → Dest) (b : Nat)
    (lanes : List (Nat × Nat)) (s : State) : State × List (Nat × Nat × AccRes) :=
  lanes.foldl (fun (s, rs) (w, l) =>
    let L := s.lane b w l
    match stallAmong rs, m.ready L (view s w l) with
    | some on, .go => (s, rs ++ [(w, l, if L.guard m.gn m.gp then .stall on else .done)])
    | _, _ =>
      match m.lane s ⟨b, w, l, 1#32 <<< l, L.watchSkip.getLsbD 0⟩ L (view s w l) (dst w l) with
      | (s, r) => (s, rs ++ [(w, l, r)])) (s, [])

/-- The faults among the answers of a warp. -/
def faultsOf (rs : List (Nat × Nat × AccRes)) (w : Nat) : List (Nat × Cause × DWord) :=
  rs.filterMap fun (w', l, r) =>
    match r with
    | .fault c a => if w' == w then some (l, c, a) else none
    | _ => none

/-- The lanes of the group one by one (R117): those that must wait for a fill are not of the issue group (R116), those
that fault trap with the lowest cause (R72). Atomics are sent together once their homes have room (R357). -/
def Ex.memLanes (x : Ex) (m : MemAct) (view : State → Nat → Nat → View) (dst : Nat → Nat → Nat → Dest) : State :=
  let b := x.is.blk
  let w := x.is.warp
  let ready (l : Nat) : Ready := m.ready (x.w.lane l) (view x.s w l)
  let waits := maskOf fun l => x.is.lanes.getLsbD l && ready l == .wait
  let acting := x.is.lanes &&& ~~~waits
  let s := x.s.updBlk b fun B => B.park w waits .fill
  if acting == 0#32 then s.uncountSkid b w
  else
    match m.each view dst b ((lanesOf acting).map fun l => (w, l)) (s.countIssue b w m.counted) with
    | (s1, rs) =>
      if stallAmong rs == some .asw then (s.uncountSkid b w).updBlk b fun B => B.park w acting (.stall .asw)
      else
      let s := rs.foldl (fun s (_, l, r) =>
        let s := match r with | .stall on => s.stalled b w on | _ => s
        s.updLane b w l (r.apply x.s.cycle)) s1
      let s := (s.unstalled b w).countDrained b w
      match lowestFault (faultsOf rs w) with
      | none => s
      | some (c, f, a) => s.trap b (mkTrap w c f acting a x.runLen)

/-- Warp scope: one uniform access, made when the guard is true in the lowest lane of NEEDED (R211, R218). -/
def MemAct.atWarp (m : MemAct) (x : Ex) (s : State) (y : Inst) : State :=
  let b := x.is.blk
  let w := x.is.warp
  let n := ((s.blk b).needed y).getD w 0
  let W := s.warp b w
  let low := W.lane (lowest n)
  if !low.guard m.gn m.gp then ((s.countIssue b w m.counted).finish b y).countDrained b w
  else
    match m.act (s.countIssue b w m.counted) ⟨b, w, 32, n, low.watchSkip.getLsbD 0⟩ W.view .w with
    | (s1, .done) => ((s1.finish b y).unstalled b w).countDrained b w
    | (s1, .held) => ((s1.finish b y).unstalled b w).countDrained b w
    | (_, .fault c a) => s.wideTrap b w y c n a x.runLen
    | (_, .wait) => (s.uncountSkid b w).updBlk b fun B => B.park w n .fill
    | (_, .stall on) => (s.stalled b w on).updBlk b fun B => B.park w n (.stall on)

/-- Whether a cause is that of an address check, which leaves the other lanes of a set-scope instruction
performed (R411). -/
def Cause.ofAddress (c : Cause) : Bool := c == .misalign || c == .xlate || c == .prot || c == .paramUnbound

/-- A faulting lane of a set-scope access stands at the instruction again with a replay mark (R411). -/
def Lane.toReplay (l : Lane) (a : DWord) : Lane := { l with pc := a, run := [], status := .ready, replay := true }

/-- The traps of a set-scope instruction: one for each faulting warp, the lowest first; every selected member
stops (R406, R410). -/
def State.setTraps (s : State) (x : Ex) (y : Inst) (needed : List Word) (rs : List (Nat × Nat × AccRes)) : State :=
  x.memberTraps s y needed fun w => lowestFault (faultsOf rs w)

/-- The view of a set's registers in a state. -/
def setView (b i : Nat) (s : State) (w l : Nat) : View :=
  let B := s.blk b
  (B.set i).view ((B.set i).pos w) l ((B.warp w).lane l)

/-- Where a set-scope result goes. -/
def setDest (B : Block) (i w l : Nat) (first : Nat) : Dest := .g i ((B.set i).pos w) l first

/-- Set scope: each lane of NEEDED makes its own access on its own elements (R211, R218, R411). -/
def MemAct.atSet (m : MemAct) (x : Ex) (i : Nat) (s : State) (y : Inst) : State :=
  let b := x.is.blk
  let B := s.blk b
  let n := B.needed y
  let lanes := Inst.lanes n
  let ready (w l : Nat) : Ready := m.ready ((B.warp w).lane l) (setView b i s w l)
  match x.setBlocked s y lanes ready (x.pf.modOf.mz && B.othersPend i n m.dst) with
  | some s => s
  | none =>
    let ws := (List.range n.length).filter fun w => n.getD w 0 != 0#32
    let s1 := ws.foldl (fun s w => s.countIssue b w m.counted) s
    match m.each (setView b i) (setDest B i) b lanes s1 with
    | (s1, rs) =>
      let all := ws.flatMap fun w => faultsOf rs w
      let unperformed := match lowestFault all with | some (c, _, _) => !c.ofAddress | none => false
      if unperformed then s.setTraps x y n rs
      else
        let s1 := s1.finish b y
        let s1 := if x.pf.modOf.mz then s1.updBlk b fun B => B.zeroOthers i n m.dst else s1
        let s1 := rs.foldl (fun s (w, l, r) =>
          match r with
          | .fault _ _ => s.updLane b w l fun L => L.toReplay y.addr
          | .held => s.updLane b w l fun L => { L with status := .held (match L.status with | .stl til => til | _ => 0) }
          | .wait => s.updLane b w l fun L => L.toReplay y.addr
          | .done => s
          | .stall _ => s) s1
        let s1 := ws.foldl (fun s w => s.countDrained b w) s1
        s1.setTraps x y n rs

/-- An instruction that reaches memory at its scope, after the checks of R113; none has block scope (R211). A lane
with a replay mark performs its own part alone (R411). -/
def Ex.mem (x : Ex) (sc : Nat) (acc : Acc) (ops : List Opd) (extra : Bool) (m : MemAct) : State :=
  let b := x.is.blk
  if !x.legal acc ops (extra && sc ≤ 2) then x.illegalAt sc
  else if sc = 0 then
    x.memLanes m (fun s w l => (s.lane b w l).view) (fun _ l first => .v l first)
  else match x.unit sc with
    | none => x.illegalAt sc
    | some u =>
      if (x.w.lane (lowest x.is.lanes)).replay then
        match u with
        | .set i => x.memLanes m (setView b i) (setDest x.b i)
        | _ => x.memLanes m (fun s w l => (s.lane b w l).view) (fun _ l first => .v l first)
      else x.wide u x.pf.modOf.k.toNat fun s y =>
        match u with
        | .set i => m.atSet x i s y
        | _ => m.atWarp x s y

end Sys2Proof.Machine
end

