-- ==== Sys2Proof/Machine/Memory.lean ====
section
/-! DEFINITION. Loads and stores (R211 to R220), and cache and ordering control (R221 to R225). -/

namespace Sys2Proof.Machine

/-- Bytes of an access and registers of its operand (R91). -/
def sizeOf_ (sz : BitVec 2) (wq : Bool) : Nat := if sz = 3 then (if wq then 16 else 8) else 2 ^ sz.toNat

def regsOf (sz : BitVec 2) (wq : Bool) : Nat := if sz = 3 then (if wq then 4 else 2) else 1

/-- The value of a pair in a view (R93). -/
def View.pair (v : View) (c : Nat) : DWord := Machine.pair (v.val c) (v.val (c + 1))

/-- The effective address of LD and ST (R212). -/
def effAddr (base : DWord) (off size : Nat) : DWord := base + BitVec.ofNat 64 (off * size)

/-- The bytes of consecutive registers, low register first. -/
def regBytes (v : View) (first n size : Nat) : List Byte :=
  ((codes first n).flatMap fun r => leBytes 4 (v.val r).toNat).take size

/-- The offset checks of scratchpad in their order (R65, R212): the address of a fault is the exact offset. -/
def spCheck (spSize off size : Nat) : Option (Cause × DWord) :=
  if off % size != 0 then some (.misalign, BitVec.ofNat 64 off)
  else if spSize < off + size then some (.prot, BitVec.ofNat 64 off)
  else none

/-- Delivers data at once: a load that hits (R213). -/
def State.loadNow (s : State) (o : Who) (d : Dest) (bs : List Byte) (sx : Bool) : State :=
  s.writeDest o.blk o.warp d (loadWords bs sx) false

/-- A load that does not fill at once: its destination is empty until it is performed (R97, R213). -/
def State.postLoad (s : State) (o : Who) (d : Dest) (pa size : Nat) (sx : Bool) (hint regs : Nat) (scratch : Bool)
    (acq : Option Nat := none) : State :=
  let (id, s) := s.fresh
  let s := s.emptyDest o.blk o.warp d regs id
  { s with loads := s.loads ++ [{ id := id, blk := o.blk, warp := o.warp, lane := o.lane, dest := d, pa := pa,
                                  size := size, sx := sx, hint := hint, scratch := scratch, acq := acq }] }

/-- A load of a lane from bytes, as one that would be issued now. -/
def Who.pend (o : Who) (s : State) (scratch : Bool) (pa n : Nat) : Pend :=
  { id := s.nextId, blk := o.blk, warp := o.warp, lanes := accessLanes o.lane, kind := .load, scratch := scratch,
    pas := [pa], len := n, reads := true }

/-- Performs the lane's earlier accesses to some bytes (R220). -/
def State.orderBytes (s : State) (o : Who) (scratch : Bool) (pa n : Nat) : State :=
  s.performPending fun x => x.before (o.pend s scratch pa n)

/-- A plain global load: a hit fills at once, unless an earlier access of the lane to its bytes has still to be
performed; else its destination is left empty (R213, R220). -/
def State.loadGlobal (s : State) (o : Who) (d : Dest) (pa size : Nat) (sx : Bool) (hint regs : Nat) : State :=
  let B := s.blk o.blk
  if s.l1Hit B.coreNo B.ctx pa hint (s.launch B.launch).taken && s.isFirst (o.pend s false pa size) then
    let (s, bs) := s.plainRead o.blk o.warp pa size hint
    s.loadNow o d bs sx
  else s.postLoad o d pa size sx hint regs false

/-- An acquiring load is performed with its acquire before the lane goes on; one of 128 bits, which is two events, holds
its lane until the second (R220, R381, R390). It waits for a DEQ of its lanes (R438). -/
def State.loadAcquire (s : State) (o : Who) (d : Dest) (pa size : Nat) (sx : Bool) (hint ms regs : Nat)
    (scratch : Bool) : State × AccRes :=
  if s.deqOpen o.blk o.warp o.mask then (s, .wait)
  else if size ≤ 8 then
    let s := s.orderBytes o scratch pa size
    let (s, bs) := if scratch then (s, (s.blk o.blk).readSp pa size) else s.orderedRead o.blk o.warp pa size hint ms
    ((s.loadNow o d bs sx).acquire o.blk o.warp ms, .done)
  else (s.postLoad o d pa size sx hint regs scratch (some ms), .held)

/-- LD (R211 to R214, R220). -/
def execLd (f : FormM) (s : State) : Host.Outcome State Fault Refusal :=
  issuing s fun x =>
    let sc := f.sc.toNat
    let m := x.pf.modOf
    let size := sizeOf_ f.sz m.wq
    let regs := regsOf f.sz m.wq
    let off := offOf x.pf f.off.toNat 7
    x.mem sc ({ imm := some 22, sx := true, wq := true, ord := [1] : Acc }.scoped sc (sc == 2))
      [⟨scopeClass sc, f.d.toNat, regs, false⟩, ⟨scopeClass sc, f.a.toNat, 2, f.ta⟩] (!m.wq || f.sz == 3)
      { srcs := [⟨f.a.toNat, 2, f.ta, .own⟩], dst := codes f.d.toNat regs,
        act := fun s o v d =>
          let va := effAddr (v.pair f.a.toNat) off size
          match s.laneAccess o.blk va size .load o.skip with
          | (s, .fault c) => (s, .fault c va)
          | (s, .ok _ pa) =>
            if semAcquires x.pf.sem then
              s.loadAcquire o (d f.d.toNat) pa size m.sx f.h.toNat x.pf.ms regs false
            else (s.loadGlobal o (d f.d.toNat) pa size m.sx f.h.toNat regs, .done) }

/-- A load of scratchpad (R213, R216); one with an acquire is performed before the lane goes on. -/
def State.loadScratch (s : State) (o : Who) (d : Dest) (off size : Nat) (sx acq : Bool) (regs : Nat) : State × AccRes :=
  match spCheck (s.blk o.blk).spSize off size with
  | some (c, a) => (s, .fault c a)
  | none =>
    if (s.blk o.blk).spPoisoned off size then (s, .fault .poison (BitVec.ofNat 64 off))
    else if acq then s.loadAcquire o d off size sx 0 0 regs true
    else (s.postLoad o d off size sx 0 regs true, .done)

/-- LDS (R97, R212, R213, R216). -/
def execLds (f : FormMs8) (s : State) : Host.Outcome State Fault Refusal :=
  issuing s fun x =>
    let sc := f.sc.toNat
    let m := x.pf.modOf
    let size := sizeOf_ f.sz m.wq
    let regs := regsOf f.sz m.wq
    let off := offOf x.pf f.off.toNat 7
    x.mem sc ({ imm := some 22, sx := true, wq := true, ord := [1] : Acc }.scoped sc (sc == 2))
      [⟨scopeClass sc, f.d.toNat, regs, false⟩, ⟨scopeClass sc, f.a.toNat, 1, f.ta⟩] (!m.wq || f.sz == 3)
      { srcs := [⟨f.a.toNat, 1, f.ta, .own⟩], dst := codes f.d.toNat regs,
        act := fun s o v d =>
          s.loadScratch o (d f.d.toNat) ((v.val f.a.toNat).toNat + off * size) size m.sx (semAcquires x.pf.sem) regs }

/-- An LDP access past the end of its window: the sticky bit and the count of its launch (R23). -/
def State.outOfBound (s : State) (l win : Nat) : State :=
  s.updLaunch l fun L => { L with winSticky := L.winSticky ||| (1#16 <<< win),
                                  oob := if L.oob = BitVec.allOnes 32 then L.oob else L.oob + 1 }

/-- LDP (R212, R217). -/
def execLdp (f : FormP) (s : State) : Host.Outcome State Fault Refusal :=
  issuing s fun x =>
    let sc := f.sc.toNat
    let m := x.pf.modOf
    let size := sizeOf_ f.sz false
    let regs := regsOf f.sz false
    let off := offOf x.pf f.off.toNat 5
    let none_ := f.a.toNat == 63
    let win := f.win.toNat
    x.mem sc ({ imm := some 22, sx := true : Acc }.scoped sc (sc == 2))
      ([⟨scopeClass sc, f.d.toNat, regs, false⟩] ++
        if none_ then [] else [⟨scopeClass sc, f.a.toNat, 1, f.ta⟩]) (!(none_ && f.ta))
      { srcs := if none_ then [] else [⟨f.a.toNat, 1, f.ta, .own⟩], dst := codes f.d.toNat regs,
        act := fun s o v d =>
          let at_ := (if none_ then 0 else (v.val f.a.toNat).toNat) + off * size
          match ((s.launch x.b.launch).rcd.windows.getD win none) with
          | none => (s, .fault .paramUnbound (BitVec.ofNat 64 win))
          | some w =>
            if at_ % size != 0 then (s, .fault .misalign (BitVec.ofNat 64 at_))
            else if w.size.toNat < at_ + size then
              ((s.outOfBound x.b.launch win).writeDest o.blk o.warp (d f.d.toNat) (List.replicate regs 0) false,
                .done)
            else
              let va := w.base + BitVec.ofNat 64 at_
              match s.laneAccess o.blk va size .load o.skip with
              | (s, .fault c) => (s, .fault c va)
              | (s, .ok _ pa) => (s.loadGlobal o (d f.d.toNat) pa size m.sx 1 regs, .done) }

/-- A write on its way, with the number and the cycle of its issue, and its release. -/
def State.addStore (s : State) (o : Who) (scratch : Bool) (pas : List Nat) (bs : List Byte) (multicast : Bool)
    (rel : Option Rel) : State :=
  let (id, s) := s.fresh
  let op : StoreOp :=
    { id := id, blk := o.blk, warp := o.warp, lane := o.lane, scratch := scratch, pas := pas, bytes := bs,
      multicast := multicast, atCore := false, issue := (s.warp o.blk o.warp).issued, cycle := s.cycle, rel := rel }
  { s with stores := s.stores ++ [op] }

/-- A global store is issued (R218). One of 128 bits is two writes (R381). -/
def State.postStore (s : State) (o : Who) (pas : List Nat) (multicast : Bool) (bs : List Byte) (rel : Option Rel) :
    State :=
  let n := bs.length
  let s := s.updWarp o.blk o.warp fun W => W.wrote (pas.map fun p => (p, n))
  if n ≤ 8 then s.addStore o false pas bs multicast rel
  else
    (s.addStore o false pas (bs.take 8) multicast rel).addStore o false (pas.map (· + 8)) (bs.drop 8) multicast rel

/-- ST and ST.mc (R212, R218, R219). -/
def execSt (f : FormW) (s : State) : Host.Outcome State Fault Refusal :=
  issuing s fun x =>
    let sc := f.sc.toNat
    let m := x.pf.modOf
    let size := sizeOf_ f.sz m.wq
    let regs := regsOf f.sz m.wq
    let off := offOf x.pf f.off.toNat 6
    x.mem sc ({ imm := some 22, wq := true, hi := true, ord := [2] : Acc }.scoped sc false)
      [⟨scopeClass sc, f.a.toNat, 2, false⟩, ⟨scopeClass sc, f.b.toNat, regs, false⟩] (!m.wq || f.sz == 3)
      { srcs := [⟨f.a.toNat, 2, false, .own⟩, ⟨f.b.toNat, regs, false, .own⟩], gn := f.gn, gp := f.gp,
        counted := true,
        act := fun s o v _ =>
          let va := effAddr (v.pair f.a.toNat) off size
          match s.laneAccess o.blk va size .store o.skip with
          | (s, .fault c) => (s, .fault c va)
          | (s, .ok e pa) =>
            let rs := if m.hi then replicas e pa else [pa]
            (s.postStore o rs (m.hi && entryRepl e != 0) (regBytes v f.b.toNat regs size)
              (o.rel s x.pf.sem x.pf.ms), .done) }

/-- STS (R212, R218). -/
def execSts (f : FormW) (s : State) : Host.Outcome State Fault Refusal :=
  issuing s fun x =>
    let sc := f.sc.toNat
    let m := x.pf.modOf
    let size := sizeOf_ f.sz m.wq
    let regs := regsOf f.sz m.wq
    let off := offOf x.pf f.off.toNat 6
    x.mem sc ({ imm := some 22, wq := true, ord := [2] : Acc }.scoped sc false)
      [⟨scopeClass sc, f.a.toNat, 1, false⟩, ⟨scopeClass sc, f.b.toNat, regs, false⟩] (!m.wq || f.sz == 3)
      { srcs := [⟨f.a.toNat, 1, false, .own⟩, ⟨f.b.toNat, regs, false, .own⟩], gn := f.gn, gp := f.gp,
        counted := true,
        act := fun s o v _ =>
          let at_ := (v.val f.a.toNat).toNat + off * size
          match spCheck (s.blk o.blk).spSize at_ size with
          | some (c, a) => (s, .fault c a)
          | none => (s.addStore o true [at_] (regBytes v f.b.toNat regs size) false (o.rel s x.pf.sem 0), .done) }

/-! ### MEMC (R221 to R225) -/

/-- What a MEMC instruction accepts: lane or warp scope, and the scope fields (R221). -/
def memcAcc (warp : Bool) (ord : List Nat) : Acc := { mod := true, k := warp, ord := ord }

/-- The acquire of a FENCE: the earlier loads and returning atomics of its lanes come before what follows (R222,
R383). -/
def State.fenceAcquire (s : State) (b w : Nat) (n : Word) (ms : Nat) : State :=
  ((s.performPending fun x => x.ofLanes b w n && x.reads).acquire b w ms).updWarp b w Warp.fenceReads

/-- The release of a FENCE: at once where every earlier access of its lanes has been performed, else once it has; their
later stores and atomics follow it, their later loads need not (R222). -/
def State.fenceRelease (s : State) (b w : Nat) (n : Word) (ms : Nat) : State :=
  if s.pend.any fun x => x.ofLanes b w n then
    let (id, s) := s.fresh
    { s with fences := s.fences ++ [⟨id, b, w, n, ms⟩] }
  else s.release b w ms

/-- FENCE: without ORD an acquire-release at core scope (R222). -/
def State.fence (s : State) (b w : Nat) (n : Word) (sem ms : Nat) : State :=
  let s := if semAcquires sem then s.fenceAcquire b w n ms else s
  if semReleases sem then s.fenceRelease b w n ms else s

def execFence (f : FormF) (s : State) : Host.Outcome State Fault Refusal :=
  issuing s fun x =>
    let sc := if f.warp then 1 else 0
    let sem := if x.pf.ord.isSome then x.pf.sem else 3
    x.mem sc (memcAcc f.warp [1, 2, 3]) [] true
      { srcs := [],
        act := fun s o _ _ =>
          if semAcquires sem && s.deqBlocks o.blk o.warp o.mask (fun x => x.reads) then (s, .wait)
          else (s.fence o.blk o.warp o.mask sem x.pf.ms, .done) }

/-- The lines that a context's blocks have pinned in an L1, and those of a set that any block has (R77). -/
def State.l1Pinned (s : State) (n : Nat) (p : L1Line → Bool) : Nat :=
  ((s.core n).l1.filter fun x => !x.pins.isEmpty && p x).length

/-- PIN in L1 (R77, R78, R223). -/
def State.pinL1 (s : State) (b line : Nat) : State × Word :=
  let B := s.blk b
  let n := B.coreNo
  let held := (s.core n).line? B.ctx line
  let mine (x : L1Line) : Bool := x.pins.any fun p => (s.blk p).ctx == B.ctx
  let isPinned := held.any fun x => !x.pins.isEmpty
  let sameSet (x : L1Line) : Bool := s.l1SetOf n x.line == s.l1SetOf n line
  if held.any fun x => x.pins.contains b then (s, 1)
  else if !isPinned && 8 ≤ s.l1Pinned n sameSet + 1 then (s, 0)
  else if !(held.any mine) && (s.ctx B.ctx).pinL1 < s.l1Pinned n mine + 1 then (s, 0)
  else
    let s := if held.isSome then s else s.fetchLine n B.ctx line false
    let pin (x : L1Line) : L1Line := if x.ctx == B.ctx && x.line == line then { x with pins := x.pins ++ [b] } else x
    (s.updCore n fun c => { c with l1 := c.l1.map pin }, 1)

/-- The die whose L2 holds a line for a die: the home of the line, or for host memory the die itself (R70). -/
def l2Die (die pa : Nat) : Nat := if isHost pa then die else homeDie pa

/-- The ways of an L2 set on a die that a context's lines may hold: its own partition if it is sealed, else those that
no sealed context has (R86, R431). -/
def State.l2Ways (s : State) (c : Ctx) (die : Nat) : Nat :=
  let ways (x : Ctx) : Nat := fieldAt x.grant (12 * die + 4) 1
  if c.sealed_ then ways c else 16 - ((s.ctxs.filter (·.sealed_)).map ways).sum

/-- PIN in L2 (R70, R77, R78, R86, R223): the line is fetched. -/
def State.pinL2 (s : State) (b pa : Nat) : State × Word :=
  let B := s.blk b
  let line := lineNo pa
  let c := s.ctx B.ctx
  let sharers := if c.sealed_ then [c] else s.ctxs.filter fun x => !x.sealed_
  let inSet := (sharers.flatMap fun c => c.l2pins).filter fun p =>
    p.1 == B.die && l2SetOf p.2 == l2SetOf line
  if c.l2pins.contains (B.die, line) then (s, 1)
  else if l2Die B.die pa != B.die then (s, 0)
  else if !(inSet.any fun p => p.2 == line) && s.l2Ways c B.die ≤ inSet.eraseDups.length + 1 then (s, 0)
  else if c.pinL2 < (c.l2pins.filter fun p => p.1 == B.die).length + 1 then (s, 0)
  else (((s.l2Room B.die line).touchHost B.die pa 1).updCtx B.ctx fun c => { c with l2pins := c.l2pins ++ [(B.die, line)] }, 1)

def execPin (f : FormPin) (s : State) : Host.Outcome State Fault Refusal :=
  issuing s fun x =>
    let sc := if f.warp then 1 else 0
    x.mem sc (memcAcc f.warp []) [⟨scopeClass sc, f.d.toNat, 1, false⟩, ⟨scopeClass sc, f.a.toNat, 2, false⟩] true
      { srcs := [⟨f.a.toNat, 2, false, .own⟩], dst := [f.d.toNat],
        act := fun s o v d =>
          match s.xlate (corePlace x.b.coreNo) x.b.ctx (v.pair f.a.toNat) 1 .load with
          | (s, .fault _) => (s.writeDest o.blk o.warp (d f.d.toNat) [2] false, .done)
          | (s, .ok _ pa) =>
            let (s, r) := if f.lvl then s.pinL2 o.blk pa else s.pinL1 o.blk (lineNo pa)
            (s.writeDest o.blk o.warp (d f.d.toNat) [r] false, .done) }

/-- The MEMC instructions with an address and no destination. -/
def memc (f : FormMc) (extra : Bool) (act : Ex → State → Who → DWord → State × AccRes) (s : State) :
    Host.Outcome State Fault Refusal :=
  issuing s fun x =>
    let sc := if f.warp then 1 else 0
    x.mem sc (memcAcc f.warp []) (if extra then [⟨scopeClass sc, f.a.toNat, 2, false⟩] else [])
      (extra || f.a == 0)
      { srcs := if extra then [⟨f.a.toNat, 2, false, .own⟩] else [],
        act := fun s o v _ => act x s o (v.pair f.a.toNat) }

/-- UNPIN: the pin of the block in L1, of the context in L2 (R223). -/
def execUnpin (f : FormMc) (s : State) : Host.Outcome State Fault Refusal :=
  memc f true (fun x s o va =>
    match s.xlate (corePlace x.b.coreNo) x.b.ctx va 1 .load with
    | (s, .fault _) => (s, .done)
    | (s, .ok _ pa) =>
      if f.lvl then
        (s.updCtx x.b.ctx fun c => { c with l2pins := c.l2pins.filter fun p => p != (x.b.die, lineNo pa) }, .done)
      else
        let free (y : L1Line) : L1Line :=
          if y.ctx == x.b.ctx && y.line == lineNo pa then { y with pins := y.pins.filter (· != o.blk) } else y
        (s.updCore x.b.coreNo fun c => { c with l1 := c.l1.map free }, .done)) s

/-- Writes back and invalidates the lines of a core that meet a condition; a pinned one keeps its place and serves
no load until its next access has fetched it (R224, R78). -/
def State.invalidateLines (s : State) (n : Nat) (p : L1Line → Bool) : State :=
  let s := s.cleanLines n p
  let keep (x : L1Line) : Option L1Line :=
    if !p x then some x
    else if x.pins.isEmpty then none
    else some { x with void := true }
  s.updCore n fun c => { c with l1 := c.l1.filterMap keep }

/-- INVL1 and WBL2: one line with the checks of R72 but alignment, or every line of the context. -/
def onLines (f : FormMc) (act : State → Nat → (L1Line → Bool) → State) (s : State) :
    Host.Outcome State Fault Refusal :=
  memc f (!f.lvl) (fun x s _ va =>
    let n := x.b.coreNo
    if f.lvl then (act s n fun y => y.ctx == x.b.ctx, .done)
    else match s.xlate (corePlace n) x.b.ctx va 1 .load with
      | (s, .fault c) => (s, .fault c va)
      | (s, .ok _ pa) => (act s n fun y => y.ctx == x.b.ctx && y.line == lineNo pa, .done)) s

def execInvl1 (f : FormMc) (s : State) := onLines f State.invalidateLines s

def execWbl2 (f : FormMc) (s : State) := onLines f State.cleanLines s

/-- PREF brings a line into L1, or into the L2 of its home die (R224). -/
def State.prefetch (s : State) (n ctx pa : Nat) (l1 : Bool) : State :=
  if !l1 then s.touchHost (coreDie n) pa 1
  else if s.l1Hit n ctx pa 0 0 then s
  else s.fetchLine n ctx (lineNo pa) false

/-- PREF: brings the line in, or starts the walk that its translation needs; never a trap (R75, R224). -/
def execPref (f : FormMc) (s : State) : Host.Outcome State Fault Refusal :=
  memc f true (fun x s _ va =>
    let n := x.b.coreNo
    if !canonical va then (s, .done)
    else match s.lookup (corePlace n) x.b.ctx va with
      | none => ({ s with pageWalks := s.pageWalks ++ [⟨n, x.b.ctx, va, !f.lvl⟩] }, .done)
      | some _ =>
        match s.xlate (corePlace n) x.b.ctx va 1 .load with
        | (s, .fault _) => (s, .done)
        | (s, .ok _ pa) => (s.prefetch n x.b.ctx pa !f.lvl, .done)) s

/-- Whether an access carries a release that is still to come, or is a FENCE with one. -/
def Pend.releases (x : Pend) : Bool := x.rel.isSome || x.kind == .fence

/-- SIGQ: the sectors of the write set since the warp's last release, saturating at 257 (R225). The releases that the
warp has issued are performed first. -/
def execSigq (f : FormED) (s : State) : Host.Outcome State Fault Refusal :=
  issuing s fun x =>
    x.mem 1 (memcAcc true []) [⟨.w, f.d.toNat, 1, false⟩] true
      { srcs := [],
        act := fun s o _ d =>
          let all := BitVec.allOnes 32
          if s.deqBlocks o.blk o.warp all Pend.releases then (s, .wait)
          else
          let s := s.performPending fun x => x.ofLanes o.blk o.warp all && x.releases
          let n := (s.warp o.blk o.warp).wset.length
          let r : Nat := if 256 < n then 2 ^ 31 + 257 else n
          (s.writeDest o.blk o.warp (d f.d.toNat) [BitVec.ofNat 32 r] false, .done) }

/-! ### Events -/

/-- The first operation of a list with a name. -/
def opOf {α : Type} (l : List α) (p : α → Bool) (k : α → Host.Outcome State Fault Refusal) :
    Host.Outcome State Fault Refusal :=
  match l.find? p with
  | none => .fault .notEnabled
  | some x => k x

/-- LOAD_FILL (R97, R213, R220). -/
def execLoadFill (k : Nat) (s : State) : Host.Outcome State Fault Refusal :=
  opOf s.loads (fun x => x.id == k && s.isFirst x.pend) fun op => .next (s.performLoad op)

/-- STORE_PERFORMED (R220, R365, R387). -/
def execStorePerformed (k : Nat) (s : State) : Host.Outcome State Fault Refusal :=
  opOf s.stores (fun x => x.id == k && (x.atCore || s.isFirst x.pend)) fun op => .next (s.performStore op)

/-- Whether two misses are of one walk: of one die, context and page (R75). -/
def State.sameWalk (s : State) (p q : PageWalk) : Bool :=
  coreDie p.core == coreDie q.core && p.ctx == q.ctx && s.pageOf p.ctx p.va == s.pageOf q.ctx q.va

/-- The cluster mask of a die that a context is granted (R431). -/
def Ctx.clusterMask (c : Ctx) (die : Nat) : Nat := fieldAt c.grant (12 * die) 3

/-- Whether two contexts share the walks of a die's walker: a sealed one has its own (R86). -/
def State.sharesWalks (s : State) (c d : Nat) : Bool := c == d || (!(s.ctx c).sealed_ && !(s.ctx d).sealed_)

/-- The walks that a die's walker runs at once for a context: 16 for a sealed one, and for the others what the sealed
contexts that use the die leave (R75, R86). -/
def State.walksOf (s : State) (ctx die : Nat) : Nat :=
  let others := s.ctxs.filter fun c => c.sealed_ && c.clusterMask die != 0
  if (s.ctx ctx).sealed_ then Config.sealedWalks else Config.walks - Config.sealedWalks * others.length

/-- The walks before a miss on its die: misses that join one are of it (R75). -/
def State.walksBefore (s : State) (k : Nat) (p : PageWalk) : List PageWalk :=
  (s.pageWalks.take k).foldl (fun ws q =>
    if coreDie q.core == coreDie p.core && s.sharesWalks q.ctx p.ctx && !ws.any (s.sameWalk q) then ws ++ [q] else ws) []

/-- A miss whose walk is complete brings its line in; one whose translation faults does nothing (R75, R224). -/
def State.endMiss (s : State) (p : PageWalk) : State :=
  match s.xlate (corePlace p.core) p.ctx p.va 1 .load with
  | (s, .fault _) => s
  | (s, .ok _ pa) => s.prefetch p.core p.ctx pa p.l1

/-- TRANSLATION_WALK_COMPLETE: a walk that no instruction waits for leaves its entry, or nothing, for every miss that has
joined it. A die's walker runs so many at once, the others waiting in the order of arrival (R75, R86). -/
def execTranslationWalkComplete (k : Nat) (s : State) : Host.Outcome State Fault Refusal :=
  match s.pageWalks[k]? with
  | none => .fault .notEnabled
  | some p =>
    let before := s.walksBefore k p
    if before.any (s.sameWalk p) || s.walksOf p.ctx (coreDie p.core) ≤ before.length then .fault .notEnabled
    else
      let mine := s.pageWalks.filter (s.sameWalk p)
      .next (mine.foldl State.endMiss { s with pageWalks := s.pageWalks.filter fun q => !s.sameWalk p q })

end Sys2Proof.Machine
end

