-- ==== Sys2Proof/Machine/Control.lean ====
section
/-! DEFINITION. Control-flow and scope instructions (R138 to R158), but SPAWN. -/

namespace Sys2Proof.Machine

/-! ### Branches and calls (R139 to R142) -/

/-- A lane that will go on at an address: performing the instruction moves it to the next word of this. -/
def Lane.jump (l : Lane) (target : DWord) : Lane := { l with pc := target - 4 }

/-- The target of form B, from the address of the branch word (R139, R140). -/
def branchTarget (pc : DWord) (p : Pfx) (off : BitVec 16) : DWord :=
  let words : Int := match p.imm with
    | none => off.toInt
    | some i => signed 24 (i.pay.toNat % 256 * 65536 + off.toNat)
  pc + 4 + BitVec.ofInt 64 (4 * words)

/-- A branch of some lanes: those whose guard is true are enrolled in the mask and go to the target. -/
def Warp.branch (w : Warp) (f : FormB) (n : Word) (p : Pfx) (cycle : Nat) : Warp :=
  let taken := maskOf fun l => n.getLsbD l && (w.lane l).guard f.gn f.gp
  let w := if f.k == 15 then w else w.setMask f.k.toNat (w.mask f.k.toNat ||| taken)
  w.mapLanes n fun l y =>
    (if taken.getLsbD l then y.jump (branchTarget y.pc p f.off) else y).advance cycle (stlOf y.run)

/-- BRA (R140). -/
def execBra (f : FormB) (s : State) : Host.Outcome State Fault Refusal :=
  issuing s fun x =>
    let b := x.is.blk
    let w := x.is.warp
    let acc : Acc := { imm := some 8, mod := f.warp, k := f.warp }
    let go (s : State) (n : Word) : State :=
      (s.updWarp b w fun W => W.branch f n x.pf s.cycle).masksChanged b w
    if !x.legal acc [⟨.k, f.k.toNat, 1, false⟩] then x.illegalAt (if f.warp then 1 else 0)
    else if f.warp then
      x.wide (.warp w) x.pf.modOf.k.toNat fun s y => go (s.dropInst b y) (x.neededHere s y)
    else go x.s x.is.lanes

/-- The address of the next word, low half: the link (R141, R142). -/
def Lane.link (l : Lane) : Word := loHalf (l.pc + 4)

/-- CALL (R141). -/
def execCall (f : FormBl) (s : State) : Host.Outcome State Fault Refusal :=
  issuing s fun x =>
    if !x.legal { imm := some 8 } [] then x.illegal
    else x.lanewise fun _ l =>
      if !l.guard f.gn f.gp then .done l []
      else match readiness l.view [] [63] with
        | .wait => .wait
        | .fault c => .fault c 0
        | .go => .done ((l.setRegs 63 [l.link]).jump (branchTarget l.pc x.pf f.off)) []

/-- The instructions of JMPX: a target from registers, and whether they link. -/
def jumpTo (f : FormJ) (n : Nat) (link : Bool) (target : Lane → DWord) (s : State) :
    Host.Outcome State Fault Refusal :=
  issuing s fun x =>
    if !x.legal {} [⟨.v, f.a.toNat, n, false⟩] then x.illegal
    else x.lanewise fun _ l =>
      if !l.guard f.gn f.gp then .done l []
      else match readiness l.view [⟨f.a.toNat, n, false, .own⟩] (if link then [63] else []) with
        | .wait => .wait
        | .fault c => .fault c 0
        | .go =>
          let t := target l
          if t.toNat % 4 != 0 then .fault .misalign t
          else .done ((if link then l.setRegs 63 [l.link] else l).jump t) []

/-- JMP (R142). -/
def execJmp (f : FormJ) (s : State) := jumpTo f 2 false (fun l => l.view.pair f.a.toNat) s

/-- RET: within the aligned 4 GiB region of the RET (R142). -/
def execRet (f : FormJ) (s : State) := jumpTo f 1 false (fun l => pair (l.reg f.a.toNat) (hiHalf l.pc)) s

/-- CALLX (R142). -/
def execCallx (f : FormJ) (s : State) := jumpTo f 2 true (fun l => l.view.pair f.a.toNat) s

/-! ### Mask instructions (R143, R144) -/

/-- A KOP instruction: its effect on a warp, given its active lanes; once at lane scope for the warp of the
group, once at warp scope after the rendezvous. -/
def kop (warp : Bool) (ops : List Opd) (fn : Warp → Word → Warp) (s : State) : Host.Outcome State Fault Refusal :=
  issuing s fun x =>
    let b := x.is.blk
    let w := x.is.warp
    if !x.legal { mod := warp, k := warp } ops then x.illegalAt (if warp then 1 else 0)
    else if warp then
      x.wide (.warp w) x.pf.modOf.k.toNat fun s y =>
        let n := x.neededHere s y
        ((s.finish b y).updWarp b w fun W => fn W n).masksChanged b w
    else
      (x.s.updWarp b w fun W => fn (W.advance x.is.lanes x.s.cycle) x.is.lanes).masksChanged b w

def kd (c : BitVec 4) : Opd := ⟨.kd, c.toNat, 1, false⟩

def ka (c : BitVec 4) : Opd := ⟨.k, c.toNat, 1, false⟩

def execJoin (f : FormK1) (s : State) :=
  kop f.warp [kd f.kd] (fun w n => w.setMask f.kd.toNat (w.mask f.kd.toNat ||| n)) s
def execLeave (f : FormK1) (s : State) :=
  kop f.warp [kd f.kd] (fun w n => w.setMask f.kd.toNat (w.mask f.kd.toNat &&& ~~~n)) s

/-- WAIT: the lanes block, and the test follows (R136). -/
def execWait (f : FormKw) (s : State) : Host.Outcome State Fault Refusal :=
  issuing s fun x =>
    if !x.legal {} [kd f.kd] then x.illegal
    else
      (x.s.updWarp x.is.blk x.is.warp fun W =>
        W.mapLanes x.is.lanes fun _ l => { l with status := .kwait f.kd.toNat }).masksChanged x.is.blk x.is.warp

/-- The mask algebra. -/
def kalg (f : FormK3) (fn : Word → Word → Word) (s : State) : Host.Outcome State Fault Refusal :=
  kop f.warp [kd f.kd, ka f.ka, ka f.kb]
    (fun w _ => w.setMask f.kd.toNat (fn (w.mask f.ka.toNat) (w.mask f.kb.toNat))) s

def execKand (f : FormK3) (s : State) := kalg f (fun a b => a &&& b) s
def execKor (f : FormK3) (s : State) := kalg f (fun a b => a ||| b) s
def execKandn (f : FormK3) (s : State) := kalg f (fun a b => a &&& ~~~b) s
def execKxor (f : FormK3) (s : State) := kalg f (fun a b => a ^^^ b) s
/-- KSETL: as every KOP write, it sets the bit of an absent lane as it does any other (R144; assumption 84). -/
def execKsetl (f : FormKl) (s : State) :=
  kop f.warp [kd f.kd] (fun w _ => w.setMask f.kd.toNat (w.mask f.kd.toNat ||| (1#32 <<< f.lane.toNat))) s
def execKclr (f : FormK1) (s : State) := kop f.warp [kd f.kd] (fun w _ => w.setMask f.kd.toNat 0) s
def execKpopc (f : FormKp) (s : State) :=
  kop f.warp [ka f.ka] (fun w _ => w.setReg f.wf.toNat (BitVec.ofNat 32 (popcount (w.mask f.ka.toNat)))) s
def execKfromw (f : FormKf) (s : State) :=
  kop f.warp [kd f.kd] (fun w _ => w.setMask f.kd.toNat (w.reg f.wf.toNat)) s

/-! ### Barriers (R145 to R147) -/

/-- A release and an acquire of lanes of several warps (R145). -/
def State.orderAll (s : State) (b : Nat) (n : List Word) (ms : Nat) : State :=
  let ws := (List.range n.length).filter fun w => n.getD w 0 != 0#32
  let s := ws.foldl (fun s w => s.releaseLanes b w (n.getD w 0) ms) s
  ws.foldl (fun s w => s.acquire b w ms) s

/-- Whether what orders lanes of several warps waits for a DEQ (R438). -/
def State.allBlocked (s : State) (b : Nat) (n : List Word) : Bool :=
  (List.range n.length).any fun w => s.deqBlocks b w (n.getD w 0)

/-- The lanes of a completed instance that issue wait for a fill (R98). -/
def Ex.waitFill (x : Ex) (s : State) (y : Inst) : State :=
  (s.uncountSkid x.is.blk x.is.warp).updBlk x.is.blk fun B => B.park x.is.warp (y.arrived.getD x.is.warp 0) .fill

/-- BAR (R145). -/
def execBar (f : FormSc) (s : State) : Host.Outcome State Fault Refusal :=
  issuing s fun x =>
    let sc := f.sc.toNat
    let acc : Acc := { mod := true, k := sc == 1 || sc == 2, ss := sc == 2, ord := [3] }
    if !x.legal acc [] (sc != 0) then x.illegalAt sc
    else match x.unit sc with
      | none => x.illegalAt sc
      | some u => x.wide u x.pf.modOf.k.toNat fun s y =>
        let n := (s.blk x.is.blk).needed y
        if s.allBlocked x.is.blk n then x.waitFill s y else (s.orderAll x.is.blk n x.pf.ms).finish x.is.blk y

/-- A warp-scope instruction on w registers with one uniform effect (R186, R211): what it accepts besides K,
its operands, and its effect. -/
def Ex.uniform (x : Ex) (acc : Acc) (ops : List Opd) (extra : Bool)
    (act : State → Who → (Nat → Word) → State × AccRes) : State :=
  x.mem 1 { acc with mod := true, k := true } ops extra
    { srcs := [], act := fun s o v _ => act s o v.val }

def wop (c : BitVec 6) (n : Nat := 1) : Opd := ⟨.w, c.toNat, n, false⟩

def litop (c : BitVec 6) (max : Nat) : Opd := ⟨.lit max, c.toNat, 1, false⟩

/-- Writes w registers of the warp that acts. -/
def State.setW (s : State) (o : Who) (d : BitVec 6) (vals : List Word) : State :=
  s.updWarp o.blk o.warp fun W => W.setRegs d.toNat vals

def Block.updBar (b : Block) (i : Nat) (f : SplitBar → SplitBar) : Block := { b with bars := b.bars.modify i f }

/-- An arrival at a split barrier (R146). -/
def SplitBar.arrive (x : SplitBar) (want : Word) : SplitBar :=
  let x := if x.count = 0 then { x with expect := min (max want.toNat 1) 32 } else x
  if x.count + 1 = x.expect then { x with phase := x.phase + 1, count := 0 } else { x with count := x.count + 1 }

/-- BARA (R146). -/
def execBara (f : FormDAB) (s : State) : Host.Outcome State Fault Refusal :=
  issuing s fun x =>
    x.uniform { ord := [2] } [wop f.d, wop f.a, litop f.b 15] true fun s o w =>
      if s.deqBlocks o.blk o.warp o.mask then (s, .wait)
      else
      let s := s.releaseLanes o.blk o.warp o.mask x.pf.ms
      let bar := (s.blk o.blk).bars.getD f.b.toNat default
      let s := s.setW o f.d [bar.phase]
      (s.updBlk o.blk fun B => B.updBar f.b.toNat fun y => y.arrive (w f.a.toNat), .done)

/-- BARW: its lanes stand at it until the phase has passed (R146, R147). -/
def execBarw (f : FormAB) (s : State) : Host.Outcome State Fault Refusal :=
  issuing s fun x =>
    let b := x.is.blk
    let w := x.is.warp
    if !x.legal { mod := true, k := true, ord := [1] } [wop f.a, litop f.b 15] then x.illegalAt 1
    else x.wide (.warp w) x.pf.modOf.k.toNat fun s y =>
      let n := x.neededHere s y
      let ph := (s.warp b w).reg f.a.toNat
      if passed ((s.blk b).bars.getD f.b.toNat default).phase ph then (s.acquire b w x.pf.ms).finish b y
      else
        let s := (s.dropInst b y).updWarp b w fun W =>
          { W.mapLanes n (fun _ l => { l with status := .ready }) with
            wait := some (.barrier f.b.toNat ph x.pf.ms n) }
        s.settle b

/-- BARC (R146). -/
def execBarc (f : FormDB) (s : State) : Host.Outcome State Fault Refusal :=
  issuing s fun x =>
    x.uniform {} [wop f.d 2, litop f.b 15] true fun s o _ =>
      let bar := (s.blk o.blk).bars.getD f.b.toNat default
      (s.setW o f.d [bar.phase, BitVec.ofNat 32 (bar.count + bar.expect * 256)], .done)

/-- A block whose warps may go on: it runs and is not halted. A warp of a halted block stays in its wait
(R99). -/
def Block.mayRun (b : Block) : Bool :=
  (match b.phase with | .running => true | .prologue _ => false | .saved => false | .gone => false)
    && b.halt.isNone

/-- A warp that may go on: one of a block that is not halted, or one in its handler, which may use every instruction
(R99, R405, R407). -/
def Block.warpRuns (b : Block) (w : Nat) : Bool :=
  (match b.phase with | .running => true | .prologue _ => false | .saved => false | .gone => false)
    && (match b.halt with
      | none => true
      | some h => h.handler && !h.lost && h.trap.warp == w)

/-- A warp's wait ends, if the warp may go on. -/
def State.release? (s : State) (b w : Nat) (k : WaitFor → Option State) : Host.Outcome State Fault Refusal :=
  if !(s.blk b).warpRuns w then .fault .notEnabled
  else match (s.warp b w).wait with
    | none => .fault .notEnabled
    | some q => match k q with
      | none => .fault .notEnabled
      | some s => .next (s.updWarp b w fun W => { W with wait := none })

/-- BARW_RELEASE (R146). -/
def execBarwRelease (b w : Nat) (s : State) : Host.Outcome State Fault Refusal :=
  s.release? b w fun q =>
    match q with
    | .barrier i ph ms n =>
      if passed ((s.blk b).bars.getD i default).phase ph then
        some ((s.acquire b w ms).updWarp b w fun W => W.advance (n &&& W.live) s.cycle)
      else none
    | _ => none

/-! ### CARVE (R67 to R69, R148) -/

/-- Whether an entry is of the walker, whose passes touch no block's scratchpad or tiles (R289). -/
def MxKind.isWalk : MxKind → Bool
  | .walk _ => true
  | _ => false

/-- Whether an engine operation that reads or writes the block's scratchpad is outstanding (R68, R376). -/
def State.spBusy (s : State) (b : Nat) : Bool :=
  s.copies.any (fun x => x.blk == b) || s.mrt.any (fun x => x.blk == b && !x.kind.isWalk)
    || s.jobs.any (fun x => x.blk == b && !x.done) || s.seqOps.any (fun x => x.blk == b) || s.mapOps.any (fun x => x.blk == b)
    || s.topkOps.any (fun x => x.blk == b) || s.puts.any (fun x => x.blk == b)
    || s.walkReqs.any (fun x => x.blk == b)

/-- Whether the pinned lines of a core fit its L1 with so many granules (R68). -/
def State.pinsFit (s : State) (n grans : Nat) : Bool :=
  let setOf (line : Nat) : Nat := Config.l1Set grans line % (16 * grans)
  let pinned := (s.core n).l1.filter fun x => !x.pins.isEmpty
  pinned.all fun x => (pinned.filter fun y => setOf y.line == setOf x.line).length < 8

/-- The status of a CARVE to so many granules (R68). -/
def State.carveStatus (s : State) (b new : Nat) (request : Nat) : Nat :=
  let B := s.blk b
  let left := 64 - ((s.residents B.coreNo).map fun (i, y) => y.regGran + if i = b then new else y.spGran).sum
  let used := ((s.residents B.coreNo).map fun (i, y) => y.regGran + if i = b then new else y.spGran).sum
  if new = B.spGran then 0
  else if 524288 < request then 1
  else if 64 < used || (s.residents B.coreNo).any (fun (_, y) => left < y.l1Gran) then 2
  else if !s.pinsFit B.coreNo left then 3
  else 0

/-- CARVE when it is granted: L1 gives or takes granules, and scratchpad keeps the bytes below both sizes; accesses
to bytes beyond them are performed first (R68). -/
def State.carve (s : State) (b new : Nat) : State :=
  let B := s.blk b
  let n := B.coreNo
  let old := s.l1Grans n
  let s := s.performPending fun x => x.blk == b && x.touches true (new * 16384) (2 ^ 40)
  (s.updBlk b fun B => { B with
    spGran := new, sp := Memory.truncate B.sp (new * 16384),
    spPoison := B.spPoison.filter fun p => decide (4 * p.1 < new * 16384) }).resizeL1 n old

/-- CARVE (R67, R68). -/
def execCarve (f : FormDA) (s : State) : Host.Outcome State Fault Refusal :=
  issuing s fun x =>
    let b := x.is.blk
    if !x.legal {} [wop f.d, wop f.a] then x.illegalAt 3
    else x.wide .block 15 fun s y =>
      if s.spBusy b then s.updBlk b fun B => B.park x.is.warp ((y.arrived.getD x.is.warp 0)) (.stall .engines)
      else
        let B := s.blk b
        let request := ((B.warp B.firstLive).reg f.a.toNat).toNat
        let new := (request + 16383) / 16384
        let st := s.carveStatus b new request
        let s := if st = 0 && new != B.spGran then s.carve b new else s
        (s.finish b y).updBlk b fun B => { B with
          warps := B.warps.map fun W => if W.live == 0#32 then W else W.setReg f.d.toNat (BitVec.ofNat 32 st) }

/-! ### Threads (R149, R151, R153) -/

/-- Lanes of a warp exit: they leave LIVE and every mask register, and their pending fills are discarded
(R149, R128, R99). -/
def Warp.exit (w : Warp) (n : Word) : Warp :=
  { w with lanes := (w.mapLanes n fun _ l => { l with status := .exited, run := [] }).lanes,
           live := w.live &&& ~~~n, k := w.k.map fun m => m &&& ~~~n }

/-- The elements of lanes of a warp that exit await no fill (R99): they read as their last value (R133). -/
def SetB.exit (st : SetB) (w : Nat) (n : Word) : SetB :=
  let gone (i : Nat) : Bool := i / 32 == st.pos w && n.getLsbD (i % 32)
  if st.members.getLsbD w then
    { st with g := st.g.map fun es => es.mapIdx fun i e => if gone i then { e with full := true } else e }
  else st

/-- EXIT (R149); in a handler it ends the launch (R412). -/
def execExitB (s : State) : Host.Outcome State Fault Refusal :=
  issuing s fun x =>
    let b := x.is.blk
    let w := x.is.warp
    if !x.legal {} [] then x.illegal
    else match x.b.halt with
      | some h =>
        if h.handler && h.trap.warp == w then
          x.s.updBlk b fun B => { B with halt := some { h with lost := true } }
        else exitLanes b w x
      | none => exitLanes b w x
where
  exitLanes (b w : Nat) (x : Ex) : State :=
    let s := x.s.updBlk b fun B =>
      { B.updWarp w fun W => W.exit x.is.lanes with sets := B.sets.map fun st => st.exit w x.is.lanes }
    let mine (q : DeqWait) : Bool := q.blk == b && q.warp == w && x.is.lanes.getLsbD q.lane
    let s := { s with deqWaits := s.deqWaits.filter fun q => !mine q }.updBlk b Block.grantAll
    s.masksChanged b w

/-- YIELD: timing only (R151). -/
def execYield (s : State) : Host.Outcome State Fault Refusal :=
  issuing s fun x => if !x.legal {} [] then x.illegal else x.lanewise fun _ l => .done l []

/-- NOP: nothing at lane scope, a rendezvous at a wider one (R151). -/
def execNop (f : FormSc) (s : State) : Host.Outcome State Fault Refusal :=
  issuing s fun x =>
    let sc := f.sc.toNat
    let wide := sc == 1 || sc == 2
    if !x.legal { mod := wide, k := wide, ss := sc == 2 } [] then x.illegalAt sc
    else if sc = 0 then x.lanewise fun _ l => .done l []
    else match x.unit sc with
      | none => x.illegalAt sc
      | some u => x.wide u x.pf.modOf.k.toNat fun s y => s.finish x.is.blk y

/-- SLEEP (R151). -/
def execSleep (f : FormEA) (s : State) : Host.Outcome State Fault Refusal :=
  issuing s fun x =>
    if !x.legal {} [⟨.v, f.a.toNat, 1, false⟩] then x.illegal
    else
      let b := x.is.blk
      let w := x.is.warp
      let til (l : Lane) : Nat := x.s.cycle + max (min (l.reg f.a.toNat).toNat 0xFFFFF) (stlOf l.run)
      let s := x.lanewise fun _ l =>
        match readiness l.view [⟨f.a.toNat, 1, false, .own⟩] [] with
        | .wait => .wait
        | .fault c => .fault c 0
        | .go => .done l []
      s.updWarp b w fun W => W.mapLanes x.is.lanes fun l y =>
        let before := x.w.lane l
        if y.pc == before.pc || til before = x.s.cycle then y
        else { y with status := .sleep (til before) }

/-- A delay of a lane ends (R107, R151). -/
def endDelay (b w l : Nat) (p : LaneStatus → Bool) (s : State) : Host.Outcome State Fault Refusal :=
  if p (s.lane b w l).status then .next (s.updLane b w l fun y => { y with status := .ready })
  else .fault .notEnabled

/-- SLEEP_END (R151). -/
def execSleepEnd (b w l : Nat) (s : State) : Host.Outcome State Fault Refusal :=
  endDelay b w l (fun st => match st with | .sleep til => decide (til ≤ s.cycle) | _ => false) s

/-- STL_END (R107). -/
def execStlEnd (b w l : Nat) (s : State) : Host.Outcome State Fault Refusal :=
  endDelay b w l (fun st => match st with | .stl til => decide (til ≤ s.cycle) | _ => false) s

/-- GROUPQ (R153). -/
def execGroupq (f : FormDB) (s : State) : Host.Outcome State Fault Refusal :=
  issuing s fun x =>
    x.uniform {} [wop f.d, litop f.b 3] true fun s o _ =>
      let B := s.blk o.blk
      let m := ((B.setOf o.warp f.b.toNat).map fun i => (B.set i).members).getD 0
      (s.setW o f.d [m], .done)

/-! ### Handlers and the host (R154 to R158) -/

/-- TRAP: BREAK with the code of the lowest faulting lane (R154). -/
def execTrap (f : FormEA) (s : State) : Host.Outcome State Fault Refusal :=
  issuing s fun x =>
    if !x.legal {} [⟨.v, f.a.toNat, 1, false⟩] then x.illegal
    else x.lanewise fun _ l =>
      match readiness l.view [⟨f.a.toNat, 1, false, .own⟩] [] with
      | .wait => .wait
      | .fault c => .fault c 0
      | .go => .fault .break_ (pair (l.reg f.a.toNat) 1)

/-- BKPT (R154). -/
def execBkpt (s : State) : Host.Outcome State Fault Refusal :=
  issuing s fun x => if !x.legal {} [] then x.illegal else x.trap .break_ x.is.lanes

/-- Whether a warp is in its handler (R155). -/
def Block.inHandler (b : Block) (w : Nat) : Bool :=
  match b.halt with
  | some h => h.handler && h.trap.warp == w
  | none => false

/-- RTE; the instances that arrivals and exits during the halt have made complete do so as the block goes on (R123,
R130, R155, R410). -/
def execRte (f : FormRte) (s : State) : Host.Outcome State Fault Refusal :=
  issuing s fun x =>
    let b := x.is.blk
    if !x.legal { mod := true } [] (x.b.inHandler x.is.warp) then x.illegal 1
    else x.wide (.warp x.is.warp) 15 fun s y =>
      (((s.dropInst b y).leaveHandler b f.skip).updBlk b Block.grantAll).settle b

/-- Whether the device may write request n of a context: there is a free slot and the reply to request
n − RINGN has been delivered (R157). CONS is read from memory. -/
def State.ringFree (s : State) (c : Ctx) : Bool :=
  let cons := wordOf (s.readPa (c.ring.toNat + 4) 4)
  decide ((c.svcProd - cons).toNat < c.ringN) &&
    !c.svcWaiting.contains (c.svcProd - BitVec.ofNat 32 c.ringN)

/-- Writes the next request of a context, PROD after it with a release at system scope, and raises the interrupt (R157).
The answer is the request's number. -/
def State.ringWrite (s : State) (ctx : Nat) (req : Word → List Byte) : State × Word :=
  let c := s.ctx ctx
  let n := c.svcProd
  let slot := c.ring.toNat + 0x40 + 32 * (n.toNat % c.ringN)
  let s := s.writePa slot (req n)
  let s := (s.writePa c.ring.toNat (leBytes 4 (n + 1).toNat)).publish [(slot, 32), (c.ring.toNat, 4)] 4 c.taskDie 0
  let s := s.updCtx ctx fun c => { c with svcProd := n + 1, svcWaiting := c.svcWaiting ++ [n] }
  (s.raise (.service ctx), n)

/-- Changes a walk. -/
def State.updWalk (s : State) (k : Nat) (f : Walk → Walk) : State := { s with walks := s.walks.modify k f }

/-- A page request of a walk (R294): the argument is the node, or 0xFFFF_FFFF for a page that is no node's
(assumption 40). -/
def State.pageWrite (s : State) (k node : Nat) (va : DWord) : State :=
  let w := s.walks.getD k default
  let (s, n) := s.ringWrite w.ctx fun n =>
    leBytes 4 0xFFFF0001 ++ leBytes 4 node ++ leBytes 8 va.toNat ++ leBytes 1 (w.cl / Config.clusters)
      ++ leBytes 1 (w.cl % Config.clusters) ++ leBytes 2 0xFFFF ++ leBytes 4 n.toNat ++ leBytes 8 0
  s.updWalk k fun w => { w with pages := w.pages ++ [⟨n, node, va, none⟩], nPage := w.nPage + 1, want := none }

/-- The first walk of a context whose page request waits for the ring. -/
def State.wantingWalk (s : State) (ctx : Nat) : Option (Nat × Nat × DWord) :=
  s.walks.zipIdx.findSome? fun (w, k) => if w.ctx == ctx then w.want.map fun (n, va) => (k, n, va) else none

/-- The request of SYSC (R156). -/
def Block.sysRequest (b : Block) (w : Nat) (code arg : Word) (n : Word) : List Byte :=
  let faddr := match b.halt with
    | some h => if h.handler && h.trap.warp == w then h.trap.faddr else 0
    | none => 0
  leBytes 4 code.toNat ++ leBytes 4 arg.toNat ++ leBytes 8 faddr.toNat ++ leBytes 1 b.die ++ leBytes 1 b.cluster
    ++ leBytes 1 b.core ++ leBytes 1 w ++ leBytes 4 n.toNat ++ leBytes 8 0

/-- The request of a SYSC is written, and its warp waits for the reply (R156). -/
def State.sysWrite (s : State) (b w d : Nat) (code arg : Word) : State :=
  let B := s.blk b
  let (s, n) := s.ringWrite B.ctx (B.sysRequest w code arg)
  s.updWarp b w fun W => { W with wait := some (.reply n d) }

/-- SYSC (R156). On a full ring its lanes are stalled, and the warp keeps the request for RING_SLOT_FREE. -/
def execSysc (f : FormDAB) (s : State) : Host.Outcome State Fault Refusal :=
  issuing s fun x =>
    let b := x.is.blk
    let w := x.is.warp
    if !x.legal { mod := true, k := true } [wop f.d, wop f.a, wop f.b] then x.illegalAt 1
    else x.wide (.warp w) x.pf.modOf.k.toNat fun s y =>
      let n := x.neededHere s y
      let code := (s.warp b w).reg f.a.toNat
      let arg := (s.warp b w).reg f.b.toNat
      if s.deqBlocks b w n then x.waitFill s y
      else
      let s := s.releaseLanes b w n 4
      if s.ringFree (s.ctx x.b.ctx) && !(s.stalls.any fun r => r.ctx == x.b.ctx && r.on == .ring)
          && (s.wantingWalk x.b.ctx).isNone then
        (s.unstalled b w).sysWrite b w f.d.toNat code arg |>.finish b y
      else
        ((s.stalled b w .ring).updBlk b fun B => B.park w n (.stall .ring)).updWarp b w fun W =>
          { W with wait := if W.wait.isSome then W.wait else some (.ring code arg f.d.toNat y.addr) }

/-- RING_SLOT_FREE: the device reads an advanced CONS and writes the request of the first stalled SYSC of a
context whose warp may go on, or of a walk that waits for the ring (R156, R157, R294). -/
def execRingSlotFree (ctx : Nat) (s : State) : Host.Outcome State Fault Refusal :=
  match s.stalls.find? fun r => r.ctx == ctx && r.on == .ring && (s.blk r.blk).warpRuns r.warp with
  | none =>
    match s.wantingWalk ctx with
    | none => .fault .notEnabled
    | some (k, node, va) =>
      if s.ringFree (s.ctx ctx) then .next ((s.pageWrite k node va).consumed ctx 0 .ring) else .fault .notEnabled
  | some r =>
    if !s.ringFree (s.ctx ctx) then .fault .notEnabled
    else match (s.warp r.blk r.warp).wait with
      | some (.ring code arg d a) =>
        match (s.blk r.blk).insts.find? fun y => y.u == .warp r.warp && y.granted && y.addr == a with
        | none => .next (s.unstalled r.blk r.warp)
        | some y =>
          let s := (s.sysWrite r.blk r.warp d code arg).finish r.blk y
          .next ((s.unstalled r.blk r.warp).consumed ctx r.blk .ring)
      | _ => .next (s.unstalled r.blk r.warp)

/-- Whether an atomic or a reduction counts events (R359, R362). -/
def AtomOpn.counts (o : AtomOpn) : Bool := o == .fadd || o == .hadd2 || o == .badd2

/-- The events of a warp's own atomics and reductions are counted before it reads a counter: those that count, and
what their words' order puts before them, are performed (R158); operations that the warp has posted to an engine are
not (assumption 85). -/
def State.countAtoms (s : State) (b w : Nat) : State :=
  let mine := (s.atoms.filter fun x => x.blk == b && x.warp == w && x.opn.counts).map (·.id)
  s.performPending fun x => mine.contains x.id

/-- FPXR (R158). -/
def execFpxr (f : FormDA) (s : State) : Host.Outcome State Fault Refusal :=
  issuing s fun x =>
    x.uniform {} [wop f.d, wop f.a] true fun s o w =>
      let s := s.countAtoms o.blk o.warp
      (s.setW o f.d [(s.launch x.b.launch).fpx.getD (w f.a.toNat).toNat 0], .done)

/-- FPXC (R158). -/
def execFpxc (f : FormDA) (s : State) : Host.Outcome State Fault Refusal :=
  issuing s fun x =>
    x.uniform {} [wop f.d, wop f.a] true fun s o w =>
      let s := s.countAtoms o.blk o.warp
      let i := (w f.a.toNat).toNat
      let old := (s.launch x.b.launch).fpx.getD i 0
      let s := s.setW o f.d [old]
      (s.updLaunch x.b.launch fun L =>
        if i = 2 ^ 32 - 1 then { L with fpx := L.fpx.map fun _ => 0 } else { L with fpx := L.fpx.set i 0 }, .done)

/-! ### Steps of rendezvous and of traps -/

/-- RENDEZVOUS_COMPLETE: an instance that has all the lanes it needs may issue (R123, R128). -/
def execRendezvousComplete (b k : Nat) (s : State) : Host.Outcome State Fault Refusal :=
  let B := s.blk b
  match B.insts[k]? with
  | none => .fault .notEnabled
  | some y => if B.completesNow y then .next (s.updBlk b fun B => B.grant k y) else .fault .notEnabled

/-- SIBLING_STOP: lanes that have executed part of a run stand at its first word; those of an instance that has completed
keep their run, and go on with it (R108, R123, R404). -/
def execSiblingStop (b w : Nat) (s : State) : Host.Outcome State Fault Refusal :=
  match (s.blk b).halt with
  | none => .fault .notEnabled
  | some h =>
    if h.stopped.getD w true || w = h.trap.warp then .fault .notEnabled
    else
      .next (s.updBlk b fun B =>
        { B.updWarp w (fun W => { W with lanes := W.lanes.mapIdx fun i l =>
            if l.status == .ready && (B.doneInst w i).isNone then { l with pc := l.restart, run := [] } else l }) with
          halt := some { h with stopped := h.stopped.set w true } })

end Sys2Proof.Machine
end

