-- ==== Sys2Proof/Machine/Sync.lean ====
section
/-! DEFINITION. Atomics and reductions (R356 to R363), sync words (R233 to R236), pipes (R364 to R366), and the
task system (R46 to R52, R367 to R371). -/

namespace Sys2Proof.Machine

/-! ### Atomics and reductions -/

/-- What the instructions of the chapter accept: K at warp scope (R355). -/
def syncAcc (warp : Bool) (ord : List Nat) (ms0 : Bool) : Acc := { mod := true, k := warp, ord := ord, ms0 := ms0 }

/-- The cluster of the package whose service warp is the home of an address for a context (R357). -/
def State.homeCluster (s : State) (ctx pa : Nat) : Nat :=
  let c := s.ctx ctx
  let die := if isHost pa then 0 else homeDie pa
  let x := pa / 64
  let h := x % 2 ^ 16 ^^^ x / 2 ^ 16 % 2 ^ 16 ^^^ x / 2 ^ 32 % 2 ^ 14
  let mine := (List.range Config.clusters).filter fun k => (c.clusterMask die).testBit k
  clusterNo die (if c.sealed_ && !mine.isEmpty then mine.getD (h % mine.length) 0 else h % Config.clusters)

/-- Whether the queue of the home of an address is full (R357). -/
def State.aswFull (s : State) (ctx pa : Nat) : Bool :=
  let home := s.homeCluster ctx pa
  let there (x : AtomOp) : Bool := !x.scratch && s.homeCluster (s.blk x.blk).ctx x.pa == home
  Config.aswQueue ≤ (s.atoms.filter there).length

/-- An atomic or reduction is sent to its home, or to the scratchpad unit, its destination empty; a lane whose operation
has an acquire goes on when the reply has been written (R358, R359, R361, R363). -/
def State.postAtom (s : State) (o : Who) (opn : AtomOpn) (scratch : Bool) (pa : Nat) (b b2 : Word) (dest : Option Dest)
    (sem ms : Nat) : State × AccRes :=
  if !scratch && s.aswFull (s.blk o.blk).ctx pa then (s, .stall .asw)
  else
    let rel := o.rel s sem ms
    let (id, s) := s.fresh
    let acq := semAcquires sem && dest.isSome
    let op : AtomOp :=
      { id := id, blk := o.blk, warp := o.warp, lane := o.lane, opn := opn, pa := pa, b := b, b2 := b2, dest := dest,
        issue := (s.warp o.blk o.warp).issued, cycle := s.cycle, scratch := scratch, acq := if acq then some ms else none,
        rel := rel }
    let s := match dest with | some d => s.emptyDest o.blk o.warp d 1 id | none => s
    let s := if scratch then s else s.updWarp o.blk o.warp fun W => W.wrote [(pa, 4)]
    ({ s with atoms := s.atoms ++ [op] }, if acq then .held else .done)

/-- The effect of a global atomic or reduction on a view. -/
def atomAct (x : Ex) (opn : AtomOpn) (a b bn : Nat) (d : Option Nat) (s : State) (o : Who) (v : View)
    (dest : Nat → Dest) : State × AccRes :=
  let va := v.pair a
  match s.laneAccess o.blk va 4 .atomic o.skip with
  | (s, .fault c) => (s, .fault c va)
  | (s, .ok _ pa) =>
    s.postAtom o opn false pa (v.val b) (if bn = 2 then v.val (b + 1) else 0) (d.map dest) x.pf.sem x.pf.ms

/-- The effect of a scratchpad atomic or reduction (R361). -/
def scratchAct (x : Ex) (opn : AtomOpn) (a b bn : Nat) (d : Option Nat) (s : State) (o : Who) (v : View)
    (dest : Nat → Dest) : State × AccRes :=
  let off := (v.val a).toNat
  match spCheck (s.blk o.blk).spSize off 4 with
  | some (c, f) => (s, .fault c f)
  | none => s.postAtom o opn true off (v.val b) (if bn = 2 then v.val (b + 1) else 0) (d.map dest) x.pf.sem 0

/-- ATOM, ATOMB and ATOMF. -/
def atomGlobal (f : FormT) (bn : Nat) (opn : AtomOpn) (s : State) : Host.Outcome State Fault Refusal :=
  issuing s fun x =>
    let sc := if f.warp then 1 else 0
    let c := scopeClass sc
    x.mem sc (syncAcc f.warp [0, 1, 2, 3] false)
      [⟨c, f.d.toNat, 1, false⟩, ⟨c, f.a.toNat, 2, false⟩, ⟨c, f.b.toNat, bn, false⟩] true
      { srcs := [⟨f.a.toNat, 2, false, .own⟩, ⟨f.b.toNat, bn, false, .own⟩], dst := [f.d.toNat], gn := f.gn,
        gp := f.gp, counted := true,
        act := atomAct x opn f.a.toNat f.b.toNat bn (some f.d.toNat) }

/-- ATOMS. -/
def atomScratch (f : FormT) (bn : Nat) (opn : AtomOpn) (s : State) : Host.Outcome State Fault Refusal :=
  issuing s fun x =>
    let sc := if f.warp then 1 else 0
    let c := scopeClass sc
    x.mem sc (syncAcc f.warp [1, 2, 3] true)
      [⟨c, f.d.toNat, 1, false⟩, ⟨c, f.a.toNat, 1, false⟩, ⟨c, f.b.toNat, bn, false⟩] true
      { srcs := [⟨f.a.toNat, 1, false, .own⟩, ⟨f.b.toNat, bn, false, .own⟩], dst := [f.d.toNat], gn := f.gn,
        gp := f.gp, counted := true,
        act := scratchAct x opn f.a.toNat f.b.toNat bn (some f.d.toNat) }

/-- RED, global or in scratchpad (R362). -/
def reduce (f : FormR) (opn : AtomOpn) (s : State) : Host.Outcome State Fault Refusal :=
  issuing s fun x =>
    let sc := if f.warp then 1 else 0
    let c := scopeClass sc
    let n := if f.sp then 1 else 2
    x.mem sc (syncAcc f.warp [2] f.sp) [⟨c, f.a.toNat, n, false⟩, ⟨c, f.b.toNat, 1, false⟩] true
      { srcs := [⟨f.a.toNat, n, false, .own⟩, ⟨f.b.toNat, 1, false, .own⟩], gn := f.gn, gp := f.gp,
        counted := true,
        act := if f.sp then scratchAct x opn f.a.toNat f.b.toNat 1 none
               else atomAct x opn f.a.toNat f.b.toNat 1 none }

def execAtomAdd (f : FormT) (s : State) := atomGlobal f 1 .add s
def execAtomExch (f : FormT) (s : State) := atomGlobal f 1 .exch s
def execAtomMins (f : FormT) (s : State) := atomGlobal f 1 .mins s
def execAtomMaxs (f : FormT) (s : State) := atomGlobal f 1 .maxs s
def execAtombAnd (f : FormT) (s : State) := atomGlobal f 1 .and s
def execAtombOr (f : FormT) (s : State) := atomGlobal f 1 .or s
def execAtombXor (f : FormT) (s : State) := atomGlobal f 1 .xor s
def execAtombCas (f : FormT) (s : State) := atomGlobal f 2 .cas s
def execAtomfFadd (f : FormT) (s : State) := atomGlobal f 1 .fadd s
def execAtomfFmin (f : FormT) (s : State) := atomGlobal f 1 .fmin s
def execAtomfFmax (f : FormT) (s : State) := atomGlobal f 1 .fmax s
def execAtomfIncw (f : FormT) (s : State) := atomGlobal f 1 .incw s
def execAtomsAdd (f : FormT) (s : State) := atomScratch f 1 .add s
def execAtomsExch (f : FormT) (s : State) := atomScratch f 1 .exch s
def execAtomsCas (f : FormT) (s : State) := atomScratch f 2 .cas s
def execAtomsMaxn (f : FormT) (s : State) := atomScratch f 1 .maxn s
def execRedAdd (f : FormR) (s : State) := reduce f .add s
def execRedMins (f : FormR) (s : State) := reduce f .mins s
def execRedMaxs (f : FormR) (s : State) := reduce f .maxs s
def execRedAnd (f : FormR) (s : State) := reduce f .and s
def execRedOr (f : FormR) (s : State) := reduce f .or s
def execRedXor (f : FormR) (s : State) := reduce f .xor s
def execRedFadd (f : FormR) (s : State) := reduce f .fadd s
def execRedHadd2 (f : FormR) (s : State) := reduce f .hadd2 s
def execRedBadd2 (f : FormR) (s : State) := reduce f .badd2 s

/-- ASW_REQUEST (R358, R361). -/
def execAswRequest (k : Nat) (s : State) : Host.Outcome State Fault Refusal :=
  opOf s.atoms (fun x => x.id == k && s.isFirst x.pend) fun op => .next (s.performAtom op)

/-- ATOMIC_REPLY (R359). -/
def execAtomicReply (k : Nat) (s : State) : Host.Outcome State Fault Refusal :=
  opOf s.replies (fun x => x.id == k) fun op => .next (s.performReply op)

/-! ### Sync words (R233 to R236) -/

/-- A sync word. -/
structure SyncWord where
  target : Nat
  count : Nat
  gen : Word
  flags : Word
  deriving DecidableEq, Repr, Inhabited

def Block.syncWord (b : Block) (off : Nat) : SyncWord :=
  let bs := b.readSp off 16
  ⟨fieldAt bs 0 4, fieldAt bs 4 4, BitVec.ofNat 32 (fieldAt bs 8 4), BitVec.ofNat 32 (fieldAt bs 12 4)⟩

def Block.putSync (b : Block) (off : Nat) (x : SyncWord) : Block :=
  b.writeSp off (leBytes 4 x.target ++ leBytes 4 x.count ++ leBytes 4 x.gen.toNat ++ leBytes 4 x.flags.toNat)

/-- An arrival of n bytes (R234). -/
def SyncWord.arrive (x : SyncWord) (n : Nat) : SyncWord :=
  let c := x.count + n
  if x.target = 0 then
    if 2 ^ 32 ≤ c then { x with count := 2 ^ 32 - 1, flags := x.flags ||| 2 } else { x with count := c }
  else { x with count := c % x.target, gen := x.gen + BitVec.ofNat 32 (c / x.target) }

/-- An engine's arrival at a sync word, after every write of the block to the word (R234, R236). -/
def State.arrival (s : State) (b off n : Nat) (err : Bool) : State :=
  let s := s.settleSp b off 16
  s.updBlk b fun B =>
    let x := (B.syncWord off).arrive n
    B.putSync off (if err then { x with flags := x.flags ||| 1 } else x)

/-- A SYNCW instruction: the offset in wA is checked for 16 bytes (R235); it waits for a DEQ of its lanes (R438). -/
def Ex.syncw (x : Ex) (ops : List Opd) (a : BitVec 6) (act : State → Who → Nat → (Nat → Word) → State × AccRes) :
    State :=
  x.uniform {} (wop a :: ops) true fun s o w =>
    let off := (w a.toNat).toNat
    match spCheck (s.blk o.blk).spSize off 16 with
    | some (c, f) => (s, .fault c f)
    | none => if s.deqOpen o.blk o.warp o.mask then (s, .wait) else act (s.settleSp o.blk off 16) o off w

/-- SWARM (R235). -/
def execSwarm (f : FormAB) (s : State) : Host.Outcome State Fault Refusal :=
  issuing s fun x => x.syncw [wop f.b] f.a fun s o off w =>
    (s.updBlk o.blk fun B => B.putSync off
      { B.syncWord off with target := min (w f.b.toNat).toNat (2 ^ 31), count := 0, flags := 0 }, .done)

/-- SWWAIT (R235). -/
def execSwwait (f : FormDAB) (s : State) : Host.Outcome State Fault Refusal :=
  issuing s fun x => x.syncw [wop f.d, wop f.b] f.a fun s o off w =>
    let y := (s.blk o.blk).syncWord off
    let gen := w f.b.toNat
    if passed y.gen gen then ((s.acquire o.blk o.warp 0).setW o f.d [y.flags], .done)
    else (s.updWarp o.blk o.warp fun W => { W with wait := some (.sync off gen f.d.toNat) }, .done)

/-- SWWAIT_RELEASE (R235). -/
def execSwwaitRelease (b w : Nat) (s : State) : Host.Outcome State Fault Refusal :=
  s.release? b w fun q =>
    match q with
    | .sync off gen d =>
      let y := (s.blk b).syncWord off
      if passed y.gen gen then some ((s.acquire b w 0).updWarp b w fun W => W.setReg d y.flags) else none
    | _ => none

/-- SWADD (R235). -/
def execSwadd (f : FormAB) (s : State) : Host.Outcome State Fault Refusal :=
  issuing s fun x => x.syncw [wop f.b] f.a fun s o off w =>
    ((s.releaseLanes o.blk o.warp o.mask 0).arrival o.blk off (w f.b.toNat).toNat false, .done)

/-- SWRD (R235). -/
def execSwrd (f : FormDA) (s : State) : Host.Outcome State Fault Refusal :=
  issuing s fun x => x.syncw [wop f.d 2] f.a fun s o off _ =>
    let y := (s.blk o.blk).syncWord off
    (s.setW o f.d [y.gen, BitVec.ofNat 32 y.count], .done)

/-! ### Pipes (R364 to R366) -/

def Block.pipe (b : Block) (p : Nat) : List PipeEntry := b.pipes.getD p []

/-- Whether a stamp of a warp has drained (R365). -/
def Block.drained (b : Block) (e : PipeEntry) : Bool :=
  decide (((b.warp e.warp).drained - e.stamp).toNat < 2 ^ 31)

/-- Whether the head of a pipe may be popped. -/
def Block.poppable (b : Block) (p : Nat) : Bool :=
  match b.pipe p with
  | [] => false
  | e :: _ => b.drained e

/-- The POP of a pipe that waits first, by its place in the order of issue. -/
def Block.firstPop (b : Block) (p : Nat) : Option Nat :=
  b.warps.foldl (fun m W => match W.wait, m with
    | some (.pop q _ k), none => if q = p then some k else none
    | some (.pop q _ k), some j => if q = p && k < j then some k else some j
    | _, _ => m) none

/-- The eight words of an entry from a register on. -/
def entryWords (w : Nat → Word) (first : Nat) : List Word := (codes first 8).map w

/-- Appends an entry with the pusher's ISSUED as its stamp; the writes that this counts happen before a POP of it (R366,
R384). -/
def State.pushPipe (s : State) (o : Who) (p : Nat) (ws : List Word) : State :=
  let stamp := (s.warp o.blk o.warp).issued
  let s := s.share (s.blk o.blk).coreNo (s.warp o.blk o.warp).wset
  s.updBlk o.blk fun B => { B with pipes := B.pipes.modify p fun es => es ++ [⟨ws, stamp, o.warp⟩] }

/-- PUSH (R366). -/
def execPush (f : FormAB) (s : State) : Host.Outcome State Fault Refusal :=
  issuing s fun x =>
    x.uniform {} [wop f.a 8, litop f.b 15] true fun s o w =>
      let p := f.b.toNat
      if Config.pipe ≤ ((s.blk o.blk).pipe p).length then (s, .stall (.pipe p))
      else (s.pushPipe o p (entryWords w f.a.toNat), .done)

/-- PUSHT (R366). -/
def execPusht (f : FormDAB) (s : State) : Host.Outcome State Fault Refusal :=
  issuing s fun x =>
    x.uniform {} [wop f.d, wop f.a 8, litop f.b 15] true fun s o w =>
      let p := f.b.toNat
      if Config.pipe ≤ ((s.blk o.blk).pipe p).length then (s.setW o f.d [0], .done)
      else ((s.pushPipe o p (entryWords w f.a.toNat)).setW o f.d [1], .done)

/-- Removes the head of a pipe into the registers of a warp, with an acquire at core scope (R366). -/
def State.popPipe (s : State) (b w p d : Nat) : State :=
  let e := ((s.blk b).pipe p).headD default
  let s := s.updBlk b fun B => { B with pipes := B.pipes.modify p List.tail }
  ((s.updWarp b w fun W => W.setRegs d e.words).acquire b w 0).consumed (s.blk b).ctx b (.pipe p)

/-- POP (R366). -/
def execPop (f : FormDB) (s : State) : Host.Outcome State Fault Refusal :=
  issuing s fun x =>
    x.uniform {} [wop f.d 8, litop f.b 15] true fun s o _ =>
      let p := f.b.toNat
      let B := s.blk o.blk
      if B.poppable p && (B.firstPop p).isNone then (s.popPipe o.blk o.warp p f.d.toNat, .done)
      else
        (s.updBlk o.blk fun B => { B.updWarp o.warp (fun W =>
          { W with wait := some (.pop p f.d.toNat B.popOrder) }) with popOrder := B.popOrder + 1 }, .done)

/-- POP_RELEASE: the POP that has waited longest takes a head whose stamp has drained (R366). -/
def execPopRelease (b w : Nat) (s : State) : Host.Outcome State Fault Refusal :=
  s.release? b w fun q =>
    match q with
    | .pop p d k =>
      if (s.blk b).poppable p && (s.blk b).firstPop p == some k then some (s.popPipe b w p d) else none
    | _ => none

/-- POPT (R366). -/
def execPopt (f : FormDB) (s : State) : Host.Outcome State Fault Refusal :=
  issuing s fun x =>
    x.uniform {} [wop f.d 8, litop f.b 15] (f.d.toNat + 9 ≤ 32) fun s o _ =>
      let p := f.b.toNat
      let B := s.blk o.blk
      let status (s : State) (v : Word) : State :=
        s.updWarp o.blk o.warp fun W => W.setReg (f.d.toNat + 8) v
      if B.poppable p && (B.firstPop p).isNone then (status (s.popPipe o.blk o.warp p f.d.toNat) 1, .done)
      else (status s 0, .done)

/-- PIPEQ (R366). -/
def execPipeq (f : FormDB) (s : State) : Host.Outcome State Fault Refusal :=
  issuing s fun x =>
    x.uniform {} [wop f.d, litop f.b 15] true fun s o _ =>
      let B := s.blk o.blk
      let n := (B.pipe f.b.toNat).length
      (s.setW o f.d [BitVec.ofNat 32 (n + if B.poppable f.b.toNat then 16 else 0)], .done)

/-! ### The task system (R46 to R52, R367 to R371) -/

def Ctx.queue (c : Ctx) (q : Nat) : TaskQ := c.queues.getD q default

def State.updQueue (s : State) (ctx q : Nat) (f : TaskQ → TaskQ) : State :=
  s.updCtx ctx fun c => { c with queues := c.queues.modify q f }

/-- Whether a queue has room for so many entries; one that is not enabled is full (R371). An entry keeps its
slot until it is retired (R417). -/
def TaskQ.room (q : TaskQ) (n : Nat) : Bool := q.enable && q.entries.length + n ≤ Config.taskQueue

/-- The first entry that no one has taken; a queue that is not enabled is empty (R368). -/
def TaskQ.head (q : TaskQ) : Option (Nat × QEntry) :=
  if q.enable then (q.entries.zipIdx.find? fun (e, _) => e.taken.isNone).map fun (e, i) => (i, e) else none

/-- An entry with FLAGS as the device writes it on an enqueue (R30). -/
def freshEntry (ws : List Word) (cancelled : Bool) : QEntry :=
  let w0 := ws.headD 0 &&& 0xFFFF#32
  ⟨(if cancelled then w0 ||| 0x20000#32 else w0) :: ws.tail, none⟩

/-- The entries that a warp holds (R368). -/
def Ctx.held (c : Ctx) (b w : Nat) : Nat :=
  (c.queues.flatMap fun q => q.entries.filter fun e =>
    match e.taken with | some (b', w', _, _) => b' == b && w' == w | none => false).length

/-- The YIELD marker (R368). -/
def yieldMarker : List Word := [0x80000000#32, 0xFFFFFFFF#32, 0, 0, 0, 0, 0, 0]

/-- Whether a lane that waits in a DEQ could be filled now (R50, R368, R407). -/
def State.deqReady (s : State) (q : DeqWait) : Bool :=
  let B := s.blk q.blk
  let c := s.ctx B.ctx
  B.warpRuns q.warp && (c.preState == .draining || ((c.queue q.q).head.isSome && c.held q.blk q.warp < 64))

/-- The entry of a DEQ arrives in its lane, and lanes of the block that wait for a fill look again (R98, R368). -/
def State.fillLane (s : State) (b w l d : Nat) (vals : List Word) : State :=
  (s.writeDest b w (.v l d) vals false).updBlk b Block.wake

/-- A lane is filled: with the YIELD marker while a pre-emption is pending, else with the head, taken, and an
acquire at package scope (R52, R368). -/
def State.deqTake (s : State) (b w l d q : Nat) : State :=
  let ctx := (s.blk b).ctx
  let c := s.ctx ctx
  if c.preState == .draining then s.fillLane b w l d yieldMarker
  else match (c.queue q).head with
    | none => s
    | some (i, e) =>
      let (order, s) := s.fresh
      let s := s.updQueue ctx q fun t =>
        { t with entries := t.entries.set i { e with taken := some (b, w, l, order) } }
      ((s.fillLane b w l d e.words).acquire b w 3).consumed ctx b (.queue q)

/-- DEQ (R368). -/
def execDeq (f : FormDB) (s : State) : Host.Outcome State Fault Refusal :=
  issuing s fun x =>
    x.mem 0 (syncAcc false [] false) [⟨.v, f.d.toNat, 8, false⟩] true
      { srcs := [], dst := codes f.d.toNat 8,
        act := fun s o _ _ =>
          let q := f.b.toNat
          let (id, s) := s.fresh
          let w : DeqWait := ⟨id, o.blk, o.warp, o.lane, f.d.toNat, q, x.addr⟩
          let ctx := x.b.ctx
          let ahead := s.deqWaits.any fun y => y.q == q && (s.blk y.blk).ctx == ctx && s.deqReady y
          if s.deqReady w && !ahead then (s.deqTake o.blk o.warp o.lane f.d.toNat q, .done)
          else
            let s := s.updLane o.blk o.warp o.lane fun l => l.markEmpty f.d.toNat 8
            ({ s with deqWaits := s.deqWaits ++ [w] }, .done) }

/-- DEQ_FILL: the first waiting lane of a queue that can be filled (R50). -/
def execDeqFill (k : Nat) (s : State) : Host.Outcome State Fault Refusal :=
  match s.deqWaits[k]? with
  | none => .fault .notEnabled
  | some w =>
    let ctx := (s.blk w.blk).ctx
    let ahead := (s.deqWaits.take k).any fun y => y.q == w.q && (s.blk y.blk).ctx == ctx && s.deqReady y
    if !s.deqReady w || ahead then .fault .notEnabled
    else .next ({ s with deqWaits := s.deqWaits.eraseIdx k }.deqTake w.blk w.warp w.lane w.d w.q)

/-- Appends an entry to a queue. -/
def State.enqueue (s : State) (ctx q : Nat) (e : QEntry) : State :=
  s.updQueue ctx q fun t => { t with entries := t.entries ++ [e] }

/-- An operation with an index outside the context's range, or on a counter that is idle: counted and logged
(R31, R48, R370). -/
def State.countOutside (s : State) (ctx : Nat) (index : Word) : State :=
  let c := s.ctx ctx
  (s.updCtx ctx fun c => { c with outOfRange := min (c.outOfRange + 1) 65535 }).log c.taskDie
    { kind := 7, ctx := some ctx, die := some c.taskDie, aux := index.toNat }

/-- A counter fires: its template enters its queue, or the buffer of its die where the queue is full or older
templates wait for it (R48, R49). -/
def State.fire (s : State) (ctx die no : Nat) (c : Counter) : State :=
  let q := c.queue.toNat
  let e := freshEntry c.template c.cxl
  let waits := (s.die die).fired.any fun (x, y, _) => x == ctx && y == q
  let s := s.updDie die fun d => { d with counters := d.counters.set no { c with count := 0, st := .fired } }
  if ((s.ctx ctx).queue q).room 1 && !waits then s.enqueue ctx q e
  else s.updDie die fun d => { d with fired := d.fired ++ [(ctx, q, e.words)] }

/-- A counter after an operation, and whether it fires (R48). -/
def Counter.after (c : Counter) (k : CtrKind) : Counter × Bool :=
  match k with
  | .done cancelled =>
    let c := { c with cxl := c.cxl || cancelled, count := c.count - 1 }
    (c, c.count == 0#32)
  | .depadd n =>
    let x : Int := c.count.toNat + n.toInt
    let c := { c with count := BitVec.ofInt 32 (if x < 0 then 0 else x) }
    (c, c.count == 0#32)
  | .cancel => ({ c with cxl := true, count := 0 }, true)

/-- The counter that a context's index names: its die and its number there; none outside the range (R46). -/
def Ctx.counterOf (c : Ctx) (i : Word) : Option (Nat × Nat) :=
  if i.toNat < c.ccount then some (c.taskDie, c.cbase + i.toNat) else none

/-- The effect of an operation that has reached its counter (R48). -/
def State.counterOp (s : State) (op : CtrOp) : State :=
  let c := s.ctx op.ctx
  match c.counterOf op.index with
  | none => s.countOutside op.ctx op.index
  | some (die, no) =>
    let x := (s.die die).counters.getD no default
    match x.st with
    | .idle => s.countOutside op.ctx op.index
    | .fired => s.updCtx op.ctx fun c => { c with absorbed := min (c.absorbed + 1) 65535 }
    | .armed =>
      let (y, fires) := x.after op.kind
      if fires then s.fire op.ctx die no y
      else s.updDie die fun d => { d with counters := d.counters.set no y }

/-- Whether an operation would fire its counter as it stands, while so many templates more than the buffer holds are
on their way into it and it has no room (R49). -/
def State.wouldStall (s : State) (op : CtrOp) (more : Nat) (c : Option Counter := none) : Bool :=
  match (s.ctx op.ctx).counterOf op.index with
  | none => false
  | some (die, no) =>
    let x := c.getD ((s.die die).counters.getD no default)
    Config.firedBuffer ≤ (s.die die).fired.length + more && x.st == .armed && (x.after op.kind).2

/-- What the operations on their way to a die leave of a counter, and how many of them fire one (R48). -/
def State.foresee (s : State) (die no : Nat) : Counter × Nat :=
  let one (acc : List (Nat × Counter) × Nat) (op : CtrOp) : List (Nat × Counter) × Nat :=
    match (s.ctx op.ctx).counterOf op.index with
    | none => acc
    | some (d, i) =>
      let x := ((acc.1.find? fun p => p.1 == i).map (·.2)).getD ((s.die die).counters.getD i default)
      if d = die && x.st == .armed then
        let (y, fires) := x.after op.kind
        ((i, if fires then { y with st := .fired } else y) :: acc.1, acc.2 + if fires then 1 else 0)
      else acc
  let (m, n) := s.ctrOps.foldl one ([], 0)
  (((m.find? fun p => p.1 == no).map (·.2)).getD ((s.die die).counters.getD no default), n)

/-- Sends an operation to the task home die; where it would fire a counter into a full buffer, those before it performed,
its warp stalls until it has been performed (R49, R369; assumption 69). -/
def State.sendCounter (s : State) (op : CtrOp) : State × AccRes :=
  let (die, no) := ((s.ctx op.ctx).counterOf op.index).getD (0, 0)
  let (c, n) := s.foresee die no
  ({ s with ctrOps := s.ctrOps ++ [{ op with stuck := s.wouldStall op n (some c) }] }, .done)

/-- COUNTER_OPERATION: the operations of one warp arrive in the order in which they were sent, those of others in any
order. One that would fire a counter into a full buffer stalls its warp, and is performed once there is room (R48, R49,
R369). -/
def execCounterOperation (k : Nat) (s : State) : Host.Outcome State Fault Refusal :=
  match s.ctrOps[k]? with
  | none => .fault .notEnabled
  | some op =>
    if (s.ctrOps.take k).any fun y => y.blk == op.blk && y.warp == op.warp then .fault .notEnabled
    else if !s.wouldStall op 0 then .next ({ s with ctrOps := s.ctrOps.eraseIdx k }.counterOp op)
    else if op.stuck then .fault .notEnabled
    else .next { s with ctrOps := s.ctrOps.set k { op with stuck := true } }

/-- Whether a warp is stalled behind an operation of it that would fire a counter into a full buffer (R49). -/
def State.firedStall (s : State) (b w : Nat) : Bool := s.ctrOps.any fun op => op.stuck && op.blk == b && op.warp == w

/-- TEMPLATE_ENQUEUE: the first buffered template whose queue has a free slot (R49). -/
def execTemplateEnqueue (die : Nat) (s : State) : Host.Outcome State Fault Refusal :=
  let fired := (s.die die).fired
  match fired.findIdx? fun (c, q, _) => ((s.ctx c).queue q).room 1 with
  | none => .fault .notEnabled
  | some i =>
    let (c, q, ws) := fired.getD i default
    .next ((s.updDie die fun d => { d with fired := d.fired.eraseIdx i }).enqueue c q ⟨ws, none⟩)

/-- Retires the oldest entry that a lane took from a queue (R369). -/
def TaskQ.retire (q : TaskQ) (b w l : Nat) : TaskQ :=
  let mine (e : QEntry) : Option Nat :=
    match e.taken with | some (b', w', l', k) => if b' == b && w' == w && l' == l then some k else none | none => none
  let oldest := (q.entries.filterMap mine).foldl (fun (m : Option Nat) k => match m with
    | none => some k
    | some j => some (min j k)) none
  { q with entries := q.entries.filter fun e => (mine e).isNone || mine e != oldest }

/-- The operands of TASK at a scope. -/
def taskOps (warp : Bool) (a : BitVec 6) (n : Nat) : Opd := ⟨if warp then .w else .v, a.toNat, n, false⟩

/-- An operation of a lane or a warp on a counter. -/
def Who.ctrOp (o : Who) (ctx : Nat) (index : Word) (k : CtrKind) : CtrOp :=
  { ctx := ctx, index := index, kind := k, blk := o.blk, warp := o.warp }

/-- Retires the entry of a DONE; that is a consumption where one was taken (R59, R369). -/
def State.retire (s : State) (ctx q b w l : Nat) : State :=
  let t := (s.ctx ctx).queue q
  if (t.retire b w l).entries.length = t.entries.length then s
  else (s.updQueue ctx q fun t => t.retire b w l).consumed ctx b (.queue q)

/-- DONE: its entry is retired first (R48, R369; assumption 70). -/
def execDone (f : FormTk) (s : State) : Host.Outcome State Fault Refusal :=
  issuing s fun x =>
    x.mem (if f.warp then 1 else 0) (syncAcc f.warp [] false) [taskOps f.warp f.a 2] true
      { srcs := [⟨f.a.toNat, 2, false, .own⟩],
        act := fun s o v _ => s.post o 3 fun s =>
          let ctx := x.b.ctx
          let lane := if o.lane = 32 then lowest o.mask else o.lane
          let flags := v.val f.a.toNat
          let succ := v.val (f.a.toNat + 1)
          let s := s.retire ctx f.b.toNat o.blk o.warp lane
          if succ == BitVec.allOnes 32 then (s, .done) else s.sendCounter (o.ctrOp ctx succ (.done (flags.getLsbD 17))) }

/-- DEPADD (R48, R369). -/
def execDepadd (f : FormTk) (s : State) : Host.Outcome State Fault Refusal :=
  issuing s fun x =>
    x.mem (if f.warp then 1 else 0) (syncAcc f.warp [] false) [taskOps f.warp f.a 1, taskOps f.warp f.b 1] true
      { srcs := [⟨f.a.toNat, 1, false, .own⟩, ⟨f.b.toNat, 1, false, .own⟩],
        act := fun s o v _ => s.post o 3 fun s =>
          s.sendCounter (o.ctrOp x.b.ctx (v.val f.a.toNat) (.depadd (v.val f.b.toNat))) }

/-- CANCEL (R48, R369). -/
def execCancel (f : FormTc) (s : State) : Host.Outcome State Fault Refusal :=
  issuing s fun x =>
    x.mem (if f.warp then 1 else 0) (syncAcc f.warp [] false) [taskOps f.warp f.a 1] true
      { srcs := [⟨f.a.toNat, 1, false, .own⟩],
        act := fun s o v _ => s.post o 3 fun s => s.sendCounter (o.ctrOp x.b.ctx (v.val f.a.toNat) .cancel) }

/-- TQSTAT (R370). -/
def execTqstat (f : FormDB) (s : State) : Host.Outcome State Fault Refusal :=
  issuing s fun x =>
    x.uniform {} [wop f.d 2] true fun s o _ =>
      let c := s.ctx x.b.ctx
      let q := c.queue f.b.toNat
      let lo := q.entries.length + (if q.enable then 2 ^ 16 else 0) + (if q.redeliver then 2 ^ 17 else 0)
      (s.setW o f.d [BitVec.ofNat 32 lo, BitVec.ofNat 32 (c.outOfRange + c.absorbed * 2 ^ 16)], .done)

/-- The entries of some lanes, in lane order (R371). -/
def Warp.entries (w : Warp) (b : Nat) (ls : List Nat) : List QEntry :=
  ls.map fun l => freshEntry ((codes b 8).map (w.lane l).reg) false

/-- ENQ at warp scope: without compaction lane by lane as slots are free, with it all at once (R371). -/
def Ex.enqWarp (x : Ex) (gn : Bool) (gp : BitVec 3) (q b : BitVec 6) (cmp : Bool) : State :=
  let blk := x.is.blk
  let w := x.is.warp
  let ctx := x.b.ctx
  if !x.legal { mod := true, k := true } [⟨.v, b.toNat, 8, false⟩] then x.illegalAt 1
  else x.wide (.warp w) x.pf.modOf.k.toNat fun s y =>
    let n := x.neededHere s y
    let W := s.warp blk w
    let acts (l : Nat) : Bool := (W.lane l).guard gn gp
    match x.warpBlocked s y n fun l =>
        if acts l then readiness (W.lane l).view [⟨b.toNat, 8, false, .own⟩] [] else .go with
    | some s => s
    | none =>
      let acting := maskOf fun l => n.getLsbD l && acts l
      if s.deqBlocks blk w acting then (s.uncountSkid blk w).updBlk blk fun B => B.park w n .fill
      else
      let s := if acting = 0 then s else s.releaseLanes blk w acting 3
      let lanes := (lanesOf n).filter fun l => acts l && !y.served.getLsbD l
      let room := if ((s.ctx ctx).queue q.toNat).enable then
        Config.taskQueue - ((s.ctx ctx).queue q.toNat).entries.length else 0
      let now := if lanes.length ≤ room then lanes else if cmp then [] else lanes.take room
      let s := (W.entries b.toNat now).foldl (fun s e => s.enqueue ctx q.toNat e) s
      if now.length = lanes.length then (s.unstalled blk w).finish blk y
      else
        let y' := { y with served := y.served ||| maskOf fun l => now.contains l }
        let put (z : Inst) : Inst := if z == y then y' else z
        (s.stalled blk w (.queue q.toNat)).updBlk blk fun B =>
          { B.park w n (.stall (.queue q.toNat)) with insts := B.insts.map put }

/-- ENQ (R51, R371). -/
def execEnq (f : FormN) (s : State) : Host.Outcome State Fault Refusal :=
  issuing s fun x =>
    if f.warp then x.enqWarp f.gn f.gp f.q f.b false
    else x.mem 0 (syncAcc false [] false) [⟨.v, f.b.toNat, 8, false⟩] true
      { srcs := [⟨f.b.toNat, 8, false, .own⟩], gn := f.gn, gp := f.gp,
        act := fun s o v _ => s.post o 3 fun s =>
          let q := f.q.toNat
          if ((s.ctx x.b.ctx).queue q).room 1 then
            (s.enqueue x.b.ctx q (freshEntry (entryWords v.val f.b.toNat) false), .done)
          else (s, .stall (.queue q)) }

/-- ENQ with compaction (R51, R371). -/
def execEnqCmp (f : FormNc) (s : State) : Host.Outcome State Fault Refusal :=
  issuing s fun x => x.enqWarp f.gn f.gp f.q f.b true

end Sys2Proof.Machine
end

