-- ==== Sys2Proof/Machine/Copy.lean ====
section
/-! DEFINITION. The copy engine (R226 to R232): posts, arrivals, completions, and the writes of engines to
memory. -/

namespace Sys2Proof.Machine

/-! ### What engines share -/

/-- The offset checks of scratchpad for an access of a size with an alignment of its own (R65). -/
def spCheckAt (spSize off align size : Nat) : Option (Cause × DWord) :=
  if off % align != 0 then some (.misalign, BitVec.ofNat 64 off)
  else if spSize < off + size then some (.prot, BitVec.ofNat 64 off)
  else none

/-- An engine writes bytes within one line at the home; a copy that the block's own core holds follows, so that
the block's warps see the write once they know of it (R384). -/
def State.engineWrite (s : State) (b pa : Nat) (bs : List Byte) : State :=
  (s.writePa pa bs).refreshCopies (s.blk b).coreNo pa bs

/-- The same for bytes of any number of physical runs, byte by byte. -/
def State.engineRuns (s : State) (b : Nat) (rs : List (DWord × Nat × Nat × DWord)) (bs : List Byte) : State :=
  let addrs := rs.flatMap fun (_, pa, n, _) => (List.range n).map fun i => pa + i
  (addrs.zip bs).foldl (fun s (pa, x) => s.engineWrite b pa [x]) s

/-- Poisoned data enters a sector of memory (R422). -/
def State.poisonSector (s : State) (pa : Nat) : State :=
  { s with poison := s.poison.filter (fun p => p.1 != pa / 64) ++ [(pa / 64, 0)] }

/-- Poisoned data enters a word of scratchpad (R422). -/
def Block.poisonWord (b : Block) (off : Nat) : Block :=
  { b with spPoison := b.spPoison.filter (fun p => p.1 != off / 4) ++ [(off / 4, 0)] }

/-- Sectors join the write set of the warp that posted an engine operation (R388). -/
def Warp.wroteSectors (w : Warp) (l : List Nat) : Warp := { w with wset := l.foldl addSector w.wset }

/-- An engine operation that wrote sectors completes with a release at a scope; a warp of its block that observes the
completion covers them as well (R384, R388). -/
def State.engineRelease (s : State) (b w : Nat) (sectors : List Nat) (ms : Nat) : State :=
  let B := s.blk b
  ((s.deliver (Sig.ofSectors sectors) ms B.die B.cluster none).share B.coreNo sectors).updWarp b w fun W =>
    W.wroteSectors sectors

/-- What follows an act of a warp-scope instruction that has issued: it goes on, traps for its participants, or
stalls. -/
def Ex.settleWarp (x : Ex) (s : State) (y : Inst) (n : Word) (r : State × AccRes) : State :=
  let b := x.is.blk
  let w := x.is.warp
  match r with
  | (s', .done) => (s'.unstalled b w).finish b y
  | (s', .held) => (s'.unstalled b w).finish b y
  | (_, .fault c a) => s.wideTrap b w y c n a x.runLen
  | (_, .wait) => x.waitFill s y
  | (_, .stall on) => (s.stalled b w on).updBlk b fun B => B.park w n (.stall on)

/-- A warp-scope instruction of an engine whose destination is a v register: it is empty until the unit fills it
(R97). -/
def Ex.toV (x : Ex) (acc : Acc) (d : BitVec 6) (ops : List Opd) (extra : Bool)
    (act : State → Who → Warp → State × AccRes) : State :=
  let b := x.is.blk
  let w := x.is.warp
  if !x.legal acc (⟨.v, d.toNat, 1, false⟩ :: ops) extra then x.illegalAt 1
  else x.wide (.warp w) x.pf.modOf.k.toNat fun s y =>
    let n := x.neededHere s y
    let W := s.warp b w
    match x.warpBlocked s y n (fun l => readiness (W.lane l).view [] [d.toNat])
        (x.pf.modOf.mz && W.othersPend n [d.toNat]) with
    | some s => s
    | none =>
      let mark (W : Warp) : Warp :=
        let W := W.mapLanes n fun _ l => l.markEmpty d.toNat 1
        if x.pf.modOf.mz then W.zeroOthers n [d.toNat] else W
      let res : State × AccRes :=
        match act s ⟨b, w, 32, n, false⟩ W with
        | (s, .done) => (s.updWarp b w mark, .done)
        | r => r
      x.settleWarp s y n res

/-- The words of an engine status on their way to a v register of some lanes of a warp (R97). -/
def State.sendStatus (s : State) (o : Who) (d : Nat) (words : List Word) : State :=
  (lanesOf o.mask).foldl (fun s l =>
    let (id, s) := s.fresh
    let r : ReplyOp :=
      { id := id, blk := o.blk, warp := o.warp, lane := l, dest := .v l d, vals := [words.getD l 0], pois := false }
    { s with replies := s.replies ++ [r] }) s

/-- The scope of a post's release: at least its own, widened by an ORD prefix with SEM 2 (R232, R256). -/
def Ex.postScope (x : Ex) (least : Nat) : Nat := if x.pf.ord.isSome then max least x.pf.ms else least

/-! ### Posts -/

def Block.copyq (b : Block) (q : Nat) : CopyQ := b.copyQ.getD q default

def Block.updCopyq (b : Block) (q : Nat) (f : CopyQ → CopyQ) : Block := { b with copyQ := b.copyQ.modify q f }

/-- The operations of a copy queue that have not completed. -/
def State.copiesOf (s : State) (b q : Nat) : List CopyOp := s.copies.filter fun x => x.blk == b && x.q == q

/-- A sync field of a descriptor: its offset, if it names a word of the scratchpad; none for 0xFFFF_FFFF. The
second answer says that it breaks its table (R227). -/
def syncField (spSize v : Nat) : Option Nat × Bool :=
  if v = 2 ^ 32 - 1 then (none, false)
  else if v % 16 = 0 ∧ v + 16 ≤ spSize then (some v, false) else (none, true)

/-- What a descriptor asks for: its queue, runs, sync word, and whether it is bad. -/
structure CopyPlan where
  q : Nat
  runs : List CopyRun
  sync : Option Nat
  rows : Bool
  bad : Bool
  deriving DecidableEq, Repr, Inhabited

/-- A linear descriptor (R227). -/
def linearPlan (spSize : Nat) (multicast : Bool) (d : List Byte) : CopyPlan :=
  let n (off len : Nat) : Nat := fieldAt d off len
  let fl := n 24 1
  let srcSp := fl.testBit 0
  let dstSp := fl.testBit 1
  let len := n 16 4
  let end_ (sp : Bool) (off : Nat) : Bool :=
    n off 8 % 4 != 0 || (sp && (n (off + 4) 4 != 0 || spSize < n off 4 + len))
  let (sync, badSync) := syncField spSize (n 20 4)
  let bad := len < 4 || len % 4 != 0 || badSync || 4 ≤ fl || !zeroBytes d 26 6 || end_ srcSp 0 || end_ dstSp 8
    || (multicast && dstSp)
  { q := n 25 1, runs := [{ src := some (n 0 8), srcSp := srcSp, dst := n 8 8, dstSp := dstSp, len := len }], sync := sync,
    rows := false, bad := bad }

/-- An index descriptor, with the participants and their indices (R228). A row past NROWS has no source. -/
def indexPlan (spSize : Nat) (d : List Byte) (rows : List (Nat × Word)) : CopyPlan :=
  let n (off len : Nat) : Nat := fieldAt d off len
  let rowb := n 8 4
  let dst (l : Nat) : Nat := n 16 4 + l * n 24 4
  let (sync, badSync) := syncField spSize (n 20 4)
  let bad := n 0 8 % 4 != 0 || rowb < 4 || 65536 < rowb || rowb % 4 != 0 || n 16 4 % 4 != 0 || badSync
    || n 24 4 % 4 != 0 || n 24 4 < rowb || n 28 1 != 0 || !zeroBytes d 30 2
    || rows.any fun (l, _) => spSize < dst l + rowb
  let run (l : Nat) (i : Word) : CopyRun :=
    { src := if n 12 4 ≤ i.toNat then none else some ((n 0 8 + i.toNat * rowb) % 2 ^ 64), srcSp := false, dst := dst l,
      dstSp := true, len := rowb }
  { q := n 29 1, runs := rows.map fun (l, i) => run l i, sync := sync, rows := true, bad := bad }

/-- The first failure of a queue since its last status read (R230). -/
def CopyQ.record (q : CopyQ) (code : Nat) (ticket : Word) : CopyQ :=
  if q.err = 0 then { q with err := BitVec.ofNat 32 (code + ticket.toNat * 256) } else q

/-- A post: its release, its place in the queue and its ticket (R226, R232). A bad descriptor posts an operation that
fails at once (R227). -/
def State.postCopy (s : State) (o : Who) (d : BitVec 6) (p : CopyPlan) (multicast : Bool) (ms : Nat) : State :=
  let s := s.releaseLanes o.blk o.warp o.mask ms
  let (id, s) := s.fresh
  let Q := (s.blk o.blk).copyq p.q
  let op : CopyOp :=
    { id := id, blk := o.blk, warp := o.warp, q := p.q, ticket := Q.posted, runs := p.runs, sync := p.sync,
      rows := p.rows, multicast := multicast, failed := p.bad, err := if p.bad then 1 else 0, faddr := 0, sectors := [],
      after := Q.fence }
  let s := { s with copies := s.copies ++ [op] }
  let s := s.updBlk o.blk fun B => B.updCopyq p.q fun q => { q with posted := q.posted + 1 }
  s.setW o d [Q.posted]

/-- The checks of a post, and the post (R58, R226, R227). -/
def State.tryCopy (s : State) (o : Who) (d : BitVec 6) (off : Nat) (plan : Nat → List Byte → CopyPlan)
    (multicast : Bool) (ms : Nat) : State × AccRes :=
  if s.deqBlocks o.blk o.warp o.mask then (s, .wait)
  else
  let s := s.orderBytes o true off 32
  let B := s.blk o.blk
  match spCheckAt B.spSize off 16 32 with
  | some (c, a) => (s, .fault c a)
  | none =>
    let p := plan B.spSize (B.readSp off 32)
    if 7 < p.q then (s, .fault .engine (BitVec.ofNat 64 off))
    else if 16 ≤ (s.copiesOf o.blk p.q).length then (s, .stall (.copyQueue p.q))
    else (s.postCopy o d p multicast ms, .done)

/-- CPLIN (R226, R227). -/
def execCplin (f : FormDA) (s : State) : Host.Outcome State Fault Refusal :=
  issuing s fun x =>
    x.uniform { ord := [2] } [wop f.d, wop f.a] true fun s o w =>
      s.tryCopy o f.d (w f.a.toNat).toNat (fun n d => linearPlan n false d) false (x.postScope 1)

/-- CPMC (R226, R227). -/
def execCpmc (f : FormDA) (s : State) : Host.Outcome State Fault Refusal :=
  issuing s fun x =>
    x.uniform { ord := [2] } [wop f.d, wop f.a] true fun s o w =>
      s.tryCopy o f.d (w f.a.toNat).toNat (fun n d => linearPlan n true d) true (x.postScope 1)

/-- CPIDX: the index of each participant is read as a source of its lane (R98, R228). -/
def execCpidx (f : FormDAB) (s : State) : Host.Outcome State Fault Refusal :=
  issuing s fun x =>
    let b := x.is.blk
    let w := x.is.warp
    if !x.legal { mod := true, k := true, ord := [2] } [wop f.d, wop f.a, ⟨.v, f.b.toNat, 1, false⟩] then x.illegalAt 1
    else x.wide (.warp w) x.pf.modOf.k.toNat fun s y =>
      let n := x.neededHere s y
      let W := s.warp b w
      match x.warpBlocked s y n fun l => s.orderedReady b w l (readiness (W.lane l).view [vsrc f.b] []) with
      | some s => s
      | none =>
        let rows := (lanesOf n).map fun l => (l, (W.lane l).reg f.b.toNat)
        x.settleWarp s y n (s.tryCopy ⟨b, w, 32, n, false⟩ f.d (W.reg f.a.toNat).toNat
          (fun m d => indexPlan m d rows) false (x.postScope 1))

/-- CPQF: later posts to the named queues start after every operation posted to any of them (R229). -/
def execCpqf (f : FormEA) (s : State) : Host.Outcome State Fault Refusal :=
  issuing s fun x =>
    x.uniform {} [wop f.a] true fun s o w =>
      let named (q : Nat) : Bool := q < 8 && (w f.a.toNat).getLsbD q
      let ids := (s.copies.filter fun y => y.blk == o.blk && named y.q).map (·.id)
      (s.updBlk o.blk fun B =>
        { B with copyQ := B.copyQ.mapIdx fun q y => if named q then { y with fence := y.fence ++ ids } else y }, .done)

/-- A status that reports operations as complete orders their writes before the warp's next instruction (R230, R384). -/
def State.observe (s : State) (o : Who) (complete : Bool) : State := if complete then s.acquire o.blk o.warp 2 else s

/-- CPSTAT (R230). -/
def execCpstat (f : FormDA) (s : State) : Host.Outcome State Fault Refusal :=
  issuing s fun x =>
    x.uniform {} [wop f.d 2, wop f.a] true fun s o w =>
      let q := (w f.a.toNat).toNat % 8
      let Q := (s.blk o.blk).copyq q
      (((s.observe o (Q.completed != 0)).setW o f.d [Q.completed, Q.err]).updBlk o.blk fun B => B.updCopyq q fun y => { y with err := 0 }, .done)

/-! ### The engine at work -/

/-- The code of a fault of a copy (R230). -/
def copyCode (c : Cause) : Nat := if c == .xlate then 2 else 3

/-- A word of a source: its bytes and whether it is poisoned, or the failure (R227, R228, R231). -/
def State.copySource (s : State) (op : CopyOp) (r : CopyRun) (i : Nat) :
    State × Sum (Nat × DWord) (List Byte × Bool) :=
  let B := s.blk op.blk
  match r.src with
  | none => (s, .inr (List.replicate 4 0, false))
  | some a =>
    if r.srcSp then (s, .inr (B.readSp (a + 4 * i) 4, B.spPoisoned (a + 4 * i) 4))
    else
      let va : DWord := BitVec.ofNat 64 (a + 4 * i)
      match s.xlate (clusterPlace B.clusterNo) B.ctx va 4 .load with
      | (s, .fault c) => (s, .inl (copyCode c, va))
      | (s, .ok _ pa) => (s.touchHost B.die pa 4, .inr (s.readPa pa 4, s.poisoned pa 4))

/-- Where a word of a destination goes: an offset, or physical addresses (R83, R227). -/
def State.copyTarget (s : State) (op : CopyOp) (r : CopyRun) (i : Nat) : State × Sum (Nat × DWord) (List Nat) :=
  let B := s.blk op.blk
  if r.dstSp then (s, .inr [r.dst + 4 * i])
  else
    let va : DWord := BitVec.ofNat 64 (r.dst + 4 * i)
    match s.xlate (clusterPlace B.clusterNo) B.ctx va 4 .store with
    | (s, .fault c) => (s, .inl (copyCode c, va))
    | (s, .ok e pa) => (s, .inr (if op.multicast then replicas e pa else [pa]))

/-- A word read and on its way: its bytes, its poison, and where it goes. -/
structure CopyWord where
  bytes : List Byte
  pois : Bool
  dest : List Nat
  deriving DecidableEq, Repr, Inhabited

/-- Reads words of a run, up to a number of them or the first failure. -/
def State.copyRead (s : State) (op : CopyOp) (r : CopyRun) :
    Nat → Nat → State × List CopyWord × Option (Nat × DWord)
  | 0, _ => (s, [], none)
  | n + 1, i =>
    match s.copySource op r i with
    | (s, .inl e) => (s, [], some e)
    | (s, .inr (bs, p)) =>
      match s.copyTarget op r i with
      | (s, .inl e) => (s, [], some e)
      | (s, .inr ps) =>
        match State.copyRead s op r n (i + 1) with
        | (s, ws, e) => (s, ⟨bs, p, ps⟩ :: ws, e)

/-- Writes a word (R227, R422). -/
def State.copyWrite (s : State) (op : CopyOp) (r : CopyRun) (x : CopyWord) : State :=
  if r.dstSp then
    let off := x.dest.headD 0
    let s := s.settleSp op.blk off 4
    s.updBlk op.blk fun B => let B := B.writeSp off x.bytes; if x.pois then B.poisonWord off else B
  else
    x.dest.foldl (fun s pa =>
      let s := s.engineWrite op.blk pa x.bytes
      if x.pois then s.poisonSector pa else s) s

/-- Whether the source and the destination of a run overlap (R227). -/
def CopyRun.overlaps (r : CopyRun) : Bool :=
  match r.src with
  | none => false
  | some a => r.srcSp == r.dstSp && overlap a r.len r.dst r.len

/-- Writes words in turn; where source and destination overlap each word may keep its value (R227). -/
def State.copyWrites (s : State) (op : CopyOp) (r : CopyRun) (ws : List CopyWord) : State :=
  ws.foldl (fun s x =>
    if r.overlaps then
      let (go, s) := s.race
      if go then s.copyWrite op r x else s
    else s.copyWrite op r x) s

/-- What is left of a run after some words, those of a row not yet counted. -/
def CopyRun.after (r : CopyRun) (words : Nat) (row : Bool) : CopyRun :=
  { r with src := r.src.map (· + 4 * words), dst := r.dst + 4 * words, len := r.len - 4 * words,
           written := if row then r.written + 4 * words else 0 }

/-- The run at a place of a list replaced by what is left of it, or taken out when nothing is. -/
def putRun (l : List CopyRun) (i : Nat) (r : CopyRun) : List CopyRun := if r.len = 0 then l.eraseIdx i else l.set i r

/-- Changes a copy operation. -/
def State.updCopy (s : State) (id : Nat) (f : CopyOp → CopyOp) : State :=
  { s with copies := s.copies.map fun x => if x.id == id then f x else x }

/-- Whether an operation may start: those before it in its queue, and those before the fences of its queue, have
completed (R226, R229, R392; assumption 33). -/
def State.copyMayStart (s : State) (op : CopyOp) : Bool :=
  !(s.copies.any fun x => op.after.contains x.id)
    && ((s.copiesOf op.blk op.q).head?.any fun y => y.id == op.id)

/-- Some words of one run arrive: any number of them, of any run (R228); then the sync word is raised by what has
arrived in scratchpad, by a row of a gather once all of it has (R228, R232, R234). A row without a source records its
bounds error (R228). A fault ends the operation there (R231). -/
def State.copyStep (s : State) (op : CopyOp) : State :=
  let (j, s) := s.pick op.runs.length
  let r := op.runs.getD j default
  let (k, s) := s.pick (r.len / 4)
  match s.copyRead op r (k + 1) 0 with
  | (s, ws, e) =>
    let s := s.copyWrites op r ws
    let sectors := if r.dstSp then [] else ws.flatMap fun x => x.dest.map (· / 64)
    let note (s : State) (on : Bool) (code : Nat) : State :=
      if on then s.updBlk op.blk fun B => B.updCopyq op.q fun q => q.record code op.ticket else s
    let s := note (note s (ws.any (·.pois)) 5) r.src.isNone 4
    let r' := r.after ws.length op.rows
    let n := if !r.dstSp then 0 else if !op.rows then 4 * ws.length else if r'.len = 0 then r'.written else 0
    let s := s.updCopy op.id fun y =>
      { y with runs := putRun y.runs j r', sectors := sectors.foldl addSector y.sectors,
               failed := e.isSome, err := (e.map (·.1)).getD 0, faddr := (e.map (·.2)).getD 0 }
    match op.sync with
    | some off => if n = 0 then s else s.arrival op.blk off n false
    | none => s

/-- COPY_ARRIVAL (R227, R228, R231, R234). -/
def execCopyArrival (k : Nat) (s : State) : Host.Outcome State Fault Refusal :=
  opOf s.copies (fun x => x.id == k && !x.failed && !x.runs.isEmpty && s.copyMayStart x) fun op => .next (s.copyStep op)

/-- A failed operation: its remaining bytes with ERR, its record, and the log (R231). -/
def State.copyFail (s : State) (op : CopyOp) : State :=
  let left := (op.runs.map fun r => r.len + r.written).sum
  let s := match op.sync with
    | some off => s.arrival op.blk off left true
    | none => s
  let s := s.updBlk op.blk fun B => B.updCopyq op.q fun q => q.record op.err op.ticket
  s.logBlk op.blk (some op.warp) { kind := 8, code := op.err, addr := op.faddr.toNat, aux := op.q }

/-- COPY_COMPLETE: in the order of its queue, with the release of a global destination (R226, R231, R232). -/
def execCopyComplete (k : Nat) (s : State) : Host.Outcome State Fault Refusal :=
  opOf s.copies (fun x => x.id == k && (x.failed || x.runs.isEmpty) && s.copyMayStart x) fun op =>
    let s := if op.failed then s.copyFail op else s
    let s := s.engineRelease op.blk op.warp op.sectors (if op.multicast then 3 else 2)
    let s := { s with copies := s.copies.filter fun x => x.id != op.id }.consumed (s.blk op.blk).ctx op.blk (.copyQueue op.q)
    .next (s.updBlk op.blk fun B => B.updCopyq op.q fun q => { q with completed := q.completed + 1 })

end Sys2Proof.Machine
end

