-- ==== Sys2Proof/Machine/Launch.lean ====
section
/-! DEFINITION. Launch records and their checks (R10 to R28), the dispatcher and the life of a block (R44, R45,
R57, R60 to R63, R150), completion (R27, R184, R425, R426), and SPAWN (R53 to R56, R152). -/

namespace Sys2Proof.Machine

/-! ### The record (R10 to R25) -/

/-- The fields of a record, its tables still empty. -/
def recordOf (bs : List Byte) : Record :=
  let n (off len : Nat) : Nat := fieldAt bs off len
  let a (off : Nat) : DWord := BitVec.ofNat 64 (n off 8)
  { code := a 0, gridX := n 8 4, gridY := n 12 2, gridZ := n 14 2, blkX := n 16 2, blkY := n 18 1, blkZ := n 19 1,
    lregs := n 20 1, cls := n 21 1 % 4, persistent := n 22 2 % 2 == 1, sealed_ := n 22 2 / 2 % 2 == 1,
    scratch := n 24 4, gregs := n 28 1, l1min := n 30 1, ctx := n 31 1, doneCtr := a 40, report := a 72,
    tag := a 80, sets := [], windows := List.replicate 16 none, bindings := [] }

def Record.threads (r : Record) : Nat := r.blkX * r.blkY * r.blkZ

/-- Warps of a block (R11). -/
def Record.warps (r : Record) : Nat := (r.threads + 31) / 32

/-- Blocks of the grid (R12). -/
def Record.blocks (r : Record) : Nat := r.gridX * r.gridY * r.gridZ

/-- Set memberships of a block (R17). -/
def Record.memberships (r : Record) : Nat := (r.sets.map fun d => popcount d.1).sum

/-- Granules of a block (R17). -/
def Record.regGran (r : Record) : Nat := (r.warps * 32 * r.lregs * 4 + r.memberships * r.gregs * 128 + 16383) / 16384

def Record.spGran (r : Record) : Nat := (r.scratch + 16383) / 16384

def Record.l1Gran (r : Record) : Nat := max 4 r.l1min

/-- A rejection: its code, DETAIL and FADDR (R27, R28). -/
structure Reject where
  code : Nat
  detail : Nat := 0
  faddr : DWord := 0
  deriving DecidableEq, Repr, Inhabited

/-- Whether a set declaration breaks R18 or R19, given those before it. -/
def badDecl (warps : Nat) (before : List (Word × Nat)) (bs : List Byte) : Bool :=
  let m := BitVec.ofNat 32 (fieldAt bs 0 4)
  let slot := fieldAt bs 4 1
  popcount m < 2 || 16 < popcount m || 2 ^ warps ≤ m.toNat || 3 < slot || !zeroBytes bs 5 3
    || before.any fun d => d.2 == slot && d.1 &&& m != 0#32

/-- The declarations, or the index of the first that is rejected. -/
def parseDecls (warps : Nat) : List (Word × Nat) → Nat → List Byte → Nat → Sum Nat (List (Word × Nat))
  | done, _, _, 0 => .inr done
  | done, i, bs, n + 1 =>
    if badDecl warps done (bs.take 8) then .inl i
    else parseDecls warps (done ++ [(BitVec.ofNat 32 (fieldAt bs 0 4), fieldAt bs 4 1)]) (i + 1) (bs.drop 8) n

/-- The window table, or the index of the first bound entry that is rejected (R22). -/
def parseWindows (mask : Nat) : List (Option Window) → Nat → List Byte → Nat → Sum Nat (List (Option Window))
  | done, _, _, 0 => .inr done
  | done, i, bs, n + 1 =>
    let base : DWord := BitVec.ofNat 64 (fieldAt bs 0 8)
    if !mask.testBit i then parseWindows mask (done ++ [none]) (i + 1) (bs.drop 16) n
    else if base.toNat % 16 != 0 || !canonical base || !zeroBytes bs 12 4 then .inl i
    else parseWindows mask (done ++ [some ⟨base, BitVec.ofNat 32 (fieldAt bs 8 4)⟩]) (i + 1) (bs.drop 16) n

def bindingOf (bs : List Byte) : Binding :=
  ⟨fieldAt bs 0 1, fieldAt bs 1 1, fieldAt bs 4 4, BitVec.ofNat 64 (fieldAt bs 8 8), fieldAt bs 16 4, fieldAt bs 20 4,
   fieldAt bs 24 2, fieldAt bs 26 2, fieldAt bs 28 4⟩

/-- Elements of a scale group of a dequantise binding: GS of R106, 0 the whole row (R348). -/
def groupSize (code whole : Nat) : Nat := if code = 0 then whole else 16 * 2 ^ code

/-- Whether a binding breaks R25 or its row of R346. -/
def badBinding (spSize : Nat) (bs : List Byte) : Bool :=
  let b := bindingOf bs
  let common := !zeroBytes bs 2 2 || b.dst % 16 != 0 || b.len = 0 || spSize < b.dst + b.len
  let row := match b.kind with
    | 0 => b.fmt == 0 && b.rows == 0 && b.cols == 0 && b.aux == 0
    | 1 => b.fmt == 0 && b.rows == 0 && b.cols == 0 && b.aux ≤ 1
    | 2 =>
      let f := b.fmt % 32
      let g := b.fmt / 32
      2 ≤ f && f ≤ 20 && g ≤ 5 && 1 ≤ b.rows && 1 ≤ b.cols && b.len == 2 * b.rows * b.cols
        && b.cols % groupSize g b.cols == 0
    | 3 =>
      [0, 1, 2, 3, 4, 5, 6, 10, 11, 12, 13, 18, 22, 23].contains b.fmt && b.aux == 0 && 1 ≤ b.rows && 1 ≤ b.cols
        && b.len == b.rows * b.cols * (fmtWidth b.fmt / 8)
    | _ => false
  common || !row

def parseBindings (spSize : Nat) : List Binding → Nat → List Byte → Nat → Sum Nat (List Binding)
  | done, _, _, 0 => .inr done
  | done, i, bs, n + 1 =>
    if badBinding spSize (bs.take 32) then .inl i
    else parseBindings spSize (done ++ [bindingOf bs]) (i + 1) (bs.drop 32) n

/-- The checks on the record alone, by the code of the first that fails among those up to the set declarations
(R10, R11, R15, R16, R28). `parent` is the record whose CLASS, CTX and SEALED a child inherits. -/
def State.recordCheck (s : State) (bs : List Byte) (ctx : Nat) (parent : Option Record) : Nat :=
  let r := recordOf bs
  let n (off len : Nat) : Nat := fieldAt bs off len
  let spawn := parent.isSome
  if (!spawn && n 21 1 / 4 != 0) || n 22 2 / 4 != 0 || !zeroBytes bs 59 5 || !zeroBytes bs 88 40
      || r.doneCtr.toNat % 8 != 0 || r.report.toNat % 64 != 0 then 2
  else if !spawn && (r.ctx != ctx || (s.ctx? ctx).isNone) then 3
  else if (if spawn then r.persistent else r.sealed_ != (s.ctx ctx).sealed_) then 4
  else if r.code.toNat % 4 != 0 || !canonical r.code then 5
  else if r.blocks = 0 || r.threads = 0 || 1024 < r.threads || 2 ^ 32 ≤ r.blocks then 6
  else if r.lregs % 8 != 0 || r.lregs < 8 || 64 < r.lregs || 16 < r.gregs then 7
  else if 16 < n 29 1 || (n 29 1 != 0 && n 32 8 % 8 != 0) then 8
  else 0

/-- A table of a record read: its bytes, or RECORD_FAULT with the faulting address (R14). -/
def State.readTable (s : State) (die ctx : Nat) (va : DWord) (n : Nat) : State × Sum Reject (List Byte) :=
  match s.readVa die ctx va n with
  | (s, .inl (_, a)) => (s, .inl { code := 1, faddr := a })
  | (s, .inr bs) => (s, .inr bs)

/-- The set declarations of a record (R16, R18, R19). -/
def State.takeSets (s : State) (die ctx : Nat) (bs : List Byte) (r : Record) : State × Sum Reject Record :=
  let n := fieldAt bs 29 1
  if n = 0 then (s, .inr r)
  else match s.readTable die ctx (BitVec.ofNat 64 (fieldAt bs 32 8)) (8 * n) with
    | (s, .inl e) => (s, .inl e)
    | (s, .inr t) => match parseDecls r.warps [] 0 t n with
      | .inl i => (s, .inl { code := 8, detail := i })
      | .inr ds => (s, .inr { r with sets := ds })

/-- The window table of a record (R16, R22). -/
def State.takeWindows (s : State) (die ctx : Nat) (bs : List Byte) (r : Record) : State × Sum Reject Record :=
  let mask := fieldAt bs 56 2
  let tab : DWord := BitVec.ofNat 64 (fieldAt bs 48 8)
  if mask = 0 then (s, .inr r)
  else if tab.toNat % 16 != 0 then (s, .inl { code := 10 })
  else
    let entry (acc : State × Sum Reject (List Byte)) (i : Nat) : State × Sum Reject (List Byte) :=
      match acc with
      | (s, .inl e) => (s, .inl e)
      | (s, .inr done) =>
        if !mask.testBit i then (s, .inr (done ++ List.replicate 16 0))
        else match s.readTable die ctx (tab + BitVec.ofNat 64 (16 * i)) 16 with
          | (s, .inl e) => (s, .inl e)
          | (s, .inr t) => (s, .inr (done ++ t))
    match (List.range 16).foldl entry (s, .inr []) with
    | (s, .inl e) => (s, .inl e)
    | (s, .inr t) => match parseWindows mask [] 0 t 16 with
      | .inl i => (s, .inl { code := 10, detail := i })
      | .inr ws => (s, .inr { r with windows := ws })

/-- The transform table of a record (R16, R25). -/
def State.takeBindings (s : State) (die ctx : Nat) (bs : List Byte) (r : Record) : State × Sum Reject Record :=
  let n := fieldAt bs 58 1
  let tab : DWord := BitVec.ofNat 64 (fieldAt bs 64 8)
  if n = 0 then (s, .inr r)
  else if 4 < n || tab.toNat % 32 != 0 then (s, .inl { code := 11 })
  else match s.readTable die ctx tab (32 * n) with
    | (s, .inl e) => (s, .inl e)
    | (s, .inr t) => match parseBindings (r.spGran * 16384) [] 0 t n with
      | .inl i => (s, .inl { code := 11, detail := i })
      | .inr bs => (s, .inr { r with bindings := bs })

/-- The record with what a child inherits (R15), or with the context that carries it. -/
def Record.inherit (r : Record) (ctx : Nat) (parent : Option Record) : Record :=
  match parent with
  | some p => { r with cls := p.cls, ctx := p.ctx, sealed_ := p.sealed_ }
  | none => { r with ctx := ctx }

/-- A record read, checked and copied in the order of R16: unreadable (the faulting address), rejected with the
record, or accepted. -/
def State.takeRecord (s : State) (die ctx : Nat) (addr : DWord) (parent : Option Record) :
    State × Sum DWord (Sum (Record × Reject) Record) :=
  match s.readVa die ctx addr 128 with
  | (s, .inl (_, a)) => (s, .inl a)
  | (s, .inr bs) =>
    let r := (recordOf bs).inherit ctx parent
    let code := s.recordCheck bs ctx parent
    if code != 0 then (s, .inr (.inl (r, { code := code })))
    else match s.takeSets die ctx bs r with
      | (s, .inl e) => (s, .inr (.inl (r, e)))
      | (s, .inr r) =>
        if 524288 < r.scratch || 60 < r.l1min || 64 < r.regGran + r.spGran + r.l1Gran then
          (s, .inr (.inl (r, { code := 9 })))
        else match s.takeWindows die ctx bs r with
          | (s, .inl e) => (s, .inr (.inl (r, e)))
          | (s, .inr r) => match s.takeBindings die ctx bs r with
            | (s, .inl e) => (s, .inr (.inl (r, e)))
            | (s, .inr r) => (s, .inr (.inr r))

/-! ### Completion (R27, R184, R425, R426) -/

/-- A write by a unit of a die, whole or not at all, delivered at a scope. -/
def State.unitWrite (s : State) (die ctx : Nat) (va : DWord) (bs : List Byte) (ms : Nat) :
    State × Option (Cause × DWord) :=
  match s.xlateRange die ctx .store (rangeFuel bs.length) va bs.length with
  | (s, _, some f) => (s, some f)
  | (s, rs, none) => ((s.writeRuns rs bs).publish (rs.map fun (_, pa, n, _) => (pa, n)) ms die 0, none)

/-- A write of R425 that is not performed is logged (R426). -/
def State.completionFault (s : State) (home ctx : Nat) (tag va : DWord) : State :=
  s.log home { kind := 8, ctx := some ctx, die := some home, addr := va.toNat, tag := tag.toNat }

/-- The completion record (R184). -/
def Launch.record (L : Launch) : List Byte :=
  leBytes 8 L.rcd.tag.toNat ++ leBytes 4 L.status ++ leBytes 4 0 ++ (L.fpx.flatMap fun w => leBytes 4 w.toNat)
    ++ leBytes 16 0

/-- The launch report (R27). -/
def Launch.reportBytes (L : Launch) : List Byte :=
  leBytes 4 L.status ++ leBytes 4 L.failBlock.toNat ++ leBytes 4 L.detail ++ leBytes 2 L.winSticky.toNat
    ++ leBytes 2 0 ++ leBytes 4 L.oob.toNat ++ leBytes 4 L.blocksDone ++ leBytes 8 L.rcd.tag.toNat
    ++ leBytes 8 L.faddr.toNat ++ leBytes 24 0

/-- The completion record written, CRINGSEQ after it (R184, R426). -/
def State.writeCompletion (s : State) (L : Launch) : State :=
  let c := s.ctx L.rcd.ctx
  if c.cring = 0 then s
  else
    let va := c.cring + BitVec.ofNat 64 (128 * (c.cringSeq.toNat % c.cringN.toNat))
    match s.unitWrite L.home L.rcd.ctx va L.record 4 with
    | (s, some _) => s.completionFault L.home L.rcd.ctx L.rcd.tag va
    | (s, none) => s.updCtx L.rcd.ctx fun c => { c with cringSeq := c.cringSeq + 1 }

/-- The report written (R27, R426). -/
def State.writeReport (s : State) (L : Launch) : State :=
  let va := L.rcd.report
  if va = 0 then s
  else if va.toNat % 64 != 0 then s.completionFault L.home L.rcd.ctx L.rcd.tag va
  else match s.unitWrite L.home L.rcd.ctx va L.reportBytes 4 with
    | (s, some _) => s.completionFault L.home L.rcd.ctx L.rcd.tag va
    | (s, none) => s

/-- A 64-bit atomic add by a unit of a die at a virtual address with release at system scope; the fault where it
is not performed. -/
def State.unitAdd (s : State) (die ctx : Nat) (va v : DWord) : State × Option Cause :=
  match s.xlate die ctx va 8 .atomic with
  | (s, .fault c) => (s, some c)
  | (s, .ok _ pa) =>
    if s.poisoned pa 8 then (s, some .poison)
    else
      let new := BitVec.ofNat 64 (leNat (s.readPa pa 8)) + v
      ((s.writePa pa (leBytes 8 new.toNat)).publish [(pa, 8)] 4 die 0, none)

/-- The completion counter (R27, R426). -/
def State.addCounter (s : State) (L : Launch) : State :=
  let va := L.rcd.doneCtr
  if va = 0 then s
  else match s.unitAdd L.home L.rcd.ctx va 1 with
    | (s, some _) => s.completionFault L.home L.rcd.ctx L.rcd.tag va
    | (s, none) => s

/-- A command of a queue has completed (R34). -/
def State.commandDone (s : State) (die q n : Nat) : State :=
  s.updDie die fun d => { d with cmdqs := d.cmdqs.modify q fun c => { c with open_ := c.open_.filter (· != n) } }

/-- The steps of R425: record, report, counter; then the launch has completed. -/
def State.complete (s : State) (l : Nat) : State :=
  let L := s.launch l
  let s := ((s.writeCompletion L).writeReport L).addCounter L
  let s := s.updLaunch l fun L => { L with phase := .done }
  match L.cmd with
  | some (d, q, n) => s.commandDone d q n
  | none => s

/-! ### Launches in flight -/

/-- A launch taken: its record, home die, eligible dies, depth, parent and command; its report is empty. -/
def newLaunch (r : Record) (home : Nat) (dies : BitVec 4) (depth : Nat) (parent : Option Nat) (age : Nat)
    (cmd : Option (Nat × Nat × Nat)) (phase : LaunchPhase) : Launch :=
  { rcd := r, home := home, diesMask := dies, depth := depth, parent := parent, age := age, cmd := cmd,
    phase := phase, next := 0, exited := 0, blocksDone := 0, status := 0, failBlock := BitVec.allOnes 32,
    detail := 0, faddr := 0, winSticky := 0, oob := 0, fpx := List.replicate 24 0, fpxHit := 0 }

/-- A rejected launch: its report and counter are written at once (R16, R27). -/
def State.rejectLaunch (s : State) (L : Launch) (e : Reject) : State :=
  let l := s.launches.length
  let s := { s with launches := s.launches ++ [{ L with status := e.code, detail := e.detail, faddr := e.faddr }] }
  s.complete l

/-- A launch ends with an error: the first one stands (R26, R28). -/
def State.failLaunch (s : State) (l code : Nat) (block : Word) (detail : Nat) : State :=
  s.updLaunch l fun L =>
    if L.status = 0 then { L with status := code, failBlock := block, detail := detail } else L

/-- Launches of a context in flight (R415, R419). -/
def Launch.inFlight (L : Launch) : Bool := match L.phase with | .done => false | .running => true | .held => true

/-! ### The dispatcher (R44, R45, R57, R60, R61) -/

/-- Whether a die is in service (R44, R434). -/
def State.inService (s : State) (die : Nat) : Bool :=
  match s.mode with
  | .off => false
  | .twilight => die == 0
  | .service => die < Config.dies

/-- Whether a context's blocks may stand on a cluster (R61, R86). -/
def State.clusterOk (s : State) (ctx die cl : Nat) : Bool :=
  let c := s.ctx ctx
  if c.sealed_ then (c.clusterMask die).testBit cl
  else !(s.ctxs.any fun x => x.sealed_ && (x.clusterMask die).testBit cl)

/-- What a block needs of a core and its cluster (R60, R243). -/
structure Demand where
  ctx : Nat
  warps : Nat
  nsets : Nat
  gran : Nat
  l1Gran : Nat
  tiles : Nat
  deriving DecidableEq, Repr

def Record.demand (r : Record) : Demand :=
  ⟨r.ctx, r.warps, r.sets.length, r.regGran + r.spGran, r.l1Gran, 0⟩

def Block.demand (b : Block) : Demand :=
  ⟨b.ctx, b.warps.length, b.sets.length, b.regGran + b.spGran, b.l1Gran, b.tiles.length⟩

/-- Whether a core has room for a block (R60). -/
def State.coreRoom (s : State) (n : Nat) (d : Demand) : Bool :=
  let rs := (s.residents n).map (·.2)
  let used := (rs.map fun b => b.regGran + b.spGran).sum + d.gran
  rs.length + 1 ≤ Config.maxBlocks && (rs.map fun b => b.warps.length).sum + d.warps ≤ Config.maxWarps
    && (rs.map fun b => b.sets.length).sum + d.nsets ≤ Config.gtab
    && used ≤ 64 && rs.all (fun b => b.l1Gran ≤ 64 - used) && d.l1Gran ≤ 64 - used

/-- The free tiles of a cluster's engine (R243). -/
def State.freeTiles (s : State) (cl : Nat) : Nat :=
  Config.tiles - ((s.blocks.filter fun b => b.resident && b.clusterNo == cl).map fun b => b.tiles.length).sum

/-- The cluster and core that a die's dispatcher takes for a block (R61). -/
def State.findCore (s : State) (die : Nat) (d : Demand) : Option (Nat × Nat) :=
  let order := (List.range Config.clusters).map fun i => ((s.die die).pointer + i) % Config.clusters
  order.findSome? fun cl =>
    if s.clusterOk d.ctx die cl && d.tiles ≤ s.freeTiles (clusterNo die cl) then
      ((List.range Config.cores).find? fun c => s.coreRoom (coreNo die cl c) d).map fun c => (cl, c)
    else none

/-- A lane at placement: zero registers, full and without poison (R63, R115). -/
def Lane.fresh (pc : DWord) (live : Bool) : Lane :=
  { pc := pc, v := List.replicate 64 0, empty := 0, poison := 0, preds := 0, run := [], runStart := 0,
    status := if live then .ready else .absent, replay := false, watchSkip := 0 }

/-- Warp w of a block with so many threads (R11, R63). -/
def Warp.fresh (pc : DWord) (threads w : Nat) : Warp :=
  let live := maskOf fun l => 32 * w + l < threads
  { lanes := (List.range 32).map fun l => Lane.fresh pc (32 * w + l < threads), w := List.replicate 32 0,
    k := List.replicate 12 0, live := live, clockHi := 0, issued := 0, drained := 0, wset := [], hold := none,
    wait := none }

/-- A block at placement (R17, R20, R63). -/
def Block.fresh (L : Launch) (l index die cl core : Nat) : Block :=
  let r := L.rcd
  { launch := l, index := index, depth := L.depth, ctx := r.ctx, die := die, cluster := cl, core := core,
    phase := .prologue 0, lregs := r.lregs, gregs := r.gregs, regGran := r.regGran, spGran := r.spGran,
    l1Gran := r.l1Gran,
    sets := r.sets.map fun (m, slot) =>
      ⟨m, slot, List.replicate r.gregs (List.replicate (32 * popcount m) ⟨0, true, false⟩)⟩,
    warps := (List.range r.warps).map fun w => Warp.fresh r.code r.threads w,
    sp := [], spPoison := [], insts := [], bars := List.replicate 16 ⟨0, 0, 0⟩, pipes := List.replicate 16 [],
    popOrder := 0, tiles := [], mxPri := 0, copyQ := List.replicate 8 ⟨0, 0, 0, []⟩, jobTickets := 0,
    topkTickets := 0, topkDone := 0, topkHist := [], halt := none, spawnD := 0, arenaOff := 0, saveB := 0 }

/-- Whether a launch has a block that may be placed on a die (R44, R416). -/
def State.pendingOn (s : State) (die : Nat) (L : Launch) : Bool :=
  (match L.phase with | .running => true | .held => false | .done => false) && L.status == 0
    && (decide (L.next < L.rcd.blocks) || !L.again.isEmpty) && L.diesMask.getLsbD die && s.inService die
    && (s.ctx L.rcd.ctx).preState == .running

/-- The place of a launch in the order of dispatch: class, then age (R45). -/
def Launch.rank (L : Launch) : Nat × Nat := (L.rcd.cls, L.age)

def rankLt (a b : Nat × Nat) : Bool := a.1 < b.1 || (a.1 == b.1 && a.2 < b.2)

/-- The parents that may be resumed: saved, their child complete, their context not held (R56, R416). -/
def State.resumable (s : State) (b : Nat) : Bool :=
  let B := s.blk b
  (match B.phase with | .saved => true | .running => false | .prologue _ => false | .gone => false)
    && (s.ctx B.ctx).preState == .running
    && !(s.launches.any fun L => L.parent == some b && L.inFlight)

/-- The indices of the blocks of a persistent launch that wait to be placed together: all of them at first, then those
to be placed anew (R57, R417; assumption 71). -/
def Launch.group (L : Launch) : List Nat := if L.next = 0 then List.range L.rcd.blocks else L.again

/-- What waits for a place on a die: its place in the order, its demand, and, for a persistent launch, that launch: its
blocks are placed together (R45, R56, R57). -/
structure Waiter where
  rank : Nat × Nat
  demand : Demand
  whole : Option Nat
  deriving DecidableEq, Repr

/-- What waits for a place on a die (R45, R56). -/
def State.waiting (s : State) (die : Nat) : List Waiter :=
  ((List.range s.launches.length).filter fun l => s.pendingOn die (s.launch l)).map (fun l =>
      let L := s.launch l
      ⟨L.rank, L.rcd.demand, if L.rcd.persistent then some l else none⟩)
    ++ (if s.inService die then
        ((List.range s.blocks.length).filter s.resumable).map fun b =>
          ⟨(s.launch (s.blk b).launch).rank, (s.blk b).demand, none⟩
        else [])

/-- The first of a list by rank. -/
def firstRank (l : List Waiter) : Option Waiter :=
  l.foldl (fun m x => match m with
    | none => some x
    | some y => if rankLt x.rank y.rank then some x else some y) none

/-- A block of the launch of an age has been placed on a die: its wait begins again there (R45). -/
def Die.waitAgain (d : Die) (age : Nat) : Die := { d with waits := d.waits.filter fun x => x.age != age }

/-- Places a block of a launch on a die; the granules that it takes come from L1 (R61, R63, R64, R66). -/
def State.placeIndex (s : State) (die l i : Nat) : State :=
  let L := s.launch l
  match s.findCore die L.rcd.demand with
  | none => s
  | some (cl, c) =>
    let n := coreNo die cl c
    let old := s.l1Grans n
    let s := { s with blocks := s.blocks ++ [Block.fresh L l i die cl c] }.resizeL1 n old
    s.updDie die fun d => { d.waitAgain L.age with pointer := (cl + 1) % Config.clusters }

/-- Places the next block of a launch on a die. -/
def State.placeBlock (s : State) (die l : Nat) : State :=
  (s.placeIndex die l (s.launch l).next).updLaunch l fun L => { L with next := L.next + 1 }

/-- Places blocks of a persistent launch, each on a die of some with room; which of them takes it is not specified (R44,
R57). -/
def State.placeAll (s : State) (l : Nat) (dies : List Nat) : List Nat → Option State
  | [] => some s
  | i :: is =>
    let room := dies.filter fun d => (s.findCore d (s.launch l).rcd.demand).isSome
    if room.isEmpty then none
    else
      let (k, s) := s.pick room.length
      State.placeAll (s.placeIndex (room.getD k 0) l i) l dies is

/-- More blocks than the package has room for. -/
def maxResident : Nat := Config.dies * Config.clusters * Config.cores * Config.maxBlocks

/-- The dies on which the blocks of a launch may run (R44). -/
def State.eligible (s : State) (L : Launch) : List Nat :=
  (List.range Config.dies).filter fun d => L.diesMask.getLsbD d && s.inService d

/-- The blocks of a persistent launch that wait, placed at once on some dies (R57). -/
def State.placeWhole (s : State) (l : Nat) (dies : List Nat) : Option State :=
  let L := s.launch l
  if L.next = 0 && maxResident < L.rcd.blocks then none
  else (s.placeAll l dies L.group).map fun s =>
    s.updLaunch l fun L => { L with next := L.rcd.blocks, again := [] }

/-- Whether what waits fits on a die now (R45, R57). -/
def State.fits (s : State) (die : Nat) (x : Waiter) : Bool :=
  (s.findCore die x.demand).isSome && (match x.whole with
    | none => true
    | some l => (s.placeWhole l (s.eligible (s.launch l))).isSome)

/-- Whether a wait has run out by a cycle (R45). -/
def DispatchWait.out (x : DispatchWait) (cycle : Nat) : Bool := decide (x.since + 16384 ≤ cycle)

/-- Whether the wait of the launch that stands first on a die has run out (R45). -/
def State.waitOver (s : State) (die : Nat) : Bool :=
  match firstRank (s.waiting die) with
  | none => false
  | some y => (s.die die).waits.any fun x => x.age == y.rank.2 && (x.isOver || x.out s.cycle)

/-- Whether the order of a die lets something with a rank be placed there now: nothing before it fits, and the wait of
the first has not run out (R45). -/
def State.isOpen (s : State) (die : Nat) (rank : Nat × Nat) : Bool :=
  let before := (s.waiting die).filter fun x => rankLt x.rank rank
  before.all (fun x => !s.fits die x) && (before.isEmpty || !s.waitOver die)

/-- Whether one with a rank and demand may be placed on a die now. -/
def State.mayPlace (s : State) (die : Nat) (rank : Nat × Nat) (d : Demand) : Bool :=
  (s.findCore die d).isSome && s.isOpen die rank

/-- BLOCK_PLACE (R45, R57, R61). -/
def execBlockPlace (die l : Nat) (s : State) : Host.Outcome State Fault Refusal :=
  let L := s.launch l
  if !(l < s.launches.length && s.pendingOn die L) then .fault .notEnabled
  else if !s.mayPlace die L.rank L.rcd.demand then .fault .notEnabled
  else if L.rcd.persistent then
    match s.placeWhole l ((s.eligible L).filter fun d => s.isOpen d L.rank) with
      | none => .fault .notEnabled
      | some s => .next s
  else .next (s.placeBlock die l)

/-- DISPATCH_WAIT_EXPIRY: a block has waited 16,384 cycles on the die (R45). -/
def execDispatchWaitExpiry (die : Nat) (s : State) : Host.Outcome State Fault Refusal :=
  if !((s.die die).waits.any fun x => !x.isOver && x.out s.cycle) then .fault .notEnabled
  else .next (s.updDie die fun d =>
    { d with waits := d.waits.map fun x => { x with isOver := x.isOver || x.out s.cycle } })

/-- A die notes the first cycle in which the block that stands first did not fit; what no longer waits is
forgotten (R45). -/
def State.noteWait (s : State) (die : Nat) : State :=
  let ws := s.waiting die
  let kept := (s.die die).waits.filter fun x => ws.any fun y => y.rank.2 == x.age
  let now : List DispatchWait := match firstRank ws with
    | none => kept
    | some y =>
      if !s.fits die y && !kept.any (fun x => x.age == y.rank.2) then kept ++ [⟨y.rank.2, s.cycle, false⟩] else kept
  if now = (s.die die).waits then s else s.updDie die fun d => { d with waits := now }

/-! ### The life of a block -/

/-- The block's phase, changed. -/
def State.setPhase (s : State) (b : Nat) (p : BlockPhase) : State := s.updBlk b fun B => { B with phase := p }

/-- BLOCK_START: after the last binding the warps start; a block of a launch that has failed does not (R26). -/
def execBlockStart (b : Nat) (s : State) : Host.Outcome State Fault Refusal :=
  let B := s.blk b
  let L := s.launch B.launch
  match B.phase with
  | .prologue k =>
    if L.status != 0 then
      let old := s.l1Grans B.coreNo
      .next (((s.setPhase b .gone).updLaunch B.launch fun L => { L with exited := L.exited + 1 }).resizeL1 B.coreNo old)
    else if k < L.rcd.bindings.length then .fault .notEnabled
    else .next (s.setPhase b .running)
  | .running => .fault .notEnabled
  | .saved => .fault .notEnabled
  | .gone => .fault .notEnabled

/-- Whether an engine operation that the block posted is outstanding (R150, R416). -/
def State.enginesBusy (s : State) (b : Nat) : Bool := s.spBusy b || s.walks.any fun w => w.blk == b && !w.written

/-- Whether a memory access or a task operation of the block is outstanding. -/
def State.accessBusy (s : State) (b : Nat) : Bool :=
  s.ctrOps.any (fun x => x.blk == b) || s.loads.any (fun x => x.blk == b) || s.stores.any (fun x => x.blk == b)
    || s.atoms.any (fun x => x.blk == b) || s.fences.any (fun x => x.blk == b)

/-- Whether a fill of the block is pending (R99). -/
def State.fillsBusy (s : State) (b : Nat) : Bool :=
  s.loads.any (fun x => x.blk == b) || s.replies.any (fun x => x.blk == b)
    || s.atoms.any (fun x => x.blk == b && x.dest.isSome)
    || s.mrt.any (fun x => x.blk == b && (match x.kind with | .drainV _ _ _ _ _ => true | _ => false))
    || s.mapOps.any (fun x => x.blk == b) || s.seqOps.any (fun x => x.blk == b) || s.walkReqs.any (fun x => x.blk == b)
    || (s.blk b).warps.any (fun W => match W.wait with
        | some (.mxstat _ _ _ _ _ _) => true
        | some (.mxtest _ _ _) => true
        | _ => false)

/-- The entries of a queue after a block that took some has exited: each stays in its slot and is presented again, or is
discarded; the entries of a queue stand in the order of their enqueuing, in which they are taken (R50, R417). -/
def TaskQ.afterExit (q : TaskQ) (b : Nat) (draining : Bool) : TaskQ :=
  let mine (e : QEntry) : Bool := match e.taken with | some (b', _, _, _) => b' == b | none => false
  let back (e : QEntry) : QEntry := { e with words := (e.words.headD 0 ||| 0x10000#32) :: e.words.tail, taken := none }
  if draining && q.redeliver then { q with entries := q.entries.map fun e => if mine e then back e else e }
  else { q with entries := q.entries.filter fun e => !mine e }

/-- A block leaves its core: its L1 pins, tiles and entries of the group table are free (R150, R78, R243). -/
def State.freePlace (s : State) (b : Nat) : State :=
  let n := (s.blk b).coreNo
  let unpin (x : L1Line) : L1Line := { x with pins := x.pins.filter (· != b) }
  s.updCore n fun c => { c with l1 := c.l1.map unpin }

/-- Whether a block that leaves now is one to be placed anew: of a persistent launch that has not failed, while its
context is drained (R57, R417). -/
def State.comesAgain (s : State) (b : Nat) : Bool :=
  let L := s.launch (s.blk b).launch
  L.rcd.persistent && L.status == 0 && (s.ctx L.rcd.ctx).preState == .draining

/-- A block is gone: its place is free and its untaken work is dealt with (R150, R417). -/
def State.removeBlock (s : State) (b : Nat) : State :=
  let B := s.blk b
  let draining := (s.ctx B.ctx).preState == .draining
  let s := s.freePlace b
  let s := s.updCtx B.ctx fun c => { c with queues := c.queues.map fun q => q.afterExit b draining }
  let s := { s with deqWaits := s.deqWaits.filter fun q => q.blk != b,
                    replies := s.replies.filter fun r => r.blk != b,
                    loads := s.loads.filter fun r => r.blk != b,
                    fences := s.fences.filter fun r => r.blk != b,
                    stalls := s.stalls.filter fun r => r.blk != b,
                    binds := s.binds.filter fun m => m.blk != b,
                    jobs := s.jobs.filter fun j => j.blk != b }
  let s := s.updLaunch B.launch fun L =>
    if s.comesAgain b then { L with again := L.again.filter (· < B.index) ++ B.index :: L.again.filter (B.index < ·) }
    else { L with exited := L.exited + 1 }
  let mine (c : Cluster) : Cluster := { c with steps := c.steps.filter fun t => t.blk != b }
  let old := s.l1Grans B.coreNo
  { s with clusters := s.clusters.map mine }.updBlk b (fun B =>
    { B with phase := .gone, tiles := [], insts := [], halt := none, saveB := 0 }) |>.resizeL1 B.coreNo old

/-- Whether a launch has ended: every block has exited, or it has failed and every block placed is gone (R27, R57, R417,
R425). -/
def Launch.ended (L : Launch) : Bool :=
  (match L.phase with | .running => true | .held => false | .done => false)
    && (if L.status != 0 then decide (L.exited + L.again.length = L.next)
        else decide (L.exited = L.next) && decide (L.next = L.rcd.blocks))

/-- LAUNCH_COMPLETE (R425). -/
def execLaunchComplete (l : Nat) (s : State) : Host.Outcome State Fault Refusal :=
  if l < s.launches.length && (s.launch l).ended then .next (s.complete l) else .fault .notEnabled

/-! ### SPAWN (R53 to R56, R152) -/

/-- The bytes that a saved block takes in the swap arena (R55). -/
def Block.saveBytes (b : Block) : Nat :=
  let m := (b.sets.map fun s => popcount s.members).sum
  65536 * ((65536 + b.warps.length * 32 * (b.lregs + 1) * 4 + m * b.gregs * 128 + b.spGran * 16384
    + b.tiles.length * 8192 + 65535) / 65536)

/-- The lowest offset of an arena at which a save fits (R55). -/
def State.arenaFit (s : State) (ctx size : Nat) : Option Nat :=
  let saved := (s.blocks.filter fun b => b.ctx == ctx && b.saveB != 0).map fun b => (b.arenaOff, b.saveB)
  let total := (s.ctx ctx).arenaMB * 2 ^ 20
  let free (off : Nat) : Bool := decide (off + size ≤ total) && saved.all fun (o, n) => !overlap off size o n
  let starts := 0 :: saved.map fun (o, n) => o + n
  (starts.filter free).foldl (fun (m : Option Nat) x => match m with
    | none => some x
    | some y => some (min x y)) none

/-- A tile of a block that leaves a cluster, and of one that comes to one: it keeps what it depends on (R243, R271). -/
def Tile.leave (t : Tile) (cl : Nat) : Tile :=
  { t with dep := 0, untested := 0, away := (cl, t.dep, t.untested) :: t.away.filter fun x => x.1 != cl }

def Tile.enter (t : Tile) (cl : Nat) : Tile :=
  let (dep, untested) := ((t.away.find? fun x => x.1 == cl).map (·.2)).getD (0, 0)
  { t with dep := dep, untested := untested, away := t.away.filter fun x => x.1 != cl }

/-- A block is saved: its writes are performed and released, and the written bytes of its context go home from the core,
so that it sees them wherever it goes on; its pins and place are free (R54, R220, R386; assumption 72). -/
def State.saveBlock (s : State) (b d off : Nat) : State :=
  let B := s.blk b
  let n := B.coreNo
  let s := s.performPending fun x => x.blk == b
  let s := (List.range B.warps.length).foldl (fun s w => s.release b w 3) s
  let s := (s.cleanLines n fun x => x.ctx == B.ctx).freePlace b
  let old := s.l1Grans n
  (s.updBlk b fun B => { B with
    phase := .saved, spawnD := d, arenaOff := off, saveB := B.saveBytes,
    tiles := B.tiles.map fun t => t.leave B.clusterNo }).resizeL1 n old

/-- A status in the register of every warp with a live lane. -/
def Block.setAll (b : Block) (d : Nat) (x : Word) : Block :=
  { b with warps := b.warps.map fun W => if W.live == 0#32 then W else W.setReg d x }

/-- What SPAWN does with its record once it may issue: a child grid and a saved parent, or a status (R152). -/
def State.spawn (s : State) (b d : Nat) (addr : DWord) : State :=
  let B := s.blk b
  let L := s.launch B.launch
  match s.takeRecord B.die B.ctx addr (some L.rcd) with
  | (s, .inl a) =>
    let s := s.log B.die { kind := 14, ctx := some B.ctx, die := some B.die, code := 1, addr := a.toNat }
    s.updBlk b fun B => B.setAll d 1
  | (s, .inr (.inl (r, e))) =>
    let (age, s) := s.fresh
    let C := newLaunch r B.die (1#4 <<< B.die) (B.depth + 1) none age none .done
    (s.rejectLaunch C e).updBlk b fun B => B.setAll d (BitVec.ofNat 32 e.code)
  | (s, .inr (.inr r)) =>
    match s.arenaFit B.ctx B.saveBytes with
    | none => s.updBlk b fun B => B.setAll d 0x100
    | some off =>
      let (age, s) := s.fresh
      let phase := if (s.ctx B.ctx).preState == .running then LaunchPhase.running else .held
      let C := { newLaunch r B.die (1#4 <<< B.die) (B.depth + 1) (some b) age none phase with
                 snap := s.mem, taken := s.cycle }
      let s := { s with launches := s.launches ++ [C] }
      (s.saveBlock b d off).dropCode B.ctx

/-- SPAWN (R152). It waits for the block's fills and engine operations, which a swap-out waits for. -/
def execSpawn (f : FormDA) (s : State) : Host.Outcome State Fault Refusal :=
  issuing s fun x =>
    let b := x.is.blk
    if !x.legal { ord := [2] } [wop f.d, wop f.a 2] then x.illegalAt 3
    else x.wide .block 15 fun s y =>
      let B := s.blk b
      let lw := B.firstLive
      let addr := (B.warp lw).view.pair f.a.toNat
      let trap (c : Cause) : State := s.wideTrap b lw y c (B.warp lw).live addr x.runLen
      if B.depth = 8 then trap .spawnDepth
      else if !canonical addr then trap .prot
      else if addr.toNat % 128 != 0 then trap .misalign
      else if s.enginesBusy b || s.fillsBusy b || s.allBlocked b (B.warps.map (·.live)) then
        s.updBlk b fun B => B.park x.is.warp (y.arrived.getD x.is.warp 0) (.stall .engines)
      else
        let s := if semReleases x.pf.sem then s.orderAll b (B.needed y) x.pf.ms else s
        (s.finish b y).spawn b f.d.toNat addr

/-- PARENT_RESUME: a saved parent whose child has completed takes a core with room and acquires at package
scope; the child's status is in its register (R56, R152). No line of its context that stands in the core's L1 serves it,
so that its reads do not run backwards (R386). -/
def execParentResume (b die : Nat) (s : State) : Host.Outcome State Fault Refusal :=
  let B := s.blk b
  if !(b < s.blocks.length && s.inService die && s.resumable b) then .fault .notEnabled
  else if !s.mayPlace die (s.launch B.launch).rank B.demand then .fault .notEnabled
  else match s.findCore die B.demand with
    | none => .fault .notEnabled
    | some (cl, c) =>
      let n := coreNo die cl c
      let old := s.l1Grans n
      let status := ((s.launches.filter fun L => L.parent == some b).getLast?.map (·.status)).getD 0
      let s := s.updBlk b fun B =>
        { B.setAll B.spawnD (BitVec.ofNat 32 status) with
          die := die, cluster := cl, core := c, phase := .running, saveB := 0,
          tiles := B.tiles.map fun t => t.enter (clusterNo die cl) }
      let s := (s.resizeL1 n old).invalidateLines n fun x => x.ctx == B.ctx
      let s := s.updDie die fun d =>
        { d.waitAgain (s.launch B.launch).age with pointer := (cl + 1) % Config.clusters }
      .next ((List.range B.warps.length).foldl (fun s w => s.acquire b w 3) s)

end Sys2Proof.Machine
end

