-- ==== Sys2Proof/Machine/Matrix.lean ====
section
/-! DEFINITION. The matrix engine (R242 to R272): tiles, posts, the arbiter, passes, drains, loads,
requantisation, and self-tests. -/

namespace Sys2Proof.Machine

/-! ### Sums of a pass (R169, R174 to R177) -/

/-- The exact product of two codes; two L codes multiply on their logarithms (R169). -/
def product (fa fb a b : Nat) : Val :=
  match fmtOf fa, fmtOf fb with
  | .log w xb st, .log w' xb' st' =>
    let s := a.testBit (w - 1) != b.testBit (w' - 1)
    match logZ xb st a, logZ xb' st' b with
    | some x, some y => let (m, e) := tableVal (x + y); .fin s m 1 e
    | _, _ => .zero s
  | _, _ => (valueOf fa a).mul (valueOf fb b)

/-- |t| ÷ 2^k, truncated, with the sign of t (R177). -/
def truncAt (k : Int) : Val → Int
  | .fin s n d e =>
    let m := shl n (e - k) / shl d (k - e)
    if s then -(m : Int) else m
  | _ => 0

/-- floor(log2) of the largest magnitude of some values; none where all are zero. -/
def topExp (ts : List Val) : Option Int :=
  ts.foldl (fun m t =>
    match t with
    | .fin _ n d e =>
      if n = 0 then m
      else
        let l := flog2 n d + e
        match m with
        | none => some l
        | some k => some (max k l)
    | _ => m) none

/-- The reduction of a term list to one ACC40 code (R177). -/
def reduceTerms (ts : List Val) (anyNan anyInf : Bool) : Nat × Events :=
  let pos := ts.any fun t => t.isInf && !t.neg
  let neg := ts.any fun t => t.isInf && t.neg
  if ts.any Val.isNan || (pos && neg) then roundTo .nan 24 1 false anyNan anyInf
  else if pos || neg then roundTo (.inf neg) 24 1 false anyNan anyInf
  else match topExp ts with
    | none => roundTo (.zero (ts.all Val.neg)) 24 1 false anyNan anyInf
    | some e => roundTo (.dyadic (ts.map (truncAt (e - 64))).sum (e - 64)) 24 1 false anyNan anyInf

/-- The value of a scale code under SF (R174). -/
def scaleVal (sf code : Nat) : Val := valueOf (if sf = 1 then 3 else if sf = 2 then 21 else 0) code

/-- Scale elements of a register (R175). -/
def perReg (sf : Nat) : Nat := if sf = 1 then 2 else if sf = 2 then 4 else 1

/-- One element of a pass (R176): the accumulator, the codes of a row of A and of a column of B, the elements of a
group, and the scales of the groups, empty lists for none. A group's sum that cancels is +0 before it is scaled
(assumption 88). -/
def passElem (acc : BitVec 40) (fa fb gsize sf : Nat) (ra cb : List Nat) (sa sb : List Nat) : Nat × Events :=
  let av := valueOf 24 acc.toNat
  let ps := List.zipWith (product fa fb) ra cb
  let group (j : Nat) : Val :=
    let sum := ((ps.drop (j * gsize)).take gsize).foldl (fun (m : Option Val) p => match m with
      | none => some p
      | some x => some (Val.add false x p)) none
    ((sum.getD (.zero false)).mul (scaleVal sf (sa.getD j 0))).mul (scaleVal sf (sb.getD j 0))
  let terms := if sf = 0 then ps else (List.range sa.length).map group
  let ins := av :: (ra.map (valueOf fa) ++ cb.map (valueOf fb)) ++ sa.map (scaleVal sf) ++ sb.map (scaleVal sf)
  reduceTerms (av :: terms) (ins.any Val.isNan) (ins.any Val.isInf)

/-- The elements of a pass of a format width (R246). -/
def passDepth (w : Nat) : Nat :=
  match w with
  | 32 => 96
  | 16 => 192
  | 8 => 384
  | 6 => 512
  | 4 => 768
  | _ => 1536

/-- The codes of packed elements (R160). -/
def unpack (w n : Nat) (bs : List Byte) : List Nat :=
  let x := leNat bs
  (List.range n).map fun k => elemOf w k x

/-! ### Tiles -/

/-- A tile of +0 elements without poison (R243). -/
def Tile.zero : Tile := { rows := List.replicate 32 (List.replicate 32 0), poison := 0, dep := 0, untested := 0 }

/-- A tile that an operation clears: its sub-arrays are still to be tested (R260, R265, R270, R271). -/
def Tile.cleared (t : Tile) : Tile :=
  { Tile.zero with untested := t.untested, away := t.away.map fun (c, _, u) => (c, 0, u) }

def Tile.row (t : Tile) (r : Nat) : List (BitVec 40) := t.rows.getD r []

def Tile.elem (t : Tile) (r c : Nat) : BitVec 40 := (t.row r).getD c 0

def Block.tile (b : Block) (t : Nat) : Tile := b.tiles.getD t Tile.zero

def State.updTile (s : State) (b t : Nat) (f : Tile → Tile) : State :=
  s.updBlk b fun B => { B with tiles := B.tiles.modify t f }

/-- The tile check of R244. -/
def Block.tileFault (b : Block) (t : Nat) : Option (Cause × DWord) :=
  if t < b.tiles.length then none else some (.engine, BitVec.ofNat 64 t)

/-! ### Posts (R252 to R256) -/

/-- The entries of an engine that have not been granted, oldest first. -/
def State.mrtOf (s : State) (cl : Nat) : List MxEntry := s.mrt.filter fun e => e.cl == cl

def State.mrtFree (s : State) (cl : Nat) : Nat := Config.mrt - (s.mrtOf cl).length

/-- Posts an entry for a warp, after the release of its lanes at core scope. -/
def State.postMx (s : State) (b w : Nat) (k : MxKind) : State × Nat :=
  let (id, s) := s.fresh
  let B := s.blk b
  let e : MxEntry := ⟨id, B.clusterNo, b, w, (s.launch B.launch).rcd.cls, B.mxPri, s.cycle, k, B.sp, 0⟩
  ({ s with mrt := s.mrt ++ [e] }, id)

/-! ### MMA (R244 to R251) -/

/-- An MMA with its run. -/
structure MmaOp where
  acc : Nat
  ix : Nat
  bd : Nat
  sb : Nat
  fa : Nat
  fb : Nat
  sf : Nat
  gs : Nat
  sra : Nat
  srb : Nat

/-- The operation that a word and its run name (R106, R246). -/
def mmaOf (f : FormQ) (p : Pfx) : MmaOp :=
  let m := p.fmt.getD ⟨0, 0, 0, 0, 0⟩
  let fa := f.fmt.toNat
  let fb := if m.bf = 0 then fa else if m.bf = 24 then 0 else m.bf.toNat
  ⟨f.acc.toNat, f.ix.toNat, f.bd.toNat, f.sb.toNat, fa, fb, m.sf.toNat, m.gs.toNat, m.sra.toNat, m.srb.toNat⟩

def MmaOp.depth (m : MmaOp) : Nat := passDepth (fmtWidth m.fa)

def MmaOp.gsize (m : MmaOp) : Nat := groupSize m.gs m.depth

/-- Groups of a pass that carry scales (R175). -/
def MmaOp.groups (m : MmaOp) : Nat := if m.sf = 0 then 0 else m.depth / m.gsize

/-- The registers, from a base, that the groups' scales lie in (R175). -/
def MmaOp.regs (m : MmaOp) (base : Nat) : List Nat :=
  (((List.range m.groups).map fun j => base + (m.sb + j) / perReg m.sf)).eraseDups

/-- The scale codes of the groups, from the registers of a lane. -/
def MmaOp.scales (m : MmaOp) (base : Nat) (reg : Nat → Word) : List Nat :=
  let p := perReg m.sf
  let w := 32 / p
  (List.range m.groups).map fun j => elemOf w ((m.sb + j) % p) (reg (base + (m.sb + j) / p)).toNat

/-- The cases of MMA that raise ILLEGAL_OP (R175, R244 to R246, R249). -/
def MmaOp.ok (m : MmaOp) (lregs sc : Nat) : Bool :=
  sc ≤ 2 && m.acc < 32 && m.bd < 31 && m.fa ≤ 21 && m.fb ≤ 21 && fmtWidth m.fb == fmtWidth m.fa
    && (m.sf != 0 || m.sb == 0) && m.depth % m.gsize == 0
    && (m.regs m.sra ++ m.regs m.srb).all fun r => r ≤ 63 && (r < lregs || r == 63)

/-- The formats that an MMA accepts in Twilight mode: the bits of MXFMT, FP32 for a BF of 24 among them (R434,
R435). -/
def mxfmtTwilight : Nat := 0x00203C7C

def MmaOp.inTwilight (m : MmaOp) : Bool := mxfmtTwilight.testBit m.fa && mxfmtTwilight.testBit m.fb

/-- The scale registers of A as sources of a lane. -/
def MmaOp.srcA (m : MmaOp) : List Src := (m.regs m.sra).map fun r => ⟨r, 1, false, .own⟩

/-- Whether the B scales of a warp let its lanes post (R249, R250). -/
def MmaOp.readyB (m : MmaOp) (w : Warp) : Ready :=
  let rs := m.regs m.srb
  if (lanesOf w.live).any fun l => !rs.all (w.lane l).full then .wait
  else if (List.range 32).any fun l => rs.any (w.lane l).poisoned then .fault .poison
  else .go

/-- A scale register of a lane: 0 where the fill of an exited lane was discarded (R249). -/
def Lane.scaleReg (l : Lane) (n : Nat) : Word := if l.full n then l.reg n else 0

/-- The first of two answers that stops a lane. -/
def Ready.and (a b : Ready) : Ready :=
  match a, b with
  | .fault c, _ => .fault c
  | _, .fault c => .fault c
  | .go, r => r
  | .wait, _ => .wait

/-- The rows of the lanes of a warp that pass the checks of R248, and the faults of the others. `held` says whether
every tile is held, else the tile that is not. -/
def MmaOp.rows (m : MmaOp) (B : Block) (w : Nat) (held : Option Nat) (lanes : List Nat) (idx : Nat → Nat) :
    List (Nat × Nat × List Nat) × List (Nat × Nat × AccRes) :=
  let W := B.warp w
  let boff := (W.reg m.bd).toNat
  let aw := (W.reg (m.bd + 1)).toNat
  let abase := aw % 2 ^ 20
  let pitch := aw / 2 ^ 20
  let all (c : Cause) (a : Nat) := ([], lanes.map fun l => (w, l, AccRes.fault c (BitVec.ofNat 64 a)))
  if boff % 16 != 0 || abase % 16 != 0 then all .misalign (if boff % 16 != 0 then boff else abase)
  else if B.spSize < boff + 12288 then all .prot boff
  else
    let off (l : Nat) : Nat := abase + idx l * 16 * pitch
    let good := lanes.filter fun l => off l + 384 ≤ B.spSize
    let bad := (lanes.filter fun l => B.spSize < off l + 384).map fun l =>
      (w, l, AccRes.fault .prot (BitVec.ofNat 64 (off l)))
    match held with
    | some t => ([], bad ++ good.map fun l => (w, l, AccRes.fault .engine (BitVec.ofNat 64 t)))
    | none => (good.map fun l => (l, idx l, m.scales m.sra (W.lane l).scaleReg), bad ++ good.map fun l => (w, l, .done))

/-- The pass that some rows of a warp ask for. -/
def MmaOp.pass (m : MmaOp) (W : Warp) (tile : Nat) (rows : List (Nat × Nat × List Nat)) (quarter : Option Nat) :
    MxKind :=
  let aw := (W.reg (m.bd + 1)).toNat
  let sb := if m.sf = 0 then [] else W.lanes.map fun l => m.scales m.srb l.scaleReg
  .pass tile rows (W.reg m.bd).toNat (aw % 2 ^ 20) (aw / 2 ^ 20) m.fa m.fb m.gs m.sf m.sb sb quarter

/-- The entries of a warp's rows: one for each quarter at lane scope, else one (R250, R251). -/
def MmaOp.entries (m : MmaOp) (W : Warp) (tile : Nat) (rows : List (Nat × Nat × List Nat)) (byQuarter : Bool) :
    List MxKind :=
  if byQuarter then
    (List.range 4).filterMap fun q =>
      let mine := rows.filter fun r => r.1 / 8 == q
      if mine.isEmpty then none else some (m.pass W tile mine (some q))
  else if rows.isEmpty then [] else [m.pass W tile rows none]

/-- The index that a lane supplies: a v register, or at set scope an element of the g register (R249, R251). -/
def MmaOp.index (m : MmaOp) (B : Block) (set : Option Nat) (w l : Nat) : Nat :=
  match set with
  | none => (((B.warp w).lane l).reg m.ix).toNat
  | some i => ((B.set i).elem m.ix ((B.set i).pos w) l).val.toNat

/-- Whether a lane's index and A scales can be read (R98, R249). -/
def MmaOp.ready (m : MmaOp) (B : Block) (set : Option Nat) (w l : Nat) : Ready :=
  let L := (B.warp w).lane l
  let own : Ready :=
    match set with
    | none => readiness L.view [⟨m.ix, 1, false, .own⟩] []
    | some i => readiness ((B.set i).view ((B.set i).pos w) l L) [⟨m.ix, 1, false, .own⟩] []
  own.and (readiness L.view m.srcA [])

/-- The tile of a warp, and the first tile of the instruction's range that the block does not hold (R244, R251). -/
def MmaOp.tileOf (m : MmaOp) (B : Block) (set : Option Nat) (w : Nat) : Nat :=
  match set with
  | none => m.acc
  | some i => m.acc + (B.set i).pos w

def MmaOp.missing (m : MmaOp) (B : Block) (set : Option Nat) : Option Nat :=
  let n := match set with | none => 1 | some i => popcount (B.set i).members
  if m.acc + n ≤ B.tiles.length then none else some (max m.acc B.tiles.length)

/-- Posts for lanes of some warps whose sources can be read: the answer of each lane; where the table has too few
free entries nothing is posted and they stall (R252). -/
def MmaOp.post (m : MmaOp) (s : State) (b : Nat) (set : Option Nat) (byQuarter : Bool)
    (ws : List (Nat × List Nat)) : State × List (Nat × Nat × AccRes) :=
  let B := s.blk b
  let plans := ws.map fun (w, lanes) => (w, m.rows B w (m.missing B set) lanes (m.index B set w))
  let entries := plans.flatMap fun (w, rows, _) =>
    (m.entries (B.warp w) (m.tileOf B set w) rows byQuarter).map fun k => (w, k)
  let answers := plans.flatMap fun (_, _, rs) => rs
  if s.mrtFree B.clusterNo < entries.length then
    (s, answers.map fun (w, l, r) => (w, l, if r == .done then .stall .mrt else r))
  else
    let s := ws.foldl (fun s (w, lanes) => s.releaseLanes b w (maskOf fun l => lanes.contains l) 0) s
    (entries.foldl (fun s (w, k) => (s.postMx b w k).1) s, answers)

/-- What follows the answers of lanes that act one by one; those that must wait for a fill are not of the issue group
(R116, R117, R411). -/
def Ex.lanesDone (x : Ex) (s : State) (rs : List (Nat × Nat × AccRes)) : State :=
  let b := x.is.blk
  let w := x.is.warp
  let active := x.is.lanes &&& ~~~maskOf fun l => rs.any fun (_, k, r) => k == l && r == .wait
  let s := rs.foldl (fun s (_, l, r) =>
    let s := match r with | .stall on => s.stalled b w on | _ => s
    s.updLane b w l (r.apply x.s.cycle)) s
  let s := s.unstalled b w
  if active == 0#32 then s.uncountSkid b w
  else match lowestFault (faultsOf rs w) with
    | none => s
    | some (c, f, a) => s.trap b (mkTrap w c f active a x.runLen)

/-- Lanes of a group that act one by one: at lane scope, or replaying (R250, R411). -/
def Ex.mmaLanes (x : Ex) (m : MmaOp) (set : Option Nat) (byQuarter : Bool) : State :=
  let b := x.is.blk
  let w := x.is.warp
  let r (l : Nat) : Ready := x.s.orderedReady b w l (m.ready x.b set w l)
  let lanes := lanesOf x.is.lanes
  let go := lanes.filter fun l => r l == .go
  let early := lanes.filterMap fun l =>
    match r l with
    | .go => none
    | .wait => some (w, l, AccRes.wait)
    | .fault c => some (w, l, AccRes.fault c 0)
  match m.readyB x.w with
  | .wait => x.lanesDone x.s (early ++ go.map fun l => (w, l, .wait))
  | .fault c => x.lanesDone x.s (early ++ go.map fun l => (w, l, .fault c 0))
  | .go =>
    let (s, rs) := m.post x.s b set byQuarter [(w, go)]
    x.lanesDone s (early ++ rs)

/-- A completed instance at warp or set scope: one entry for each warp; lanes that fault replay by themselves
(R248, R251, R411). -/
def Ex.mmaWide (x : Ex) (m : MmaOp) (set : Option Nat) (s : State) (y : Inst) : State :=
  let b := x.is.blk
  let B := s.blk b
  let n := B.needed y
  let ws := (List.range n.length).filter fun w => n.getD w 0 != 0#32
  let lanes := ws.flatMap fun w => (lanesOf (n.getD w 0)).map fun l => (w, l)
  let ready (w l : Nat) : Ready := s.orderedReady b w l ((m.ready B set w l).and (m.readyB (B.warp w)))
  match x.setBlocked s y lanes ready with
  | some s => s
  | none =>
    let (s1, rs) := m.post s b set false (ws.map fun w => (w, lanesOf (n.getD w 0)))
    if rs.any fun (_, _, r) => r == .stall .mrt then
      ws.foldl (fun s w => (s.stalled b w .mrt).updBlk b fun B => B.park w (n.getD w 0) (.stall .mrt)) s
    else
      let unperformed := rs.any fun (_, _, r) => match r with | .fault c _ => !c.ofAddress | _ => false
      if unperformed then s.setTraps x y n rs
      else
        let s1 := ws.foldl (fun s w => s.unstalled b w) (s1.finish b y)
        let s1 := rs.foldl (fun s (w, l, r) =>
          match r with
          | .fault _ _ => s.updLane b w l fun L => L.toReplay y.addr
          | _ => s) s1
        s1.setTraps x y n rs

/-- MMA (R248 to R251). -/
def execMma (f : FormQ) (s : State) : Host.Outcome State Fault Refusal :=
  issuing s fun x =>
    let sc := f.sc.toNat
    let m := mmaOf f x.pf
    let acc : Acc := { mod := true, k := sc == 1 || sc == 2, ss := sc == 2, fmt := true }
    if !x.legal acc [⟨if sc = 2 then .g else .v, f.ix.toNat, 1, false⟩] (m.ok x.b.lregs sc && (x.inService || m.inTwilight)) then x.illegalAt sc
    else if sc = 0 then x.mmaLanes m none true
    else match x.unit sc with
      | none => x.illegalAt sc
      | some u =>
        let set := match u with | .set i => some i | _ => none
        if (x.w.lane (lowest x.is.lanes)).replay then x.mmaLanes m set false
        else x.wide u x.pf.modOf.k.toNat fun s y => x.mmaWide m set s y

/-! ### Reservation (R258 to R262) -/

/-- The status of MXRES (R258). -/
def State.mxresStatus (s : State) (b n : Nat) : Nat :=
  let B := s.blk b
  if n = 0 || 32 < n then 1
  else if !B.tiles.isEmpty then 3
  else if s.freeTiles B.clusterNo < n then 2
  else 0

/-- MXRES (R258). -/
def execMxres (f : FormDA) (s : State) : Host.Outcome State Fault Refusal :=
  issuing s fun x =>
    let b := x.is.blk
    if !x.legal {} [wop f.d, wop f.a] then x.illegalAt 3
    else x.wide .block 15 fun s y =>
      let B := s.blk b
      let n := ((B.warp B.firstLive).reg f.a.toNat).toNat
      let st := s.mxresStatus b n
      let s := if st = 0 then s.updBlk b fun B => { B with tiles := List.replicate n Tile.zero } else s
      (s.finish b y).updBlk b fun B => B.setAll f.d.toNat (BitVec.ofNat 32 st)

/-- Whether a matrix operation or a walk of a block is outstanding. -/
def State.mxBusy (s : State) (b : Nat) : Bool :=
  s.mrt.any (fun e => e.blk == b) || s.walks.any fun w => w.blk == b && !w.written

/-- MXREL waits for the block's operations and walks and gives its tiles up (R259, R300). -/
def execMxrel (s : State) : Host.Outcome State Fault Refusal :=
  issuing s fun x =>
    let b := x.is.blk
    if !x.legal {} [] then x.illegalAt 3
    else x.wide .block 15 fun s y =>
      if s.mxBusy b then s.updBlk b fun B => B.park x.is.warp (y.arrived.getD x.is.warp 0) (.stall .engines)
      else (s.finish b y).updBlk b fun B => { B with tiles := [] }

/-- A post that takes one entry of the table, after a tile or descriptor check (R252). -/
def State.postOne (s : State) (o : Who) (k : MxKind) : State × AccRes :=
  if s.mrtFree (s.blk o.blk).clusterNo = 0 then (s, .stall .mrt)
  else s.post o 0 fun s => ((s.postMx o.blk o.warp k).1, .done)

/-- MXZERO (R260). -/
def execMxzero (f : FormAB) (s : State) : Host.Outcome State Fault Refusal :=
  issuing s fun x =>
    let n := f.b.toNat
    x.uniform {} [wop f.a, litop f.b 32] (n != 0) fun s o w =>
      let t := (w f.a.toNat).toNat % 64
      let B := s.blk o.blk
      match (List.range n).findSome? fun i => B.tileFault (t + i) with
      | some (c, a) => (s, .fault c a)
      | none => s.postOne o (.zero t n)

/-- The word of MXSTAT (R261). -/
def State.mxWord (s : State) (b tile : Nat) : Word :=
  let B := s.blk b
  let C := s.cluster B.clusterNo
  let p := if tile = 63 then 0 else (B.tile tile).poison.toNat
  BitVec.ofNat 32 (p + C.suspect.toNat * 2 ^ 4 + C.fenced.toNat * 2 ^ 8 + B.tiles.length * 2 ^ 16)

/-- The bits of a tile's sub-arrays that a test must still come to before the tile is served: those that are not fenced
and that none has come to since (R270). -/
def State.needsTest (s : State) (b : Nat) (t : Tile) (tested : BitVec 4) : BitVec 16 :=
  let m := ~~~((s.cluster (s.blk b).clusterNo).fenced ||| tested)
  t.untested &&& (m ++ m ++ m ++ m)

/-- Whether the point that an MXSTAT waits for is reached (R261, R270). -/
def State.mxReached (s : State) (b mode : Nat) (covered : List Nat) (tested : BitVec 4) : Bool :=
  !(s.mrt.any fun e => covered.contains e.id)
    && (mode = 0 || (s.blk b).tiles.all fun t => s.needsTest b t tested == 0)

/-- MXSTAT (R261): the warps wait until the covered posts reach the mode's point. -/
def execMxstat (f : FormMx) (s : State) : Host.Outcome State Fault Refusal :=
  issuing s fun x =>
    let b := x.is.blk
    let w := x.is.warp
    let mode := f.b.toNat
    if !x.legal { mod := !f.blk, k := !f.blk } [wop f.d, wop f.a, litop f.b 1] then x.illegalAt (if f.blk then 3 else 1)
    else
      let u : RdvUnit := if f.blk then .block else .warp w
      x.wide u (if f.blk then 15 else x.pf.modOf.k.toNat) fun s y =>
        let B := s.blk b
        let lw := if f.blk then B.firstLive else w
        let t := ((B.warp lw).reg f.a.toNat).toNat % 64
        let fault := if t = 63 then none else B.tileFault t
        match fault with
        | some (c, a) => s.wideTrap b lw y c ((B.needed y).getD lw 0) a x.runLen
        | none =>
          let mine (e : MxEntry) : Bool := e.blk == b && !e.kind.isWalk && (f.blk || e.warp == w)
          let covered := (s.mrt.filter mine).map (·.id)
          let hold (i : Nat) (W : Warp) : Warp :=
            if (f.blk && W.live != 0#32) || (!f.blk && i == w) then
              { W with wait := some (.mxstat mode t f.d.toNat covered 0 f.blk) } else W
          (s.finish b y).updBlk b fun B => { B with warps := B.warps.mapIdx hold }

/-- A warp of a block that waits in an MXSTAT goes on with its word, with the acquire. -/
def State.mxReturn (s : State) (b w d : Nat) (v : Word) : State :=
  (s.acquire b w 0).updWarp b w fun W => { W.setReg d v with wait := none }

/-- MXSTAT_RETURN: one word, which the warps of the whole block take together at block scope (R129, R261). A status on its
way arrives in a halted block too (R405). -/
def execMxstatReturn (b w : Nat) (s : State) : Host.Outcome State Fault Refusal :=
  match (s.warp b w).wait with
  | some (.mxstat mode t d covered tested whole) =>
    let together (i : Nat) : Bool := i == w || (whole && (s.warp b i).wait == (s.warp b w).wait)
    if s.mxReached b mode covered tested then
      .next (((List.range (s.blk b).warps.length).filter together).foldl (fun u i => u.mxReturn b i d (s.mxWord b t)) s)
    else .fault .notEnabled
  | _ => .fault .notEnabled

/-- MXTEST: the warp waits for a test of every sub-array that is not fenced (R262). -/
def execMxtest (f : FormED) (s : State) : Host.Outcome State Fault Refusal :=
  issuing s fun x =>
    x.uniform {} [wop f.d] true fun s o _ =>
      let p := ~~~(s.cluster (s.blk o.blk).clusterNo).fenced
      if p = 0 then (s.setW o f.d [0], .done)
      else (s.updWarp o.blk o.warp fun W => { W with wait := some (.mxtest p 0 f.d.toNat) }, .done)

/-- MXPRI (R262). -/
def execMxpri (f : FormEA) (s : State) : Host.Outcome State Fault Refusal :=
  issuing s fun x =>
    x.uniform {} [wop f.a] true fun s o w =>
      (s.updBlk o.blk fun B => { B with mxPri := (w f.a.toNat).toNat % 4 }, .done)

/-! ### Drains, loads and requantisation: posts (R263, R264, R266, R268) -/

/-- Bytes of a scale under SFMT (R264). -/
def scaleBytes (sf : Nat) : Nat := if sf = 1 then 2 else if sf = 2 then 1 else if sf = 3 then 4 else 0

/-- Bits of an element in a line; an ACC40 element takes 8 bytes (R164, R264). -/
def lineBits (c : Nat) : Nat := if c = 24 then 64 else fmtWidth c

/-- Bytes of a line (R264). -/
def lineBytes (c : Nat) : Nat := 4 * lineBits c

/-- Whether a tile descriptor breaks R264. -/
def badTileDesc (spSize : Nat) (load : Bool) (d : List Byte) : Bool :=
  let n (off len : Nat) : Nat := fieldAt d off len
  let df := n 16 1
  let sf := n 17 1
  let fl := n 18 1
  let fmtBad := !(df ≤ 20 || df = 22 || df = 23 || df = 24) || 3 < sf || (df = 24 && sf != 0)
  let addrBad := n 0 4 % 4 != 0 || n 4 4 % 4 != 0 || n 4 4 < lineBytes df || spSize < n 0 4 + 31 * n 4 4 + lineBytes df
  let sclBad := if sf = 0 then n 8 4 != 2 ^ 32 - 1 else n 8 4 % 4 != 0 || spSize < n 8 4 + 32 * scaleBytes sf
  let flBad := 8 ≤ fl || (fl.testBit 1 && sf != 0) || (load && (fl.testBit 1 || fl.testBit 2))
  let syncBad := (syncField spSize (n 12 4)).2 || (load && n 12 4 != 2 ^ 32 - 1)
  fmtBad || addrBad || sclBad || flBad || syncBad || !zeroBytes d 19 13

/-- Whether a REQ descriptor breaks R268. -/
def badReqDesc (spSize : Nat) (d : List Byte) : Bool :=
  let n (off len : Nat) : Nat := fieldAt d off len
  let gs := n 20 1
  let fmt := n 21 1
  let sf := n 22 1
  let bytes := n 16 4 * (groupSize gs 0 * fmtWidth fmt / 8)
  let scl := n 16 4 * scaleBytes sf
  let off (o len : Nat) : Bool := n o 4 % 4 != 0 || spSize < n o 4 + len
  off 0 bytes || off 4 bytes || off 8 scl || off 12 scl || (n 0 4 != n 4 4 && overlap (n 0 4) bytes (n 4 4) bytes)
    || n 16 4 < 1 || 65536 < n 16 4 || gs < 1 || 5 < gs || 20 < fmt || sf < 1 || 3 < sf || 1 < n 23 1
    || (syncField spSize (n 24 4)).2 || !zeroBytes d 28 4

/-- A descriptor of 32 bytes in scratchpad, copied at the post; the check of its address comes before that of the tile,
if there is one, whose cause is higher (R244, R263, R414). Where the tile is not held and the descriptor breaks its
table, both ENGINE, FADDRLO holds the tile (assumption 92). -/
def State.mxDesc (s : State) (o : Who) (off : Nat) (tile : Option Nat) (bad : Nat → List Byte → Bool)
    (k : List Byte → MxKind) : State × AccRes :=
  if s.deqBlocks o.blk o.warp o.mask then (s, .wait)
  else
  let s := s.orderBytes o true off 32
  let B := s.blk o.blk
  match spCheckAt B.spSize off 16 32, tile.bind B.tileFault with
  | some (c, a), _ => (s, .fault c a)
  | none, some (c, a) => (s, .fault c a)
  | none, none =>
    let d := B.readSp off 32
    if bad B.spSize d then (s, .fault .engine (BitVec.ofNat 64 off)) else s.postOne o (k d)

/-- MXDS and MXLD. -/
def tileMove (f : FormAB) (load : Bool) (k : Nat → List Byte → MxKind) (s : State) : Host.Outcome State Fault Refusal :=
  issuing s fun x =>
    x.uniform {} [wop f.a, wop f.b] true fun s o w =>
      let t := (w f.a.toNat).toNat % 64
      s.mxDesc o (w f.b.toNat).toNat (some t) (fun n d => badTileDesc n load d) (k t)

def execMxds (f : FormAB) (s : State) := tileMove f false .drain s

def execMxld (f : FormAB) (s : State) := tileMove f true .load s

/-- REQ (R268). -/
def execReq (f : FormEA) (s : State) : Host.Outcome State Fault Refusal :=
  issuing s fun x =>
    x.uniform {} [wop f.a] true fun s o w => s.mxDesc o (w f.a.toNat).toNat none badReqDesc .req

/-- Elements of a row that a lane of MXDV receives, and the chunks of a row; none for a format that MXDV does not
take (R266). -/
def drainShape (c : Nat) : Option (Nat × Nat) :=
  if [0, 1, 22, 23].contains c then some (4, 8)
  else if [2, 3, 10, 11].contains c then some (8, 4)
  else if [4, 5, 6, 12, 13, 18].contains c then some (16, 2)
  else if [9, 14, 15, 20, 16, 17].contains c then some (32, 1)
  else if c = 24 then some (2, 16)
  else none

/-- MXDV: the destinations are empty until the drain fills them (R97, R266). -/
def execMxdv (f : FormDAB) (s : State) : Host.Outcome State Fault Refusal :=
  issuing s fun x =>
    let b := x.is.blk
    let w := x.is.warp
    let fmt := f.b.toNat
    let d := f.d.toNat
    if !x.legal { mod := true, k := true, mz := true } [⟨.v, d, 4, false⟩, wop f.a] (drainShape fmt).isSome then x.illegalAt 1
    else x.wide (.warp w) x.pf.modOf.k.toNat fun s y =>
      let n := x.neededHere s y
      let B := s.blk b
      let W := B.warp w
      match x.warpBlocked s y n (fun l => readiness (W.lane l).view [] (codes d 4))
          (x.pf.modOf.mz && W.othersPend n (codes d 4)) with
      | some s => s
      | none =>
        let a := (W.reg f.a.toNat).toNat
        let t := a % 64
        let chunk := a / 256 % 16
        let o : Who := ⟨b, w, 32, n, false⟩
        let res : State × AccRes :=
          match B.tileFault t with
          | some (c, a) => (s, .fault c a)
          | none =>
            if ((drainShape fmt).getD (0, 0)).2 ≤ chunk then (s, .fault .engine (BitVec.ofNat 64 t))
            else match s.postOne o (.drainV t chunk fmt d n) with
              | (s, .done) => (s.updWarp b w fun W =>
                  let W := W.mapLanes n fun _ l => l.markEmpty d 4
                  if x.pf.modOf.mz then W.zeroOthers n (codes d 4) else W, .done)
              | r => r
        x.settleWarp s y n res

/-! ### The arbiter (R253, R254) -/

/-- The rows that an operation touches, as a tile and a row (R253). -/
def MxKind.rows (k : MxKind) : List (Nat × Nat) :=
  let whole (t : Nat) : List (Nat × Nat) := (List.range 32).map fun r => (t, r)
  match k with
  | .pass t rows _ _ _ _ _ _ _ _ _ _ => rows.map fun r => (t, r.1)
  | .zero t n => (List.range n).flatMap fun i => whole (t + i)
  | .drain t _ => whole t
  | .drainV t _ _ _ _ => whole t
  | .load t _ => whole t
  | .req _ => []
  | .walk _ => []

def MxKind.isPass : MxKind → Bool
  | .pass _ _ _ _ _ _ _ _ _ _ _ _ => true
  | .zero _ _ => false
  | .drain _ _ => false
  | .drainV _ _ _ _ _ => false
  | .load _ _ => false
  | .req _ => false
  | .walk _ => false

/-- Whether two entries touch one tile row. -/
def MxEntry.meets (a b : MxEntry) : Bool := a.blk == b.blk && a.kind.rows.any fun r => b.kind.rows.contains r

/-- Whether no earlier entry touches a row of this one (R253). -/
def State.mxReady (s : State) (e : MxEntry) : Bool :=
  (s.mrt.takeWhile fun x => x.id != e.id).all fun x => x.cl != e.cl || !x.meets e

/-- The keys of R253: whether it has waited 4,096 cycles, class, priority turned round, name. -/
def MxEntry.key (e : MxEntry) (cycle : Nat) : Nat × Nat × Nat × Nat :=
  if e.posted + 4096 ≤ cycle then (0, 0, 0, e.id) else (1, e.cls, 3 - e.pri, e.id)

def keyLt (a b : Nat × Nat × Nat × Nat) : Bool :=
  a.1 < b.1 || (a.1 == b.1 && (a.2.1 < b.2.1 || (a.2.1 == b.2.1 && (a.2.2.1 < b.2.2.1
    || (a.2.2.1 == b.2.2.1 && a.2.2.2 < b.2.2.2)))))

/-- The ready entries of an engine that the array takes, or that the drain unit takes. -/
def State.mxCandidates (s : State) (cl : Nat) (array : Bool) : List MxEntry :=
  (s.mrtOf cl).filter fun e => (e.kind.isPass || e.kind.isWalk) == array && s.mxReady e

/-- The one that the array or the drain unit takes next. -/
def State.mxNext (s : State) (cl : Nat) (array : Bool) : Option MxEntry :=
  (s.mxCandidates cl array).foldl (fun m e => match m with
    | none => some e
    | some x => if keyLt (e.key s.cycle) (x.key s.cycle) then some e else some x) none

/-- Whether two quarter entries may be of one pass, but for the time of their posts (R254). -/
def MxEntry.fuses (a e : MxEntry) : Bool :=
  match a.kind, e.kind with
  | .pass _ _ boff _ _ fa fb g sf sb scB (some q), .pass _ _ boff' _ _ fa' fb' g' sf' sb' scB' (some q') =>
    a.blk == e.blk && boff == boff' && fa == fa' && fb == fb' && g == g' && sf == sf' && sb == sb' && scB == scB'
      && q != q' && !a.meets e
  | _, _ => false

/-- Whether an entry is of a quarter whose sub-array is fenced: its rows are computed in a pass of their own (R272). -/
def State.inFenced (s : State) (e : MxEntry) : Bool :=
  match e.kind with
  | .pass _ _ _ _ _ _ _ _ _ _ _ (some q) => (s.cluster e.cl).fenced.getLsbD q
  | _ => false

/-- The entries of one pass: the granted one and up to three more, no two of one quarter or row, each posted before it
or at most 8 cycles after it (R254, R272). -/
def State.mxFused (s : State) (a : MxEntry) : List MxEntry :=
  let may (e : MxEntry) : Bool := e.posted ≤ a.posted + 8 && !s.inFenced a && !s.inFenced e
  (s.mxCandidates a.cl true).foldl (fun l e =>
    if l.length < 4 && may e && l.all (·.fuses e) then l ++ [e] else l) [a]

/-! ### Passes (R247, R256, R269, R271) -/

/-- Bytes of scratchpad as an engine reads them: a word that has changed since the post is its old or its new value
(R256). -/
def Block.mixed (b : Block) (snap : List Host.Cell) (t off n : Nat) : List Byte :=
  (List.range n).map fun i =>
    let a := off + i
    let new := Memory.read b.sp a
    let same := Memory.readBytes snap (a / 4 * 4) 4 == b.readSp (a / 4 * 4) 4
    if same || Config.freeRace (t + a / 4) then new else Memory.read snap a

/-- The free values that a read of scratchpad by an engine takes. -/
def State.mixUsed (s : State) (b : Nat) : State := { s with tick := s.tick + (s.blk b).spSize / 4 + 1 }

/-- The sub-array that computes a row group: its own, or the lowest that is not fenced (R242, R272). -/
def Cluster.subOf (c : Cluster) (g : Nat) : Nat :=
  if c.fenced.getLsbD g then ((List.range 4).find? fun s => !c.fenced.getLsbD s).getD 0 else g

/-- A tile after a pass has updated rows: which of them, their new elements, which are poisoned by operands, and the
engine's suspects. -/
def Tile.updated (t : Tile) (c : Cluster) (new : List (Nat × List (BitVec 40) × Bool)) : Tile :=
  new.foldl (fun t (r, es, pois) =>
    let g := r / 8
    let s := c.subOf g
    { rows := t.rows.set r es,
      poison := if pois || c.suspect.getLsbD s then t.poison ||| (1#4 <<< g) else t.poison,
      dep := t.dep ||| (1#16 <<< (4 * g + s)), untested := t.untested ||| (1#16 <<< (4 * g + s)) }) t

/-- The effect of one entry of a pass (R247). -/
def State.passEntry (s : State) (e : MxEntry) : State :=
  match e.kind with
  | .pass tile rows boff abase pitch fa fb gs sf _ scB _ =>
    let B := s.blk e.blk
    let wd := fmtWidth fa
    let K := passDepth wd
    let gsize := groupSize gs K
    let T := B.tile tile
    let cols := (List.range 32).map fun c => unpack wd K (B.mixed e.snap s.tick (boff + 384 * c) 384)
    let badB := B.spPoisoned boff 12288
    let one (r : Nat × Nat × List Nat) : (Nat × List (BitVec 40) × Bool) × List (Nat × Events) :=
      let off := abase + r.2.1 * 16 * pitch
      let ra := unpack wd K (B.mixed e.snap s.tick off 384)
      let es := (List.range 32).map fun c =>
        passElem (T.elem r.1 c) fa fb gsize sf ra (cols.getD c []) r.2.2 (scB.getD c [])
      ((r.1, es.map fun p => BitVec.ofNat 40 p.1, badB || B.spPoisoned off 384), es.map fun p => (5, p.2))
    let out := rows.map one
    let s := (s.mixUsed e.blk).updTile e.blk tile fun t => t.updated (s.cluster e.cl) (out.map (·.1))
    s.countAll B.launch (out.flatMap (·.2))
  | _ => s

/-- An entry has been granted and leaves the table. -/
def State.dropMx (s : State) (id : Nat) : State := { s with mrt := s.mrt.filter fun e => e.id != id }

/-- Whether a warp on a cluster waits for the tests of an MXTEST, which go ahead of every waiting entry (R262). -/
def State.testAsked (s : State) (cl : Nat) : Bool :=
  s.blocks.any fun b => b.resident && b.clusterNo == cl && b.warps.any fun W =>
    match W.wait with | some (.mxtest _ _ _) => true | _ => false

/-- Whether the array of a cluster may take a pass: no MXTEST waits there, and no sub-array is due for the test of every
65,536 passes (R262, R270). -/
def State.arrayFree (s : State) (cl : Nat) : Bool :=
  let C := s.cluster cl
  !s.testAsked cl && (List.range 4).all fun i => C.fenced.getLsbD i || C.passes.getD i 0 < 65536

/-- The array has made a pass (R270). -/
def State.countPass (s : State) (cl : Nat) : State := s.updCluster cl fun c => { c with passes := c.passes.map (· + 1) }

/-- PASS: the arbiter grants a pass and fuses quarters with it (R247, R253, R254). -/
def execPass (k : Nat) (s : State) : Host.Outcome State Fault Refusal :=
  opOf s.mrt (fun e => e.id == k && e.kind.isPass && s.arrayFree e.cl
      && ((s.mxNext e.cl true).any fun x => x.id == k)) fun e =>
    .next (((s.mxFused e).foldl (fun s e => (s.passEntry e).dropMx e.id) s).countPass e.cl)

/-! ### The drain unit (R260, R265 to R269) -/

/-- An entry that the drain unit serves next, of a shape. -/
def State.serve (s : State) (k : Nat) (p : MxKind → Bool) (f : MxEntry → State) : Host.Outcome State Fault Refusal :=
  opOf s.mrt (fun e => e.id == k && p e.kind && ((s.mxNext e.cl false).any fun x => x.id == k)) fun e =>
    .next ((f e).dropMx e.id)

/-- MXZERO_SERVE (R260). -/
def execMxzeroServe (k : Nat) (s : State) : Host.Outcome State Fault Refusal :=
  s.serve k (fun x => match x with | .zero _ _ => true | _ => false) fun e =>
    match e.kind with
    | .zero t n => (List.range n).foldl (fun s i => s.updTile e.blk (t + i) Tile.cleared) s
    | _ => s

/-- The largest finite positive value of a format (R265). -/
def maxFinite (c : Nat) : Val :=
  match fmtOf c with
  | .float p => valueOf c (floatCode p false (maxCode p))
  | .int w sg => .dyadic (if sg then 2 ^ (w - 1) - 1 else 2 ^ w - 1) 0
  | .log _ xb _ => valueOf c (2 ^ (xb - 1) - 1)
  | .e8m0 => .nan
  | .none => .nan

/-- The largest magnitude of the finite values of a list. -/
def amaxOf (vs : List Val) : Val :=
  vs.foldl (fun m v => if v.isNan || v.isInf then m else if m.lt v.abs then v.abs else m) (.zero false)

/-- The scale of a line from its largest magnitude: its value, its code, and the events of its rounding (R181, R265). -/
def lineScale (df sf : Nat) (amax : Val) : Val × Nat × List (Nat × Events) :=
  let q := amax.div (maxFinite df)
  let c := if sf = 1 then 3 else 0
  if sf = 2 then
    let e : Int := match q with
      | .fin _ n d e => if n = 0 then 0 else if shl n (e - (flog2 n d + e)) = shl d (flog2 n d + e - e) then flog2 n d + e
                        else flog2 n d + e + 1
      | _ => 0
    let k := min 127 (max (-127) e)
    (.fin false 1 1 k, (k + 127).toNat, [])
  else
    let (code, ev) := roundTo (if amax.isZero then .one else q) c 4 true false false
    (valueOf c code, code, [(fmtGroup c, ev)])

/-- The bytes of packed codes of a width in bits (R160). -/
def packBytes (w : Nat) (cs : List Nat) : List Byte :=
  let bits := cs.foldr (fun c n => c % 2 ^ w + 2 ^ w * n) 0
  leBytes (cs.length * w / 8) bits

/-- A line drained: its bytes, its scale code, and the events of its scale and its elements (R265). -/
def drainLine (df sf : Nat) (sat : Bool) (line : List (BitVec 40)) : List Byte × Nat × List (Nat × Events) :=
  let vs := line.map fun x => valueOf 24 x.toNat
  if df = 24 then (packBytes 64 (line.map (·.toNat)), 0, [])
  else
    let (sc, code, ev) := if sf = 0 then (Val.one, 0, []) else lineScale df sf (amaxOf vs)
    let rs := vs.map fun v => roundTo (if sf = 0 then v else v.div sc) df 1 (sat || sf != 0) v.isNan v.isInf
    (packBytes (fmtWidth df) (rs.map (·.1)), code, ev ++ rs.map fun r => (fmtGroup df, r.2))

/-- The words of a range marked as poisoned. -/
def Block.poisonWords (b : Block) (off n : Nat) : Block :=
  (List.range ((off + n - 1) / 4 - off / 4 + 1)).foldl (fun b i => b.poisonWord (off / 4 * 4 + 4 * i)) b

/-- An engine writes scratchpad, after the block's earlier stores there have been performed. -/
def State.engineSp (s : State) (b off : Nat) (bs : List Byte) : State :=
  (s.settleSp b off bs.length).updBlk b fun B => B.writeSp off bs

/-- The row groups of a tile that a line's elements lie in and that are poisoned: for each group the place of its
first element and its elements. -/
def Tile.poisonedParts (t : Tile) (transpose : Bool) (n : Nat) : List (Nat × Nat) :=
  if transpose then (List.range 4).filterMap fun g => if t.poison.getLsbD g then some (8 * g, 8) else none
  else if t.poison.getLsbD (n / 8) then [(0, 32)] else []

/-- One line of MXDS written (R265, R269). -/
def State.drainStep (s : State) (b t : Nat) (d : List Byte) (n : Nat) : State :=
  let f (off len : Nat) : Nat := fieldAt d off len
  let B := s.blk b
  let T := B.tile t
  let df := f 16 1
  let sf := f 17 1
  let tr := (f 18 1).testBit 0
  let line := (List.range 32).map fun i => if tr then T.elem i n else T.elem n i
  let (bs, code, ev) := drainLine df sf ((f 18 1).testBit 1) line
  let at_ := f 0 4 + n * f 4 4
  let w := lineBits df
  let parts := T.poisonedParts tr n
  let s := s.engineSp b at_ bs
  let s := if sf = 0 then s else s.engineSp b (f 8 4 + n * scaleBytes sf) (leBytes (scaleBytes sf) code)
  let marks := if sf = 0 then parts.map fun (i, k) => (at_ + i * w / 8, k * w / 8)
    else if parts.isEmpty then [] else [(at_, bs.length), (f 8 4 + n * scaleBytes sf, scaleBytes sf)]
  let s := s.updBlk b fun B => marks.foldl (fun B (o, k) => B.poisonWords o k) B
  s.countAll B.launch ev

/-- An engine's last step: the arrival at its sync word, with ERR and a log entry where poison went through
(R265, R268, R269). -/
def State.mxArrive (s : State) (e : MxEntry) (sync bytes : Nat) (err : Bool) : State :=
  let s := if sync = 2 ^ 32 - 1 then s else s.arrival e.blk sync bytes err
  if err then s.logBlk e.blk (some e.warp) { kind := 9, code := Cause.code .poison } else s

/-- Whether a drain waits for a self-test of its tile (R270). -/
def State.drainWaits (s : State) (k : Nat) : Bool :=
  s.mrt.any fun e => e.id == k && (match e.kind with
    | .drain t _ => s.needsTest e.blk ((s.blk e.blk).tile t) e.tested != 0
    | .drainV t _ _ _ _ => s.needsTest e.blk ((s.blk e.blk).tile t) e.tested != 0
    | _ => false)

/-- MXDS_SERVE: after the self-tests that its rows require (R265, R269, R270). -/
def execMxdsServe (k : Nat) (s : State) : Host.Outcome State Fault Refusal :=
  if s.drainWaits k then .fault .notEnabled
  else s.serve k (fun x => match x with | .drain _ _ => true | _ => false) fun e =>
    match e.kind with
    | .drain t d =>
      let err := ((s.blk e.blk).tile t).poison != 0
      let s := (List.range 32).foldl (fun s n => s.drainStep e.blk t d n) s
      let s := if (fieldAt d 18 1).testBit 2 then s.updTile e.blk t Tile.cleared else s
      s.mxArrive e (fieldAt d 12 4) (32 * (lineBytes (fieldAt d 16 1) + scaleBytes (fieldAt d 17 1))) err
    | _ => s

/-- The quad that a lane of MXDV receives, as words, with its events (R266). -/
def drainQuad (fmt chunk : Nat) (row : List (BitVec 40)) : List Word × List (Nat × Events) :=
  let k := ((drainShape fmt).getD (0, 0)).1
  let es := (row.drop (k * chunk)).take k
  let rs := es.map fun x =>
    if fmt = 24 then (x.toNat, Events.none) else roundTo (valueOf 24 x.toNat) fmt 1 false (valueOf 24 x.toNat).isNan
      (valueOf 24 x.toNat).isInf
  let bits := packBytes (lineBits fmt) (rs.map (·.1))
  ((List.range 4).map fun i => BitVec.ofNat 32 (fieldAt bits (4 * i) 4),
    if fmt = 24 then [] else rs.map fun r => (fmtGroup fmt, r.2))

/-- MXDV_SERVE (R266, R269, R270). -/
def execMxdvServe (k : Nat) (s : State) : Host.Outcome State Fault Refusal :=
  if s.drainWaits k then .fault .notEnabled
  else s.serve k (fun x => match x with | .drainV _ _ _ _ _ => true | _ => false) fun e =>
    match e.kind with
    | .drainV t chunk fmt d lanes =>
      let T := (s.blk e.blk).tile t
      (lanesOf lanes).foldl (fun s l =>
        let (vals, ev) := drainQuad fmt chunk (T.row l)
        (s.fill e.blk e.warp e.id (.v l d) vals (T.poison.getLsbD (l / 8))).countAll (s.blk e.blk).launch ev) s
    | _ => s

/-- A tile that MXLD has overwritten: element (line, place) of each line, and the poisoned groups (R267). -/
def Tile.loaded (t : Tile) (transpose : Bool) (lines : List (List (BitVec 40))) (poison : BitVec 4) : Tile :=
  let at_ (r c : Nat) : BitVec 40 := if transpose then (lines.getD c []).getD r 0 else (lines.getD r []).getD c 0
  { t.cleared with rows := (List.range 32).map fun r => (List.range 32).map fun c => at_ r c, poison := poison }

/-- One line as MXLD reads it: its elements and their events (R267). -/
def loadLine (df sf : Nat) (bs scl : List Byte) : List (BitVec 40) × List (Nat × Events) :=
  let s := if sf = 0 then Val.one else scaleVal sf (leNat scl)
  let rs := (unpack (lineBits df) 32 bs).map fun c =>
    let v := valueOf df c
    roundTo (v.mul s) 24 1 false (v.isNan || s.isNan) (v.isInf || s.isInf)
  (rs.map fun r => BitVec.ofNat 40 r.1, rs.map fun r => (5, r.2))

/-- MXLD_SERVE (R267). -/
def execMxldServe (k : Nat) (s : State) : Host.Outcome State Fault Refusal :=
  s.serve k (fun x => match x with | .load _ _ => true | _ => false) fun e =>
    match e.kind with
    | .load t d =>
      let f (off len : Nat) : Nat := fieldAt d off len
      let B := s.blk e.blk
      let df := f 16 1
      let sf := f 17 1
      let tr := (f 18 1).testBit 0
      let at_ (n : Nat) : Nat := f 0 4 + n * f 4 4
      let scl (n : Nat) : Nat := f 8 4 + n * scaleBytes sf
      let lines := (List.range 32).map fun n =>
        loadLine df sf (B.mixed e.snap s.tick (at_ n) (lineBytes df)) (B.mixed e.snap s.tick (scl n) (scaleBytes sf))
      let sclBad (n : Nat) : Bool := sf != 0 && B.spPoisoned (scl n) (scaleBytes sf)
      let w := lineBits df
      let bad (g : Nat) : Bool :=
        if tr then (List.range 32).any fun n => B.spPoisoned (at_ n + w * g) w || sclBad n
        else (List.range 8).any fun i => B.spPoisoned (at_ (8 * g + i)) (lineBytes df) || sclBad (8 * g + i)
      let p := (List.range 4).foldl (fun (m : BitVec 4) g => if bad g then m ||| (1#4 <<< g) else m) 0
      let s := (s.mixUsed e.blk).updTile e.blk t fun T => T.loaded tr (lines.map (·.1)) p
      s.countAll B.launch (lines.flatMap (·.2))
    | _ => s

/-- One group of REQ: read wholly, then written (R179, R268, R269). The answers are the entry, for whose later groups
what this one has written is there, and whether poison went through. -/
def State.reqStep (s : State) (e : MxEntry) (d : List Byte) (g : Nat) : State × MxEntry × Bool :=
  let f (off len : Nat) : Nat := fieldAt d off len
  let B := s.blk e.blk
  let fmt := f 21 1
  let sf := f 22 1
  let n := groupSize (f 20 1) 0
  let gb := n * fmtWidth fmt / 8
  let sbs := scaleBytes sf
  let compute := (f 23 1).testBit 0
  let src := f 0 4 + g * gb
  let old := f 8 4 + g * sbs
  let new := f 12 4 + g * sbs
  let vs := (unpack (fmtWidth fmt) n (B.mixed e.snap s.tick src gb)).map (valueOf fmt)
  let so := scaleVal sf (leNat (B.mixed e.snap s.tick old sbs))
  let scaled := vs.map fun v => v.mul so
  let (sn, code, ev) :=
    if compute then lineScale fmt sf (amaxOf scaled)
    else (scaleVal sf (leNat (B.mixed e.snap s.tick new sbs)), leNat (B.mixed e.snap s.tick new sbs), [])
  let rs := vs.map fun v =>
    roundTo ((v.mul so).div sn) fmt 1 true (v.isNan || so.isNan || sn.isNan) (v.isInf || so.isInf || sn.isInf)
  let bad := B.spPoisoned src gb || B.spPoisoned old sbs || (!compute && B.spPoisoned new sbs)
  let out := packBytes (fmtWidth fmt) (rs.map (·.1))
  let snap := Memory.writeBytes e.snap (f 4 4 + g * gb) out
  let e := { e with snap := if compute then Memory.writeBytes snap new (leBytes sbs code) else snap }
  let s := s.engineSp e.blk (f 4 4 + g * gb) out
  let s := if compute then s.engineSp e.blk new (leBytes sbs code) else s
  let s := if bad then s.updBlk e.blk fun B =>
      let B := B.poisonWords (f 4 4 + g * gb) gb
      if compute then B.poisonWords new sbs else B
    else s
  (s.countAll B.launch (ev ++ rs.map fun r => (fmtGroup fmt, r.2)), e, bad)

/-- REQ_SERVE (R268, R269). -/
def execReqServe (k : Nat) (s : State) : Host.Outcome State Fault Refusal :=
  s.serve k (fun x => match x with | .req _ => true | _ => false) fun e =>
    match e.kind with
    | .req d =>
      let f (off len : Nat) : Nat := fieldAt d off len
      let (s, _, err) := (List.range (f 16 4)).foldl (fun (s, e, bad) g =>
        match s.reqStep e d g with
        | (s, e, b) => (s, e, bad || b)) (s, e, false)
      let per := groupSize (f 20 1) 0 * fmtWidth (f 21 1) / 8 + (if (f 23 1).testBit 0 then scaleBytes (f 22 1) else 0)
      (s.mixUsed e.blk).mxArrive e (f 24 4) (f 16 4 * per) err
    | _ => s

/-! ### Self-tests (R270, R271) -/

/-- The bits of a sub-array, and the row groups whose bit of it is set. -/
def subBits (sub : Nat) : BitVec 16 := (List.range 4).foldl (fun m g => m ||| (1#16 <<< (4 * g + sub))) 0

def dependents (dep : BitVec 16) (sub : Nat) : BitVec 4 :=
  (List.range 4).foldl (fun (p : BitVec 4) g => if dep.getLsbD (4 * g + sub) then p ||| (1#4 <<< g) else p) 0

/-- A tile after a test of a sub-array of its cluster (R270, R271). -/
def Tile.tested (t : Tile) (sub : Nat) (good : Bool) : Tile :=
  if good then { t with untested := t.untested &&& ~~~subBits sub, dep := t.dep &&& ~~~subBits sub }
  else { t with poison := t.poison ||| dependents t.dep sub }

/-- A tile after a test of a sub-array of a cluster that its block has left (R271). -/
def Tile.testedAway (t : Tile) (cl sub : Nat) (good : Bool) : Tile :=
  let clean (x : Nat × BitVec 16 × BitVec 16) : Nat × BitVec 16 × BitVec 16 :=
    if x.1 = cl then (cl, x.2.1 &&& ~~~subBits sub, x.2.2 &&& ~~~subBits sub) else x
  if good then { t with away := t.away.map clean }
  else { t with poison := (t.away.filter fun x => x.1 == cl).foldl (fun p x => p ||| dependents x.2.1 sub) t.poison }

/-- A warp that waits in MXTEST has no more to wait for of some sub-arrays, of which others have failed (R262). -/
def Warp.mxtestGot (w : Warp) (done failed : BitVec 4) : Warp :=
  match w.wait with
  | some (.mxtest p f d) =>
    let p' := p &&& ~~~done
    let f' := f ||| (p &&& failed)
    if p' = 0 then { w.setReg d (f'.setWidth 32) with wait := none } else { w with wait := some (.mxtest p' f' d) }
  | _ => w

/-- A warp that waits in MXSTAT whose posts have completed counts the test of a sub-array (R261, R270). -/
def Warp.mxstatGot (w : Warp) (sub : Nat) (open_ : List Nat) : Warp :=
  match w.wait with
  | some (.mxstat m t d c k z) =>
    if c.any open_.contains then w else { w with wait := some (.mxstat m t d c (k ||| (1#4 <<< sub)) z) }
  | _ => w

/-- The entries of a cluster that are ready when a sub-array is tested: what they serve needs no other test of it
(R270). -/
def State.testedEntries (s : State) (cl sub : Nat) : State :=
  { s with mrt := s.mrt.map fun e =>
      if e.cl == cl && s.mxReady e then { e with tested := e.tested ||| (1#4 <<< sub) } else e }

/-- SELF_TEST: a sub-array that is not fenced is tested; the environment says with what outcome (R270, R271). -/
def execSelfTest (cl sub : Nat) (good : Bool) (s : State) : Host.Outcome State Fault Refusal :=
  if s.clusters.length ≤ cl || 4 ≤ sub || (s.cluster cl).fenced.getLsbD sub then .fault .notEnabled
  else
    let open_ := s.mrt.map (·.id)
    let one (B : Block) : Block :=
      let B := { B with tiles := B.tiles.map fun t => t.testedAway cl sub good }
      if B.clusterNo == cl && B.resident then
        { B with tiles := B.tiles.map fun t => t.tested sub good, warps := B.warps.map fun W =>
            (W.mxtestGot (1#4 <<< sub) (if good then 0 else 1#4 <<< sub)).mxstatGot sub open_ }
      else B
    let s := (s.testedEntries cl sub).updCluster cl fun c => { c with
      tests := c.tests + 1, passes := c.passes.set sub 0, fails := if good then c.fails else c.fails + 1,
      suspect := if good then c.suspect else c.suspect ||| (1#4 <<< sub) }
    let s := { s with blocks := s.blocks.map one }
    if good then .next s
    else
      let die := cl / Config.clusters
      .next (s.log die { kind := 10, die := some die, cluster := some (cl % Config.clusters), aux := sub })

end Sys2Proof.Machine
end

