-- ==== Sys2Proof/Machine/Walker.lean ====
section
/-! DEFINITION. The prefix-tree walker (R280 to R305): descriptors, validation, visits, joining and leaving,
appends, and the WALK instructions. -/

namespace Sys2Proof.Machine

/-! ### The descriptor (R280) -/

def Walk.f (w : Walk) (off n : Nat) : Nat := fieldAt w.desc off n

def Walk.nnodes (w : Walk) : Nat := w.f 8 4

def Walk.nsubs (w : Walk) : Nat := w.f 32 2

def Walk.heads (w : Walk) : Nat := w.f 34 1

/-- Query heads of a KV head. -/
def Walk.perKv (w : Walk) : Nat := w.heads / w.f 35 1

/-- The head dimension of a code HDC. -/
def headDim (hdc : Nat) : Nat := 64 * 2 ^ hdc

def Walk.hd (w : Walk) : Nat := headDim (w.f 36 1)

def Walk.deterministic (w : Walk) : Bool := (w.f 44 2).testBit 0

def Walk.rotary (w : Walk) : Bool := (w.f 44 2).testBit 4

/-- The address of byte `off` of subscriber entry i (R283). -/
def Walk.entryVa (w : Walk) (i off : Nat) : DWord := BitVec.ofNat 64 (w.f 24 8 + 64 * i + off)

def Walk.die (w : Walk) : Nat := w.cl / Config.clusters

/-- ACQ: the scope of the walk's acquires (R280). -/
def Walk.acq (w : Walk) : Nat := w.f 44 2 / 2 % 8

/-- PRI (R280, R289). -/
def Walk.pri (w : Walk) : Nat := w.f 44 2 / 32 % 4

/-- Whether a descriptor breaks its table. -/
def badWalkDesc (d : List Byte) : Bool :=
  let n (off len : Nat) : Nat := fieldAt d off len
  let fl := n 44 2
  n 0 8 % 16 != 0 || n 8 4 < 1 || 4096 < n 8 4 || n 12 4 < 1 || n 16 8 % 16 != 0 || n 24 8 % 64 != 0
    || n 32 2 < 1 || 256 < n 32 2 || n 34 1 < 1 || 64 < n 34 1 || n 35 1 < 1 || 16 < n 35 1 || n 34 1 % n 35 1 != 0
    || 2 < n 36 1 || !([3, 5, 6].contains (n 37 1)) || !([2, 3, 5, 6].contains (n 38 1))
    || !([0, 3].contains (n 39 1)) || 4 < fl / 2 % 8 || fl / 128 != 0 || n 46 2 != 0 || n 48 8 % 8 != 0
    || (!fl.testBit 4 && n 48 8 != 0) || n 56 8 % 64 != 0 || n 64 8 % 64 != 0 || !zeroBytes d 72 56

/-! ### Walks by position and by name -/

def State.walkAt (s : State) (k : Nat) : Walk := s.walks.getD k default

/-- Whether the walker of its cluster runs a walk: those posted before it are done (R285). -/
def State.walkTurn (s : State) (k : Nat) : Bool :=
  decide (k < s.walks.length) && !(s.walkAt k).written
    && (s.walks.take k).all fun w => w.cl != (s.walkAt k).cl || w.written

/-- The walk that an id names to a block: of its context and cluster, its poster not gone, fewer than 16 later walks
there (R301). -/
def State.walkOf (s : State) (b : Nat) (id : Word) : Option Nat :=
  let B := s.blk b
  let mine (w : Walk) : Bool :=
    w.cl == B.clusterNo && w.ctx == B.ctx && w.id == id
      && (match (s.blk w.blk).phase with | .gone => false | .running => true | .saved => true | .prologue _ => true)
  let late (k : Nat) : Nat := ((s.walks.drop (k + 1)).filter fun w => w.cl == B.clusterNo).length
  ((s.walks.zipIdx.filter fun (w, k) => mine w && late k < 16).getLast?).map fun (_, k) => k

def Walk.sub? (w : Walk) (i : Nat) : Option Sub := w.subs.find? fun x => x.idx == i

def Walk.updSub (w : Walk) (i : Nat) (f : Sub → Sub) : Walk :=
  { w with subs := w.subs.map fun x => if x.idx == i then f x else x }

def Walk.node (w : Walk) (n : Nat) : Node := w.nodes.getD n default

def Walk.updNode (w : Walk) (n : Nat) (f : Node → Node) : Walk := { w with nodes := w.nodes.modify n f }

/-- The path from node 0 to a node; none for one that is not reachable (R285, R286). -/
def Walk.pathTo (w : Walk) : Nat → Nat → List Nat → Option (List Nat)
  | 0, _, _ => none
  | fuel + 1, n, below =>
    if !(w.node n).reached then none
    else if n = 0 then some (0 :: below)
    else Walk.pathTo w fuel (w.node n).parent (n :: below)

def Walk.path (w : Walk) (leaf : Nat) : Option (List Nat) := w.pathTo (w.nodes.length + 1) leaf []

/-- Whether a path contains a node. -/
def Walk.passes (w : Walk) (x : Sub) (n : Nat) : Bool := ((w.path x.leaf).getD []).contains n

/-! ### Reading and writing memory -/

/-- The outcome of a read by a walker: its ranges, a missing translation that may still come, or a failure (R285,
R294, R296). -/
inductive WRead where
  | ok (bs : List (List Byte))
  | absent (va : DWord)
  | bad (va : DWord)
  deriving DecidableEq, Repr, Inhabited

/-- Whether two addresses lie on one page of 64 KiB. -/
def samePage (a b : DWord) : Bool := a.toNat / 65536 == b.toNat / 65536

/-- Whether the host has said that a page is permanently absent (R294). -/
def Walk.gone (w : Walk) (va : DWord) : Bool :=
  w.pages.any fun p => samePage p.va va && (match p.reply with | some r => r != 0#32 | none => false)

/-- Reads ranges in turn, up to the first that cannot be read. -/
def State.walkReads (s : State) (w : Walk) : List (DWord × Nat) → List (List Byte) → State × WRead
  | [], done => (s, .ok done)
  | (va, n) :: rs, done =>
    match s.readVa (clusterPlace w.cl) w.ctx va n with
    | (s, .inr bs) => State.walkReads s w rs (done ++ [bs])
    | (s, .inl (c, a)) => (s, if c == .xlate && !w.gone a then .absent a else .bad a)

def State.walkRead (s : State) (w : Walk) (va : DWord) (n : Nat) : State × WRead := s.walkReads w [(va, n)] []

/-- The bytes of a single range read. -/
def WRead.bytes : WRead → List Byte
  | .ok bs => bs.headD []
  | .absent _ => []
  | .bad _ => []

/-- A page that no node's request names (assumption 40). -/
def noNode : Nat := 2 ^ 32 - 1

/-- Whether a request of a walk for a node's page has not been answered. -/
def Walk.asked (w : Walk) (node : Nat) (va : DWord) : Bool :=
  w.pages.any fun p => p.node == node && samePage p.va va && p.reply.isNone

/-- A page request is written, or kept back where the ring is full or others wait for it (R156, R294). -/
def State.pageAsk (s : State) (k node : Nat) (va : DWord) : State :=
  let ctx := (s.walkAt k).ctx
  if s.ringFree (s.ctx ctx) && !(s.stalls.any fun r => r.ctx == ctx && r.on == .ring) && (s.wantingWalk ctx).isNone then
    s.pageWrite k node va
  else s.updWalk k fun w => { w with want := some (node, va) }

/-- What a walk does at a missing page that it waits for: it asks once, and is then not enabled (R294). -/
def State.pageWait (s : State) (k node : Nat) (va : DWord) : Option State :=
  let w := s.walkAt k
  if w.want.isSome || w.asked node va then none else some (s.pageAsk k node va)

/-- A node of a walk on a missing page: the page is asked for, and where the walk may pass the node it does so while the
request is outstanding; else it waits (R294). -/
def State.pagePass (s : State) (k node : Nat) (va : DWord) (mayPass : Bool) (pass : State → State) :
    Host.Outcome State Fault Refusal :=
  let t := s.pageWait k node va
  let asked := t.getD s
  if mayPass && (asked.walkAt k).asked node va then .next (pass asked)
  else match t with
    | none => .fault .notEnabled
    | some s => .next s

/-- An error-log entry of a walk (R285, R290, R296). -/
def State.walkLog (s : State) (w : Walk) (va : DWord) (node : Nat) : State :=
  s.log w.die { kind := 9, ctx := some w.ctx, die := some w.die, cluster := some (w.cl % Config.clusters),
                addr := va.toNat, tag := (s.launch (s.blk w.blk).launch).rcd.tag.toNat, aux := node }

/-- A write of a walk within one sector: discarded for a retired slot, or dropped and logged where it cannot be
performed. The answer says whether it was not dropped (R290, R297). -/
def State.walkWrite (s : State) (k : Nat) (retired : Bool) (va : DWord) (bs : List Byte) : State × Bool :=
  let w := s.walkAt k
  if retired then (s.updWalk k fun w => { w with late := w.late + 1 }, true)
  else match s.xlate (clusterPlace w.cl) w.ctx va 1 .store with
    | (s, .fault _) => (s.walkLog w va 0, false)
    | (s, .ok _ pa) =>
      ((s.engineWrite w.blk pa bs).updWalk k fun w => { w with sectors := addSector w.sectors (pa / 64) }, true)

def SubState.code : SubState → Nat
  | .idle => 0
  | .active => 1
  | .joining => 2
  | .deferred => 3
  | .left => 4
  | .faulted => 5
  | .done => 6

/-- A subscriber takes a state, in the walk and in its entry (R283). -/
def State.setSub (s : State) (k i : Nat) (st : SubState) : State :=
  let w := s.walkAt k
  let retired := ((w.sub? i).map (·.retired)).getD false
  let s := s.updWalk k fun w => w.updSub i fun x => { x with st := st }
  (s.walkWrite k retired (w.entryVa i 4) (leBytes 1 st.code)).1

/-- A subscriber becomes FAULTED with a node (R285, R290, R296). -/
def State.faultSub (s : State) (k i : Nat) (node : Nat) : State :=
  let w := s.walkAt k
  let retired := ((w.sub? i).map (·.retired)).getD false
  let s := s.updWalk k fun w => w.updSub i fun x => { x with fnode := BitVec.ofNat 32 node }
  let s := (s.walkWrite k retired (w.entryVa i 16) (leBytes 4 node)).1
  s.setSub k i .faulted

/-! ### Validation (R285) -/

/-- A node read: it with its first child and its next sibling, or bad, or on a page that is missing. -/
inductive NodeRead where
  | node (x : Node) (child sib : Nat)
  | bad
  | absent (va : DWord)
  deriving DecidableEq, Repr, Inhabited

/-- Whether an address of a block-table entry is bad (R285). -/
def badBlockVa (va : Nat) : Bool := va % 256 != 0 || !canonical (BitVec.ofNat 64 va)

/-- Reads a node and its block-table entry, given the node whose list holds it and its previous sibling. -/
def State.readNode (s : State) (w : Walk) (n : Nat) (par prev : Option Nat) : State × NodeRead :=
  if w.nnodes ≤ n || (w.node n).reached then (s, .bad)
  else match s.walkRead w (BitVec.ofNat 64 (w.f 0 8 + 16 * n)) 16 with
    | (s, .absent va) => (s, .absent va)
    | (s, .bad _) => (s, .bad)
    | (s, .ok bss) =>
      let bs := bss.headD []
      let block := fieldAt bs 8 4
      let stray := match par with | some p => fieldAt bs 0 2 != p | none => false
      let unordered := match prev with | some p => decide (n ≤ p) | none => false
      if stray || unordered || 64 < fieldAt bs 6 2 || w.f 12 4 ≤ block then (s, .bad)
      else match s.walkRead w (BitVec.ofNat 64 (w.f 16 8 + 16 * block)) 16 with
        | (s, .absent va) => (s, .absent va)
        | (s, .bad _) => (s, .bad)
        | (s, .ok ess) =>
          let ka := fieldAt (ess.headD []) 0 8
          let va := fieldAt (ess.headD []) 8 8
          if badBlockVa ka || badBlockVa va then (s, .bad)
          else
            let x : Node :=
              { parent := par.getD 65535, pos := fieldAt bs 12 4, kaddr := BitVec.ofNat 64 ka,
                vaddr := BitVec.ofNat 64 va, reached := true, visited := false, passed := false, faulted := false,
                t := 0, set := [] }
            (s, .node x (fieldAt bs 2 2) (fieldAt bs 4 2))

/-- A walk after a node at the head of its stack has been read. -/
def Walk.reach (w : Walk) (n : Nat) (par : Option Nat) (x : Node) (child sib : Nat) : Walk :=
  let rest := if sib = 65535 then w.stack.tail else (sib, par, some n) :: w.stack.tail
  { w with nodes := w.nodes.set n x, todo := w.todo ++ [n],
           stack := if child = 65535 then rest else (child, some n, none) :: rest }

/-- Reads the tree depth-first from where the stack stands: all of it, up to the first node found bad, or up to a page
that is missing. Each step reaches a new node or ends, so that NNODES + 1 steps are enough. -/
def State.readTree (s : State) (k : Nat) : Nat → State × Option (Sum Nat (Nat × DWord))
  | 0 => (s, none)
  | fuel + 1 =>
    match (s.walkAt k).stack with
    | [] => (s, none)
    | (n, par, prev) :: _ =>
      match s.readNode (s.walkAt k) n par prev with
      | (s, .bad) => (s, some (.inl n))
      | (s, .absent va) => (s, some (.inr (n, va)))
      | (s, .node x child sib) => State.readTree (s.updWalk k fun w => w.reach n par x child sib) k fuel

/-- A subscriber that enters a walk with what its entry says. -/
def newSub (i leaf gen : Nat) (qaddr : Nat) (st : SubState) : Sub :=
  { idx := i, leaf := leaf, gen := BitVec.ofNat 16 gen, st := st, qaddr := BitVec.ofNat 64 qaddr, query := none,
    heads := [], todo := [], passed := [], fnode := BitVec.allOnes 32, leafBegun := false, retired := false }

/-- The subscriber that an entry gives (R283). -/
def subOf (i : Nat) (bs : List Byte) (st : SubState) : Sub :=
  newSub i (fieldAt bs 0 2) (fieldAt bs 2 2) (fieldAt bs 8 8) st

/-- Takes the ACTIVE entries from the next one on into a walk, but those that have joined it already; the first missing
page ends it, and what has been taken stays taken. -/
def State.takeSubs (s : State) (k : Nat) : Nat → State × Option DWord
  | 0 => (s, none)
  | n + 1 =>
    let w := s.walkAt k
    let i := w.entry
    let past (s : State) : State := s.updWalk k fun w => { w with entry := i + 1 }
    if (w.sub? i).isSome then State.takeSubs (past s) k n
    else match s.walkRead w (w.entryVa i 0) 64 with
      | (s, .absent va) => (s, some va)
      | (s, .bad _) => State.takeSubs (past (s.walkLog w (w.entryVa i 0) 0)) k n
      | (s, .ok bss) =>
        let bs := bss.headD []
        let s := if fieldAt bs 4 1 = 1 then s.updWalk k fun w => { w with subs := w.subs ++ [subOf i bs .active] } else s
        State.takeSubs (past s) k n

/-- The state of a head before the first node (R289): m is −INF. -/
def HeadSt.start (hd : Nat) : HeadSt := ⟨BitVec.ofNat 40 (infCode acc40 true), 0, 0, List.replicate hd 0⟩

/-- A subscriber's query is read: taken, FAULTED, or on a missing page (R285). -/
def State.takeQuery (s : State) (k i : Nat) : State × Option DWord :=
  let w := s.walkAt k
  match w.sub? i with
  | none => (s, none)
  | some x =>
    match w.path x.leaf with
    | none => (s.faultSub k i 0xFFFFFFFF, none)
    | some path =>
      if x.qaddr.toNat % 16 != 0 then (s.faultSub k i 0xFFFFFFFE, none)
      else match s.walkRead w x.qaddr (2 * w.hd * w.heads) with
        | (s, .absent va) => (s, some va)
        | (s, .bad _) => (s.faultSub k i 0xFFFFFFFE, none)
        | (s, .ok bss) =>
          (s.updWalk k fun w => w.updSub i fun x => { x with
            query := some (unpack 16 (w.hd * w.heads) (bss.headD [])), todo := path,
            heads := List.replicate w.heads (HeadSt.start w.hd) }, none)

/-- The queries of the ACTIVE subscribers of a list. -/
def State.takeQueries (s : State) (k : Nat) : List Nat → State × Option DWord
  | [] => (s, none)
  | i :: is =>
    match s.takeQuery k i with
    | (s, some va) => (s, some va)
    | (s, none) => State.takeQueries s k is

/-- Whether a request to join a walk has not been performed (R291, R292). -/
def State.joining (s : State) (k i : Nat) : Bool :=
  s.walkReqs.any fun r => match r.kind with
    | .join id j => s.walkOf r.blk id == some k && (j == i)
    | _ => false

def State.anyJoining (s : State) (k : Nat) : Bool :=
  s.walkReqs.any fun r => match r.kind with
    | .join id _ => s.walkOf r.blk id == some k
    | _ => false

/-- The phase that a walk is in, given what is left of it (R285, R292). Deferred subscribers that have left or faulted
are no longer waited for. -/
def Walk.advance (w : Walk) (joins : Bool) : Walk :=
  let live (i : Nat) : Bool := (w.sub? i).any fun x => x.st == .deferred
  let rest := w.deferred.filter live
  let same := rest.head? == w.deferred.head?
  let w := if same then { w with deferred := rest } else { w with deferred := rest, cur := none, curT := none, rows := none, group := 0 }
  let w := if w.phase == .main && w.todo.isEmpty then { w with phase := .revisit } else w
  let w := if w.phase == .revisit && w.passed.isEmpty then { w with phase := .catchup } else w
  let open_ := joins || !w.deferred.isEmpty || w.subs.any fun x => x.st == .active
  if w.phase == .catchup && !open_ then { w with phase := .complete } else w

/-- At a node boundary the subscribers that were to leave are LEFT (R291). -/
def State.leaveDue (s : State) (k : Nat) : State :=
  let w := s.walkAt k
  if w.cur.isSome then s
  else (w.subs.filter (·.leaving)).foldl (fun s x =>
    (s.setSub k x.idx .left).updWalk k fun w => w.updSub x.idx fun x => { x with leaving := false }) s

/-- What follows every step of a walk. -/
def State.walkNext (s : State) (k : Nat) : State :=
  let s := s.leaveDue k
  let joins := s.anyJoining k
  s.updWalk k fun w => w.advance joins

/-- Validation goes on from where it stands: the state after it, and the page that it misses. -/
def State.validate (s : State) (k : Nat) : State × Option (Nat × DWord) :=
  match s.readTree k ((s.walkAt k).nnodes + 1) with
  | (s, some (.inr p)) => (s, some p)
  | (s, some (.inl n)) =>
    (s.updWalk k fun w => { w with code := 1, firstF := BitVec.ofNat 32 n, phase := .complete }, none)
  | (s, none) =>
    match s.takeSubs k ((s.walkAt k).nsubs - (s.walkAt k).entry) with
    | (s, some va) => (s, some (noNode, va))
    | (s, none) =>
      let active := ((s.walkAt k).subs.filter fun x => x.st == .active && x.query.isNone).map (·.idx)
      match s.takeQueries k active with
      | (s, some va) => (s, some (noNode, va))
      | (s, none) => (s.updWalk k fun w => { w with phase := .main }, none)

/-- WALK_VALIDATE: the tree, the entries and the queries are read; a missing page is asked for, and the reading goes on
there after the reply (R285, R294). -/
def execWalkValidate (k : Nat) (s : State) : Host.Outcome State Fault Refusal :=
  let w := s.walkAt k
  if !s.walkTurn k || !(w.phase == .queued || w.phase == .validating) then .fault .notEnabled
  else match (s.updWalk k fun w => { w with phase := .validating }).validate k with
    | (s, none) => .next (s.walkNext k)
    | (s, some (n, va)) =>
      match s.pageWait k n va with
      | none => .fault .notEnabled
      | some s => .next s

/-! ### The update at a node (R288, R289) -/

/-- A list cut into pieces. -/
def pieces {α : Type} (l : List α) (size n : Nat) : List (List α) :=
  (List.range n).map fun i => (l.drop (size * i)).take size

/-- An element of a rotated key: the sum of two products rounded to FP32, with its events. -/
def turned (a b c d : Val) : Val × List (Nat × Events) :=
  let (r, ev) := rounded32 (Val.add false (a.mul b) (c.mul d)) 1 [a, b, c, d]
  (f32 r, ev)

/-- A key rotated to its position, with the events of its elements (R181, R288). -/
def rotateKey (rot : List Nat) (p : Nat) (k : List Val) : List (Val × List (Nat × Events)) :=
  (List.range (k.length / 2)).flatMap fun i =>
    let a : DWord := BitVec.ofNat 64 (p * rot.getD i 0)
    let c := f32 (cos2pi a)
    let sn := f32 (sin2pi a)
    let x := k.getD (2 * i) .nan
    let y := k.getD (2 * i + 1) .nan
    [turned x c y.flip sn, turned x sn y c]

/-- The largest of some values; a NaN makes it NaN (R289). -/
def maxVal (vs : List Val) : Val :=
  if vs.any Val.isNan then .nan
  else (vs.tail).foldl (fun m x => if m.lt x then x else m) (vs.headD .nan)

/-- A value as an ACC40 code. -/
def code40 (x : Val) : BitVec 40 := BitVec.ofNat 40 (roundTo x 24 1 false false false).1

def val40 (c : BitVec 40) : Val := valueOf 24 c.toNat

/-- A value rounded to ACC40 with its events, given the values that went into it (R171, R181). -/
def round40 (x : Val) (ins : List Val) : BitVec 40 × Events :=
  let (c, e) := roundTo x 24 1 false (ins.any Val.isNan) (ins.any Val.isInf)
  (BitVec.ofNat 40 c, e)

/-- REDUCE of a term list with the events of its result, given the values that went into the terms. -/
def reduce40 (ts ins : List Val) : BitVec 40 × Events :=
  let (c, e) := reduceTerms ts (ins.any Val.isNan) (ins.any Val.isInf)
  (BitVec.ofNat 40 c, e)

def isNegInf (x : Val) : Bool := x.isInf && x.neg

/-- E40 of a rounded difference, with the events of the rounding; +0 where the condition says that there is nothing to
scale (R181, R289). -/
def weight (zero : Bool) (a b : Val) : Val × Events :=
  if zero then (.zero false, Events.none)
  else
    let (y, ev) := round40 (Val.add false a b.flip) [a, b]
    (val40 (e40 y), ev)

/-- One head updated from a block: its query row, and the keys and values of the tokens (R289). -/
def HeadSt.update (h : HeadSt) (pfmt : Nat) (scale : Val) (q : List Val) (ks vs : List (List Val)) :
    HeadSt × List (Nat × Events) :=
  let dots := ks.map fun k => reduce40 (.zero false :: List.zipWith Val.mul q k) (q ++ k)
  let scaled := dots.map fun r => round40 ((val40 r.1).mul scale) [val40 r.1, scale]
  let xs := scaled.map fun r => val40 r.1
  let m := val40 h.m
  let M := maxVal (m :: xs)
  let (f, fev) := weight (isNegInf m) m M
  let weights := xs.map fun x => weight (isNegInf M) x M
  let es := weights.map (·.1)
  let ps := es.map fun e => roundTo e pfmt 1 true e.isNan e.isInf
  let pv := ps.map fun p => valueOf pfmt p.1
  let sum := reduce40 ((val40 h.s).mul f :: es) (val40 h.s :: f :: es)
  let lost := (es.zip pv).filterMap fun (e, p) => if p.isZero then some e else none
  let drop := reduce40 ((val40 h.drop).mul f :: lost) (val40 h.drop :: f :: lost)
  let out := h.o.mapIdx fun d o =>
    let col := vs.map fun v => v.getD d .nan
    reduce40 ((val40 o).mul f :: List.zipWith Val.mul pv col) (val40 o :: f :: (pv ++ col))
  (⟨code40 M, sum.1, drop.1, out.map (·.1)⟩,
    (5, fev) :: dots.map (fun r => (5, r.2)) ++ scaled.map (fun r => (5, r.2)) ++ weights.map (fun r => (5, r.2))
      ++ ps.map (fun p => (fmtGroup pfmt, p.2)) ++ [(5, sum.2), (5, drop.2)]
      ++ out.map fun r => (5, r.2))

/-- What a visit reads of a block besides TOKENS: the rows of its KV heads, and the rotary table (R282, R288). -/
def Walk.blockRanges (w : Walk) (n t : Nat) : List (DWord × Nat) :=
  let ew := fmtWidth (w.f 38 1) / 8
  let row (base : DWord) (g : Nat) : DWord × Nat := (base + BitVec.ofNat 64 (g * 64 * w.hd * ew), t * w.hd * ew)
  let heads := List.range (w.f 35 1)
  heads.map (row (w.node n).kaddr) ++ heads.map (row (w.node n).vaddr)
    ++ if w.rotary then [(BitVec.ofNat 64 (w.f 48 8), w.hd / 2 * 8)] else []

/-- The keys and values of a KV head for each token, from the bytes of a visit, and the events of the rotation. -/
def Walk.groupVals (w : Walk) (n t g : Nat) (bss : List (List Byte)) :
    (List (List Val) × List (List Val)) × List (Nat × Events) :=
  let c := w.f 38 1
  let h := w.f 35 1
  let rot := unpack 64 (w.hd / 2) (bss.getD (2 * h) [])
  let vals (bs : List Byte) : List (List Val) := pieces ((unpack (fmtWidth c) (t * w.hd) bs).map (valueOf c)) w.hd t
  let keys := (vals (bss.getD g [])).mapIdx fun i k =>
    if w.rotary then rotateKey rot ((w.node n).pos + i) k else k.map fun x => (x, [])
  ((keys.map fun k => k.map (·.1), vals (bss.getD (h + g) [])), keys.flatMap fun k => k.flatMap (·.2))

/-- The heads of a subscriber that a KV head serves, updated from its keys and values. -/
def Walk.updateSub (w : Walk) (x : Sub) (g : Nat) (kv : List (List Val) × List (List Val)) : Sub × List (Nat × Events) :=
  let q := pieces ((x.query.getD []).map (valueOf 3)) w.hd w.heads
  let rs := x.heads.mapIdx fun h st =>
    if h / w.perKv = g then st.update (w.f 37 1) (valueOf 0 (w.f 40 4)) (q.getD h []) kv.1 kv.2 else (st, [])
  ({ x with heads := rs.map (·.1) }, rs.flatMap (·.2))

/-! ### The output step (R290) -/

/-- An output element of a head. -/
def outElem (ofmt : Nat) (st : HeadSt) (o : BitVec 40) : Nat × Events :=
  let d := val40 st.s
  if d.isZero then roundTo .nan ofmt 1 false (val40 o).isNan false
  else roundTo ((val40 o).div d) ofmt 1 false (d.isNan || (val40 o).isNan) (d.isInf || (val40 o).isInf)

/-- The outputs of a subscriber, with their events. -/
def Walk.outputs (w : Walk) (x : Sub) : List Byte × List (Nat × Events) :=
  let rs := x.heads.flatMap fun st => st.o.map fun o => outElem (w.f 39 1) st o
  (rs.flatMap fun r => leBytes (fmtWidth (w.f 39 1) / 8) r.1, rs.map fun r => (fmtGroup (w.f 39 1), r.2))

/-- The dropped mass so far, as an FP32 code with its events. -/
def Sub.dropCode (x : Sub) : Nat × Events :=
  let one (st : HeadSt) : Val := if (val40 st.s).isZero then .zero false else (val40 st.drop).div (val40 st.s)
  let any (p : Val → Bool) : Bool := x.heads.any fun st => p (val40 st.drop) || p (val40 st.s)
  if x.heads.isEmpty then (0, Events.none) else roundTo (maxVal (x.heads.map one)) 0 1 false (any Val.isNan) (any Val.isInf)

/-- The results of a subscriber whose last node has been applied are to be written (R290). -/
def State.output (s : State) (k i : Nat) : State :=
  let w := s.walkAt k
  match w.sub? i with
  | none => s
  | some x =>
    let (bs, ev) := w.outputs x
    let s := s.countAll (s.blk w.blk).launch ev
    s.updWalk k fun w => { w with outs := w.outs ++ [⟨i, bs, 0, true⟩] }

/-- A write of a subscriber's entry, and the next write of its results. -/
def State.outEntry (s : State) (k : Nat) (x : Sub) (off : Nat) (bs : List Byte) (go : Walk → Walk) : State :=
  ((s.walkWrite k x.retired ((s.walkAt k).entryVa x.idx off) bs).1).updWalk k go

/-- The next write of a subscriber's results: a sector of its output, then DROP, FNODE and STATE, so that a WRETIRE may
come between two of them; where a sector has been dropped, FNODE and STATE say FAULTED (R290, R297). -/
def State.outWrite (s : State) (k : Nat) (x : Sub) (y : OutJob) : State :=
  let w := s.walkAt k
  let n := y.bytes.length / 64
  let put (z : OutJob) (w : Walk) : Walk := { w with outs := z :: w.outs.tail }
  let next := put { y with next := y.next + 1 }
  if y.next < n then
    let va : DWord := BitVec.ofNat 64 (w.f 56 8 + y.idx * y.bytes.length + 64 * y.next)
    match s.walkWrite k x.retired va ((y.bytes.drop (64 * y.next)).take 64) with
    | (s, ok) => s.updWalk k (put { y with next := y.next + 1, clean := y.clean && ok })
  else if y.next = n && y.clean then
    let (drop, e) := x.dropCode
    (s.countAll (s.blk w.blk).launch [(0, e)]).outEntry k x 20 (leBytes 4 drop) next
  else if y.next ≤ n + 1 then
    let node : Word := if y.clean then BitVec.allOnes 32 else 0xFFFFFFFD#32
    let s := s.updWalk k fun w => w.updSub y.idx fun z => { z with fnode := node }
    s.outEntry k x 16 (leBytes 4 node.toNat) (put { y with next := n + 2 })
  else (s.setSub k y.idx (if y.clean then .done else .faulted)).updWalk k fun w => { w with outs := w.outs.tail }

/-- The next write of the first subscriber whose results are being written. -/
def State.outStep (s : State) (k : Nat) (y : OutJob) : State :=
  match (s.walkAt k).sub? y.idx with
  | none => s.updWalk k fun w => { w with outs := w.outs.tail }
  | some x => s.outWrite k x y

/-! ### Visits (R286, R294, R296) -/

/-- The block of a node is faulted: it is recorded and logged, and the subscribers given become FAULTED but those that
are leaving (R291, R296). -/
def State.faultNode (s : State) (k n : Nat) (va : DWord) (group : List Nat) : State :=
  let w := s.walkAt k
  let s := s.updWalk k fun w =>
    { w.updNode n (fun x => { x with faulted := true }) with
      firstF := if w.firstF = BitVec.allOnes 32 then BitVec.ofNat 32 n else w.firstF, cur := none, curT := none, rows := none, group := 0 }
  let stays (i : Nat) : Bool := !((w.sub? i).any (·.leaving))
  (group.filter stays).foldl (fun s i => s.faultSub k i n) (s.walkLog w va n)

/-- A subscriber has had all passes of a node: where its path is done its results are written. -/
def State.pastNode (s : State) (k n i : Nat) : State :=
  match (s.walkAt k).sub? i with
  | none => s
  | some x =>
    let left := x.todo.filter (· != n)
    let late := x.passed.filter (· != n)
    let s := s.updWalk k fun w => w.updSub i fun z => { z with todo := left, passed := late }
    if left.isEmpty && late.isEmpty && !x.leaving && (x.st == .active || x.st == .deferred) then s.output k i else s

/-- A pass of a node's visit: the heads that a KV head serves, of every subscriber given (R289). -/
def State.applyPass (s : State) (k n : Nat) (bss : List (List Byte)) (t g : Nat) (group : List Nat) : State :=
  let w := s.walkAt k
  let (kv, turns) := w.groupVals n t g bss
  let s := s.countAll (s.blk w.blk).launch turns
  group.foldl (fun s i =>
    match w.sub? i with
    | none => s
    | some x =>
      let (y, ev) := w.updateSub x g kv
      (s.updWalk k fun w => w.updSub i fun z => { z with heads := y.heads }).countAll (s.blk w.blk).launch ev) s

/-- A node's visit ends with its last pass. -/
def State.endNode (s : State) (k n : Nat) (group : List Nat) : State :=
  (group.foldl (fun s i => s.pastNode k n i) s).updWalk k fun w =>
    { w with cur := none, curT := none, rows := none, group := 0 }

/-! What a walk reads of appends that it is not ordered with (R298) -/

/-- The scope at which the walkers of two clusters meet. -/
def meetScope (a b : Nat) : Nat :=
  if a = b then 1 else if a / Config.clusters = b / Config.clusters then 2 else 3

/-- Whether a walk is ordered after an append: it happened before the walk's post, or its release and the walk's acquires
both include the scope at which the two meet (R298, R385). -/
def Appended.ordered (a : Appended) (w : Walk) : Bool :=
  w.knows.contains a.id || (meetScope a.cl w.cl ≤ a.ms && meetScope a.cl w.cl ≤ w.acq)

/-- The versions of an append's place that a walk may read, given the present one and the appends, the latest first: each
with the append that wrote it, back to one that the walk is ordered after or has read (R298, R386). -/
def Walk.versions (w : Walk) (pa seen : Nat) : List Appended → List Byte → List (List Byte × Nat)
  | [], now => [(now, 0)]
  | a :: rest, now =>
    match a.elems.find? fun e => e.1 == pa with
    | none => Walk.versions w pa seen rest now
    | some (_, old, new) =>
      if now != new || a.ordered w || a.id + 1 ≤ seen then [(now, a.id + 1)]
      else (now, a.id + 1) :: Walk.versions w pa seen rest old

/-- Memory as a walk sees it where it reads some runs, the walk with what it has read, and the free values that this took:
each place of an append that it is not ordered after holds one of its versions (R298). -/
def State.seenBy (s : State) (w : Walk) (rs : List (DWord × Nat × Nat × DWord)) : List Host.Cell × Walk × Nat :=
  let read (e : Nat × List Byte × List Byte) : Bool := rs.any fun (_, pa, n, _) => overlap pa n e.1 e.2.1.length
  let places := ((((s.appended.filter fun a => !a.ordered w).flatMap (·.elems)).filter read).map
    fun e => (e.1, e.2.1.length)).eraseDups
  places.foldl (fun (m, w, i) (pa, n) =>
    let seen := ((w.floor.find? fun x => x.1 == pa).map (·.2)).getD 0
    let vs := w.versions pa seen s.appended.reverse (Memory.readBytes s.mem pa n)
    let v := vs.getD (Config.freeCount (s.tick + i) % vs.length) default
    (Memory.writeBytes m pa v.1, { w with floor := (pa, v.2) :: w.floor.filter fun x => x.1 != pa }, i + 1))
    (s.mem, w, 0)

/-- The physical runs of ranges that a walk reads. -/
def State.walkRuns (s : State) (w : Walk) (rs : List (DWord × Nat)) : List (DWord × Nat × Nat × DWord) :=
  rs.flatMap fun (va, n) => (s.xlateRange (clusterPlace w.cl) w.ctx .load (rangeFuel n) va n).2.1

/-- Reads of a walk's visit: what they read is what the walk sees. -/
def State.visitReads (s : State) (k : Nat) (rs : List (DWord × Nat)) : State × WRead :=
  let w := s.walkAt k
  let (m, w', n) := s.seenBy w (s.walkRuns w rs)
  match { s with mem := m }.walkReads w rs [] with
  | (t, r) =>
    ({ t with mem := s.mem, tick := t.tick + n }.updWalk k fun w => { w with floor := w'.floor }, r)

/-- The entry of a walk in the reservation table. -/
def State.visitEntry (s : State) (k : Nat) : Option MxEntry := s.mrt.find? fun e => e.kind == .walk k

/-- A visit posts the entry of its next pass, with the class of the walk's launch and the priority PRI (R252, R253,
R289). -/
def State.postVisit (s : State) (k : Nat) : State :=
  let w := s.walkAt k
  let (id, s) := s.fresh
  let e : MxEntry :=
    { id := id, cl := w.cl, blk := w.blk, warp := w.warp, cls := (s.launch (s.blk w.blk).launch).rcd.cls, pri := w.pri,
      posted := s.cycle, kind := .walk k, snap := [] }
  { s with mrt := s.mrt ++ [e] }

/-- A pass ends: its entry leaves the table. -/
def State.endVisit (s : State) (k : Nat) : State := { s with mrt := s.mrt.filter fun e => e.kind != .walk k }

/-- The answer of a visit: its last pass has been made, its block is faulted, the page it waits for, it has gone a step
on, or it waits for the array or for room in the table. -/
inductive Visit where
  | applied
  | faulted
  | missing (va : DWord) (tokens : Bool)
  | posted
  | held
  deriving DecidableEq, Repr, Inhabited

/-- A visit whose block has been read: a pass for each KV head in turn, each of which takes an entry of the reservation
table and is made when the arbiter grants it (R252, R253, R289; assumption 48). -/
def State.visitPass (s : State) (k n t : Nat) (bss : List (List Byte)) (group : List Nat) : State × Visit :=
  let w := s.walkAt k
  match s.visitEntry k with
  | none => if s.mrtFree w.cl = 0 then (s, .held) else (s.postVisit k, .posted)
  | some e =>
    if !(s.arrayFree w.cl && (s.mxNext w.cl true).any fun x => x.id == e.id) then (s, .held)
    else
      let s := ((s.endVisit k).countPass w.cl).applyPass k n bss t w.group group
      if w.group + 1 < w.f 35 1 then (s.updWalk k fun w => { w with group := w.group + 1 }, .posted)
      else (s.endNode k n group, .applied)

/-- A visit of a begun node for a group: TOKENS is read once, then the block, once, and then its passes are made (R253,
R288, R289, R296). A T above 64 faults the block (assumption 41). -/
def State.visit (s : State) (k n : Nat) (group : List Nat) : State × Visit :=
  let w := s.walkAt k
  let tokenVa : DWord := BitVec.ofNat 64 (w.f 0 8 + 16 * n + 6)
  let tokens : State × Sum (Option DWord) Nat :=
    match w.curT with
    | some t => (s, .inr t)
    | none =>
      match s.visitReads k [(tokenVa, 2)] with
      | (s, .absent va) => (s, .inl (some va))
      | (s, .bad _) => (s, .inl none)
      | (s, .ok bss) => (s, .inr (leNat (bss.headD [])))
  match tokens with
  | (s, .inl (some va)) => (s, .missing va true)
  | (s, .inl none) => (s.faultNode k n tokenVa group, .faulted)
  | (s, .inr t) =>
    if 64 < t then (s.faultNode k n tokenVa group, .faulted)
    else
      let s := s.updWalk k fun w => { w.updNode n (fun x => { x with t := t }) with curT := some t }
      match w.rows with
      | some bss => s.visitPass k n t bss group
      | none =>
        match s.visitReads k (w.blockRanges n t) with
        | (s, .absent va) => (s, .missing va false)
        | (s, .bad va) => (s.faultNode k n va group, .faulted)
        | (s, .ok bss) => (s.updWalk k fun w => { w with rows := some bss, group := 0 }, .posted)

/-- The main pass begins a node: SET(n) is fixed, and a leaf that begins is marked (R286, R291). -/
def Walk.begin_ (w : Walk) (n : Nat) (set : List Nat) : Walk :=
  let w := w.updNode n fun x => { x with visited := true, set := set }
  { w with nVisit := w.nVisit + 1, cur := some n, curT := none, rows := none, group := 0,
           subs := w.subs.map fun x => if set.contains x.idx && x.leaf == n then { x with leafBegun := true } else x }

/-- SET(n) at this moment (R286). -/
def Walk.setAt (w : Walk) (n : Nat) : List Nat :=
  (w.subs.filter fun x => x.st == .active && w.passes x n).map (·.idx)

/-- The node at the head of the main pass is done with. -/
def Walk.popNode (w : Walk) : Walk := { w with todo := w.todo.tail, cur := none, curT := none, rows := none, group := 0 }

/-- NODE_VISIT: the next node of the main pass, after the results that are being written (R286, R290, R294). -/
def execNodeVisit (k : Nat) (s : State) : Host.Outcome State Fault Refusal :=
  let w := s.walkAt k
  if !s.walkTurn k || w.phase != .main || w.want.isSome then .fault .notEnabled
  else match w.outs with
  | y :: _ => .next ((s.outStep k y).walkNext k)
  | [] => match w.todo with
    | [] => .fault .notEnabled
    | n :: _ =>
      let set := if w.cur.isSome then (w.node n).set else w.setAt n
      if set.isEmpty then .next ((s.updWalk k Walk.popNode).walkNext k)
      else
        let s := if w.cur.isSome then s else s.updWalk k fun w => w.begin_ n set
        match s.visit k n set with
        | (s, .applied) => .next ((s.updWalk k Walk.popNode).walkNext k)
        | (s, .faulted) => .next ((s.updWalk k Walk.popNode).walkNext k)
        | (s, .missing va tokens) =>
          let pass (w : Walk) : Walk :=
            { (w.updNode n fun x => { x with passed := true }).popNode with passed := w.passed ++ [n] }
          s.pagePass k n va (!tokens && !w.deterministic) fun s => (s.updWalk k pass).walkNext k
        | (s, .posted) => .next s
        | (_, .held) => .fault .notEnabled

/-- Whether a request for a node's page is outstanding. -/
def Walk.waitsFor (w : Walk) (n : Nat) : Bool := w.pages.any fun p => p.node == n && p.reply.isNone

/-- REVISIT: the node passed first, for the subscribers that still hold it (R294). -/
def execRevisit (k : Nat) (s : State) : Host.Outcome State Fault Refusal :=
  let w := s.walkAt k
  if !s.walkTurn k || w.phase != .revisit || w.want.isSome then .fault .notEnabled
  else match w.outs with
  | y :: _ => .next ((s.outStep k y).walkNext k)
  | [] => match w.passed with
    | [] => .fault .notEnabled
    | n :: rest =>
      let holds (i : Nat) : Bool := (w.sub? i).any fun x => x.st == .active
      let group := (w.node n).set.filter holds
      let pop (w : Walk) : Walk := { w with passed := rest, cur := none, curT := none, rows := none, group := 0 }
      if group.isEmpty then .next ((s.updWalk k pop).walkNext k)
      else if w.waitsFor n then .fault .notEnabled
      else
        let s := if w.cur.isSome then s
          else s.updWalk k fun w => { w with cur := some n, curT := none, rows := none, group := 0, nRevisit := w.nRevisit + 1 }
        match s.visit k n group with
        | (s, .applied) => .next ((s.updWalk k pop).walkNext k)
        | (s, .faulted) => .next ((s.updWalk k pop).walkNext k)
        | (s, .missing va _) =>
          match s.pageWait k n va with
          | none => .fault .notEnabled
          | some s => .next s
        | (s, .posted) => .next s
        | (_, .held) => .fault .notEnabled

/-- The catch-up walk of the first deferred subscriber begins: its query is read (R285, R292). -/
def State.catchupBegin (s : State) (k i : Nat) : Host.Outcome State Fault Refusal :=
  match s.takeQuery k i with
  | (s', none) => .next ((s'.updWalk k fun w => { w with nDefer := w.nDefer + 1 }).walkNext k)
  | (_, some va) =>
    match s.pageWait k noNode va with
    | none => .fault .notEnabled
    | some s => .next s

/-- A node of a catch-up walk (R292, R294, R296): `again` says that it has been passed before. -/
def State.catchupNode (s : State) (k i n : Nat) (again : Bool) : Host.Outcome State Fault Refusal :=
  let w := s.walkAt k
  if (w.node n).faulted then .next ((s.faultSub k i n).walkNext k)
  else if again && w.waitsFor n then .fault .notEnabled
  else
    let start (w : Walk) : Walk :=
      { w.updSub i (fun x => if x.leaf == n then { x with leafBegun := true } else x) with
        cur := some n, curT := none, rows := none, group := 0, nRevisit := if again then w.nRevisit + 1 else w.nRevisit }
    let s := if w.cur.isSome then s else s.updWalk k start
    match s.visit k n [i] with
    | (s, .applied) => .next (s.walkNext k)
    | (s, .posted) => .next s
    | (_, .held) => .fault .notEnabled
    | (s, .faulted) => .next (s.walkNext k)
    | (s, .missing va tokens) =>
      let pass (w : Walk) : Walk :=
        { w.updSub i (fun x => { x with todo := x.todo.filter (· != n), passed := x.passed ++ [n] }) with
          cur := none, curT := none, rows := none, group := 0 }
      s.pagePass k n va (!again && !tokens && !w.deterministic) fun s => (s.updWalk k pass).walkNext k

/-- CATCHUP: a step of the walk of the first deferred subscriber (R292). -/
def execCatchup (k : Nat) (s : State) : Host.Outcome State Fault Refusal :=
  let w := s.walkAt k
  if !s.walkTurn k || w.phase != .catchup || w.want.isSome then .fault .notEnabled
  else match w.outs with
  | y :: _ => .next ((s.outStep k y).walkNext k)
  | [] => match w.deferred with
    | [] => .fault .notEnabled
    | i :: _ =>
      match w.sub? i with
      | none => .fault .notEnabled
      | some x =>
        if x.query.isNone then s.catchupBegin k i
        else match x.todo, x.passed with
          | n :: _, _ => s.catchupNode k i n false
          | [], n :: _ => s.catchupNode k i n true
          | [], [] => .fault .notEnabled

/-- The 16 words of the status record as the walker holds them (R284). -/
def Walk.status (w : Walk) : List Word :=
  let count (st : SubState) : Word := BitVec.ofNat 32 ((w.subs.filter fun x => x.st == st).length)
  let n (k : Nat) : Word := BitVec.ofNat 32 k
  [n w.code, w.id, count .done, count .left, count .faulted, n w.nDefer, w.firstF, n w.late, n w.nVisit, n w.nRevisit,
   n w.nPage, 0, 0, 0, 0, 0]

/-- WALK_COMPLETE: the status record, then the release at package scope (R284, R290). -/
def execWalkComplete (k : Nat) (s : State) : Host.Outcome State Fault Refusal :=
  let w := s.walkAt k
  if !s.walkTurn k || w.phase != .complete then .fault .notEnabled
  else
    let s := (s.walkWrite k false (BitVec.ofNat 64 (w.f 64 8)) (w.status.flatMap fun x => leBytes 4 x.toNat)).1
    let s := s.engineRelease w.blk w.warp (s.walkAt k).sectors 3
    .next (s.updWalk k fun w => { w with written := true })

/-! ### Joining, leaving, retiring and appending (R291, R297, R304, R305) -/

/-- A request leaves the queue with its status. -/
def State.answerReq (s : State) (r : WalkReq) (v : Word) : State :=
  let s := { s with walkReqs := s.walkReqs.filter fun x => x.id != r.id }
  s.status r.blk r.warp r.id r.d [v]

/-- The node that a subscriber is being updated from (R303). -/
def Walk.applying (w : Walk) (x : Sub) : Option Nat :=
  let mine (n : Nat) : Bool :=
    if w.phase == .catchup then w.deferred.head? == some x.idx else (w.node n).set.contains x.idx && x.st == .active
  w.cur.filter mine

/-- A leave performed: the state of R291 after it, as a status. The subscriber of a node in progress is LEFT from the
next node boundary on. -/
def State.leave (s : State) (k i : Nat) : State × Word :=
  match (s.walkAt k).sub? i with
  | none => (s, 0x104)
  | some x =>
    if x.st == .faulted || x.st == .left then (s, BitVec.ofNat 32 x.st.code)
    else if x.st == .done || x.leafBegun then (s, 6)
    else if x.leaving || ((s.walkAt k).applying x).isSome then
      (s.updWalk k fun w => w.updSub i fun x => { x with leaving := true }, 4)
    else (s.setSub k i .left, 4)

/-- Whether no earlier request to join, leave or retire stands before this one (R291). -/
def State.reqFirst (s : State) (r : WalkReq) : Bool :=
  let plain (x : WalkReq) : Bool := match x.kind with | .append _ _ => false | .join _ _ => true | .leave _ _ => true | .retire _ => true
  (s.walkReqs.takeWhile fun x => x.id != r.id).all fun x => x.cl != r.cl || !plain x

/-- A request about a subscriber, after the checks that WJOIN and WLEAVE share (R301): the walk and the bytes of the
entry, or a status; none where its entry's page is waited for. -/
def State.subReq (s : State) (r : WalkReq) (id : Word) (i : Nat) (act : State → Nat → List Byte → State × Word) :
    Host.Outcome State Fault Refusal :=
  match s.walkOf r.blk id with
  | none => .next (s.answerReq r 0x100)
  | some k =>
    let w := s.walkAt k
    if w.phase == .complete then .next (s.answerReq r 0x101)
    else if w.nsubs ≤ i then .next ((s.answerReq r 0x102).walkNext k)
    else match s.walkRead w (w.entryVa i 0) 64 with
      | (s, .bad _) => .next ((s.answerReq r 0x102).walkNext k)
      | (s, .absent va) =>
        match s.pageWait k noNode va with
        | none => .fault .notEnabled
        | some s => .next s
      | (s, .ok bss) =>
        let (s, v) := act s k (bss.headD [])
        .next ((s.answerReq r v).walkNext k)

/-- WJOIN_PERFORMED (R291, R301). -/
def execWjoinPerformed (n : Nat) (s : State) : Host.Outcome State Fault Refusal :=
  opOf s.walkReqs (fun r => r.id == n && s.reqFirst r) fun r =>
    match r.kind with
    | .join id i =>
      s.subReq r id i fun s k bs =>
        let w := s.walkAt k
        let known := !(w.phase == .queued || w.phase == .validating)
        let st := fieldAt bs 4 1
        let leaf := fieldAt bs 0 2
        if 1 < st || fieldAt bs 8 8 % 16 != 0 || w.nnodes ≤ leaf || (known && (w.path leaf).isNone) then (s, 0x102)
        else if (w.sub? i).isSome then (s, 0x103)
        else
          let to_ : SubState := if known then .deferred else .active
          let s := s.updWalk k fun w => { w with
            subs := w.subs ++ [subOf i bs to_], deferred := if known then w.deferred ++ [i] else w.deferred }
          (s.setSub k i to_, BitVec.ofNat 32 to_.code)
    | _ => .fault .notEnabled

/-- WLEAVE_PERFORMED (R291, R301). -/
def execWleavePerformed (n : Nat) (s : State) : Host.Outcome State Fault Refusal :=
  opOf s.walkReqs (fun r => r.id == n && s.reqFirst r) fun r =>
    match r.kind with
    | .leave id i => s.subReq r id i fun s k _ => s.leave k i
    | _ => .fault .notEnabled

/-- The walks in flight on a cluster that hold the entry at an address: their places and the entry's index (R297). -/
def State.holders (s : State) (cl ctx : Nat) (va : DWord) : List (Nat × Nat) :=
  s.walks.zipIdx.filterMap fun (w, k) =>
    if w.cl != cl || w.ctx != ctx || w.phase == .complete then none
    else (w.subs.find? fun x => w.entryVa x.idx 0 == va).map fun x => (k, x.idx)

/-- WRETIRE_PERFORMED (R297, R305). -/
def execWretirePerformed (n : Nat) (s : State) : Host.Outcome State Fault Refusal :=
  opOf s.walkReqs (fun r => r.id == n && s.reqFirst r) fun r =>
    match r.kind with
    | .retire va =>
      let B := s.blk r.blk
      let die := r.cl / Config.clusters
      let fail (s : State) : State :=
        (s.log die { kind := 9, ctx := some B.ctx, die := some die, cluster := some (r.cl % Config.clusters),
                     addr := va.toNat, tag := (s.launch B.launch).rcd.tag.toNat }).answerReq r 0xFFFFFFFF
      match s.xlate (clusterPlace r.cl) B.ctx va 64 .store with
      | (s, .fault _) => .next (fail s)
      | (s, .ok _ pa) =>
        if s.poisoned pa 64 then .next (fail s)
        else
          let gen := (leNat (s.readPa (pa + 2) 2) + 1) % 65536
          let s := s.engineWrite r.blk (pa + 2) (leBytes 2 gen ++ [0])
          let s := s.updWarp r.blk r.warp fun W => W.wroteSectors [pa / 64]
          let drop (s : State) (h : Nat × Nat) : State :=
            let s := s.updWalk h.1 fun w => w.updSub h.2 fun x => { x with retired := true }
            (s.leave h.1 h.2).1.walkNext h.1
          .next (((s.holders r.cl B.ctx va).foldl drop s).answerReq r (BitVec.ofNat 32 gen))
    | _ => .fault .notEnabled

/-- Whether an append record breaks its table, or its source leaves the scratchpad (R304). -/
def badAppend (spSize : Nat) (d : List Byte) : Bool :=
  let n (off len : Nat) : Nat := fieldAt d off len
  let row := headDim (n 21 1) * (fmtWidth (n 22 1) / 8)
  n 0 8 % 16 != 0 || n 8 8 % 16 != 0 || n 16 4 % 16 != 0 || n 20 1 < 1 || 16 < n 20 1 || 2 < n 21 1
    || !([2, 3, 5, 6].contains (n 22 1)) || !zeroBytes d 23 9 || spSize < n 16 4 + 2 * n 20 1 * row

/-- Translates the pieces of an append's rows, none of which crosses a page: the physical runs of each, and the first
fault, past which the others may still be written (R304). -/
def State.appendRuns (s : State) (place ctx row : Nat) :
    List DWord → State × List (List (DWord × Nat × Nat × DWord)) × Option DWord
  | [] => (s, [], none)
  | va :: vas =>
    match s.xlateRange place ctx .store (rangeFuel row) va row with
    | (s, rs, f) =>
      match State.appendRuns s place ctx row vas with
      | (s, rest, g) => (s, rs :: rest, (f.map (·.2)).orElse fun _ => g)

/-- The elements that the runs of rows hold: their addresses, and their bytes before and after the append. -/
def State.appendElems (s : State) (ew : Nat) (src : List Byte) (runs : List (List (DWord × Nat × Nat × DWord)))
    (row : Nat) : List (Nat × List Byte × List Byte) :=
  runs.zipIdx.flatMap fun (rs, j) =>
    let addrs := rs.flatMap fun (_, pa, n, _) => (List.range (n / ew)).map fun i => pa + ew * i
    addrs.zipIdx.map fun (pa, i) => (pa, s.readPa pa ew, (src.drop (row * j + ew * i)).take ew)

/-- The places that other appends have written which read the same TOKENS: those that leave TOKENS as this one would
(R298). -/
def State.rivals (s : State) (nodePa t : Nat) : List Nat :=
  let rival (a : Appended) : Bool := a.elems.getLast?.any fun e => e.1 == nodePa && e.2.2 == leBytes 2 (t + 1)
  (s.appended.filter rival).flatMap fun a => a.elems.dropLast.map (·.1)

/-- Writes elements, and says which it wrote; where the append has failed, or another has written the place, each may
keep the value that it has (R298, R304). -/
def State.writeElems (s : State) (b : Nat) (failed : Bool) (rivals : List Nat) (es : List (Nat × List Byte × List Byte)) :
    State × List (Nat × List Byte × List Byte) :=
  es.foldl (fun (s, out) e =>
    let (go, s) := if failed || rivals.contains e.1 then s.race else (true, s)
    if go then (s.engineWrite b e.1 e.2.2, out ++ [e]) else (s, out)) (s, [])

/-- The sectors that elements lie in. -/
def elemSectors (es : List (Nat × List Byte × List Byte)) : List Nat :=
  (es.map fun x => x.1 / 64).foldl addSector []

/-- The fault that an append meets on its rows or on TOKENS, or the physical address of TOKENS (R304, R422). -/
def State.appendCheck (s : State) (r : WalkReq) (nodeVa : DWord) (src len : Nat) (f : Option DWord) :
    State × Sum DWord Nat :=
  let B := s.blk r.blk
  match f with
  | some a => (s, .inl a)
  | none =>
    if B.spPoisoned src len then (s, .inl (BitVec.ofNat 64 src))
    else match s.xlate (clusterPlace r.cl) B.ctx nodeVa 16 .store with
      | (s, .fault _) => (s, .inl nodeVa)
      | (s, .ok _ pa) => (s, .inr (pa + 6))

/-- An append performed with TOKENS as read: its status, and the address of a fault (R298, R304). -/
def State.append (s : State) (r : WalkReq) (d : List Byte) (ms : Option Nat) (t : Nat) : State × Nat × Option DWord :=
  let n (off len : Nat) : Nat := fieldAt d off len
  let B := s.blk r.blk
  let place := clusterPlace r.cl
  let nodeVa : DWord := BitVec.ofNat 64 (n 0 8)
  let ew := fmtWidth (n 22 1) / 8
  let row := headDim (n 21 1) * ew
  let len := 2 * n 20 1 * row
  match s.readVa place B.ctx nodeVa 16 with
  | (s, .inl (_, a)) => (s, 2, some a)
  | (s, .inr bs) =>
    match s.readVa place B.ctx (BitVec.ofNat 64 (n 8 8 + 16 * fieldAt bs 8 4)) 16 with
    | (s, .inl (_, a)) => (s, 2, some a)
    | (s, .inr e) =>
      let piece := min row 256
      let rows (base : Nat) : List DWord :=
        (List.range (n 20 1)).flatMap fun g => (List.range (row / piece)).map fun i =>
          BitVec.ofNat 64 (base + (g * 64 + t) * row + piece * i)
      match s.appendRuns place B.ctx piece (rows (fieldAt e 0 8) ++ rows (fieldAt e 8 8)) with
      | (s, runs, f) =>
        let s := s.settleSp r.blk (n 16 4) len
        let es := s.appendElems ew ((s.blk r.blk).readSp (n 16 4) len) runs piece
        match s.appendCheck r nodeVa (n 16 4) len f with
        | (s, .inl a) =>
          ((s.writeElems r.blk true [] es).1.updWarp r.blk r.warp fun W => W.wroteSectors (elemSectors es), 2, some a)
        | (s, .inr pa) =>
          let (s, es) := s.writeElems r.blk false (s.rivals pa t) es
          let s := match ms with
            | some ms => s.deliver (Sig.ofSectors (elemSectors es)) ms B.die B.cluster none
            | none => s
          let es := es ++ [(pa, s.readPa pa 2, leBytes 2 (t + 1))]
          let s := s.engineWrite r.blk pa (leBytes 2 (t + 1))
          let s := s.updWarp r.blk r.warp fun W => W.wroteSectors (elemSectors es)
          let (id, s) := s.fresh
          ({ s with appended := s.appended ++ [⟨id, r.blk, r.warp, r.cl, ms.getD 0, es, [(r.blk, r.warp)]⟩] }, 0, none)

/-- The answer of an append, with its log entry where it faults (R304). -/
def State.appendDone (s : State) (r : WalkReq) (st : Nat) (f : Option DWord) : State :=
  let B := s.blk r.blk
  let die := r.cl / Config.clusters
  let s := match f with
    | none => s
    | some a => s.log die { kind := 9, ctx := some B.ctx, die := some die, cluster := some (r.cl % Config.clusters),
                            addr := a.toNat, tag := (s.launch B.launch).rcd.tag.toNat }
  s.answerReq r (BitVec.ofNat 32 st)

/-- TOKENS of an append's node, or the fault of its read. -/
def State.appendTokens (s : State) (r : WalkReq) (d : List Byte) : State × Sum DWord Nat :=
  match s.readVa (clusterPlace r.cl) (s.blk r.blk).ctx (BitVec.ofNat 64 (fieldAt d 0 8)) 16 with
  | (s, .inl (_, a)) => (s, .inl a)
  | (s, .inr bs) => (s, .inr (fieldAt bs 6 2))

/-- KVAPP_COMPLETE: the append reads TOKENS, and at a later time writes its rows and TOKENS (R298, R304). -/
def execKvappComplete (k : Nat) (s : State) : Host.Outcome State Fault Refusal :=
  opOf s.walkReqs (fun r => r.id == k) fun r =>
    match r.kind with
    | .append d ms =>
      match r.t with
      | some t =>
        match s.append r d ms t with
        | (s, st, f) => .next (s.appendDone r st f)
      | none =>
        match s.appendTokens r d with
        | (s, .inl a) => .next (s.appendDone r 2 (some a))
        | (s, .inr t) =>
          if t = 64 then .next (s.appendDone r 1 none)
          else if 64 < t then .next (s.appendDone r 2 (some (BitVec.ofNat 64 (fieldAt d 0 8))))
          else .next { s with walkReqs := s.walkReqs.map fun x => if x.id == k then { x with t := some t } else x }
    | _ => .fault .notEnabled

/-! ### The instructions (R299 to R305) -/

/-- The appends that happen before what a warp does next (R385). -/
def State.appendsKnown (s : State) (b w : Nat) : List Nat :=
  (s.appended.filter fun a => a.known.contains (b, w)).map (·.id)

/-- A walk as WSTART posts it, with the appends that happen before its post. -/
def newWalk (id : Word) (B : Block) (o : Who) (desc : List Byte) (knows : List Nat) : Walk :=
  { id := id, cl := B.clusterNo, blk := o.blk, warp := o.warp, ctx := B.ctx, desc := desc, phase := .queued,
    nodes := List.replicate (fieldAt desc 8 4) default,
    subs := [], todo := [], passed := [], deferred := [], cur := none, curT := none, pages := [], want := none, code := 0,
    nDefer := 0, firstF := BitVec.allOnes 32, late := 0, nVisit := 0, nRevisit := 0, nPage := 0, sectors := [],
    written := false, knows := knows }

/-- The checks of WSTART and its post (R300). -/
def State.wstart (s : State) (o : Who) (d : BitVec 6) (va : DWord) (ms : Nat) : State × AccRes :=
  s.post o ms fun s =>
    let B := s.blk o.blk
    match s.xlate (clusterPlace B.clusterNo) B.ctx va 128 .load with
    | (s, .fault c) => (s, .fault c va)
    | (s, .ok _ pa) =>
      let desc := s.readPa pa 128
      if s.poisoned pa 128 then (s, .fault .poison va)
      else if badWalkDesc desc then (s, .fault .engine va)
      else if 8 ≤ (s.walks.filter fun w => w.cl == B.clusterNo && !w.written).length then (s, .stall .walker)
      else
        let id := (s.cluster B.clusterNo).walkIds
        let s := s.updCluster B.clusterNo fun c => { c with walkIds := c.walkIds + 1 }
        ({ s with walks := s.walks ++ [newWalk id B o desc (s.appendsKnown o.blk o.warp)] }.setW o d [id], .done)

/-- WSTART (R300). -/
def execWstart (f : FormDA) (s : State) : Host.Outcome State Fault Refusal :=
  issuing s fun x =>
    x.uniform { ord := [2] } [wop f.d, wop f.a 2] x.inService fun s o w =>
      s.wstart o f.d (pair (w f.a.toNat) (w (f.a.toNat + 1))) (x.postScope 2)

/-- A request is put in the arrival queue of the walker, with its release (R299). -/
def State.postReq (s : State) (o : Who) (d : BitVec 6) (k : WalkReqKind) (ms : Nat) : State × AccRes :=
  let cl := (s.blk o.blk).clusterNo
  if 64 ≤ (s.walkReqs.filter fun r => r.cl == cl).length then (s, .stall .walker)
  else s.post o ms fun s =>
    let (id, s) := s.fresh
    let s := s.emptyDest o.blk o.warp (.w d.toNat) 1 id
    let r : WalkReq := { id := id, cl := cl, blk := o.blk, warp := o.warp, d := d.toNat, kind := k }
    ({ s with walkReqs := s.walkReqs ++ [r] }, .done)

/-- WJOIN and WLEAVE. -/
def subReqOp (f : FormDAB) (k : Word → Nat → WalkReqKind) (s : State) : Host.Outcome State Fault Refusal :=
  issuing s fun x =>
    x.uniform {} [wop f.d, wop f.a, wop f.b] x.inService fun s o w =>
      s.postReq o f.d (k (w f.a.toNat) (w f.b.toNat).toNat) 2

def execWjoin (f : FormDAB) (s : State) := subReqOp f .join s

def execWleave (f : FormDAB) (s : State) := subReqOp f .leave s

/-- WRETIRE (R305). -/
def execWretire (f : FormDAB) (s : State) : Host.Outcome State Fault Refusal :=
  issuing s fun x =>
    x.uniform {} [wop f.d, wop f.a 2, wop f.b] x.inService fun s o w =>
      let i := (w f.b.toNat).toNat
      let va := pair (w f.a.toNat) (w (f.a.toNat + 1)) + BitVec.ofNat 64 (64 * i)
      if 256 ≤ i then (s, .fault .engine (BitVec.ofNat 64 i))
      else match s.xlate (clusterPlace x.b.clusterNo) x.b.ctx va 64 .store with
        | (s, .fault c) => (s, .fault c va)
        | (s, .ok _ _) => s.postReq o f.d (.retire va) 2

/-- KVAPP (R304). -/
def execKvapp (f : FormDA) (s : State) : Host.Outcome State Fault Refusal :=
  issuing s fun x =>
    x.uniform { ord := [2] } [wop f.d, wop f.a] x.inService fun s o w =>
      let off := (w f.a.toNat).toNat
      if s.deqBlocks o.blk o.warp o.mask then (s, .wait)
      else
      let s := s.orderBytes o true off 32
      let B := s.blk o.blk
      match spCheckAt B.spSize off 16 32 with
      | some (c, a) => (s, .fault c a)
      | none =>
        let d := B.readSp off 32
        if badAppend B.spSize d then (s, .fault .engine (BitVec.ofNat 64 off))
        else s.postReq o f.d (.append d (if x.pf.ord.isSome then some x.pf.ms else none)) (x.postScope 2)

/-- WWAIT (R302). -/
def execWwait (f : FormDA) (s : State) : Host.Outcome State Fault Refusal :=
  issuing s fun x =>
    x.uniform {} [wop f.d, wop f.a] x.inService fun s o w =>
      match s.walkOf o.blk (w f.a.toNat) with
      | none => (s.setW o f.d [0xFFFFFFFF], .done)
      | some k =>
        let y := s.walkAt k
        if y.written then ((s.acquire o.blk o.warp 3).setW o f.d [BitVec.ofNat 32 y.code], .done)
        else (s.updWarp o.blk o.warp fun W => { W with wait := some (.walk k f.d.toNat) }, .done)

/-- WWAIT_RELEASE (R302). -/
def execWwaitRelease (b w : Nat) (s : State) : Host.Outcome State Fault Refusal :=
  s.release? b w fun q =>
    match q with
    | .walk k d =>
      let y := s.walkAt k
      if y.written then some ((s.acquire b w 3).updWarp b w fun W => W.setReg d (BitVec.ofNat 32 y.code)) else none
    | _ => none

def WalkPhase.code : WalkPhase → Nat
  | .queued => 0
  | .validating => 1
  | .main => 2
  | .revisit => 3
  | .catchup => 4
  | .complete => 5

/-- The record of WSTAT from its first word on (R303). -/
def State.walkRecord (s : State) (k : Option Nat) (sel : Word) : List Word :=
  let kind := sel.toNat / 2 ^ 28
  let n (x : Nat) : Word := BitVec.ofNat 32 x
  match k with
  | none => if kind = 0 then [6] else []
  | some k =>
    let w := s.walkAt k
    if kind = 0 then n w.phase.code :: w.status.tail
    else if kind = 1 then
      let i := sel.toNat % 4096
      let x := w.node i
      if w.nnodes ≤ i then []
      else
        let word (j : Nat) : Word := maskOf fun l => x.set.contains (32 * j + l)
        (List.range 8).map word
          ++ [n (x.visited.toNat + 2 * x.passed.toNat + 4 * x.faulted.toNat), n x.t]
    else if kind = 2 then
      let i := sel.toNat % 256
      match w.sub? i with
      | some x =>
        [n x.st.code, x.gen.setWidth 32, ((w.applying x).map n).getD (BitVec.allOnes 32), x.fnode, n x.dropCode.1]
      | none =>
        if i < w.nsubs then [if s.joining k i then 2 else 0, 0, BitVec.allOnes 32, BitVec.allOnes 32, 0] else []
    else []

/-- The events of the rounding of DROP in a record of WSTAT (R181, R303). -/
def State.recordEvents (s : State) (k : Option Nat) (sel : Word) : List (Nat × Events) :=
  match k.bind fun k => (s.walkAt k).sub? (sel.toNat % 256) with
  | some x => if sel.toNat / 2 ^ 28 = 2 then [(0, x.dropCode.2)] else []
  | none => []

/-- WSTAT (R303): a status read, whose words fill their registers as they arrive (R97). -/
def execWstat (f : FormDAB) (s : State) : Host.Outcome State Fault Refusal :=
  issuing s fun x =>
    x.toV { mod := true, k := true, mz := true } f.d [wop f.a, wop f.b] x.inService fun s o W =>
      let k := s.walkOf o.blk (W.reg f.a.toNat)
      let words := s.walkRecord k (W.reg f.b.toNat)
      ((s.sendStatus o f.d.toNat words).countAll x.b.launch (s.recordEvents k (W.reg f.b.toNat)), .done)

end Sys2Proof.Machine
end

