-- ==== Sys2Proof/Machine/Sequencer.lean ====
section
/-! DEFINITION. The step sequencer (R306 to R319), and the exit of a block, which closes its open steps (R150,
R307). -/

namespace Sys2Proof.Machine

/-! ### What the chapter's posts share (R306, R307) -/

/-- A request record in scratchpad, or the fault of its offset. -/
def Block.record (b : Block) (off n : Nat) : Sum (Cause × DWord) (List Byte) :=
  match spCheckAt b.spSize off 16 n with
  | some f => .inl f
  | none => .inr (b.readSp off n)

/-- A post of the chapter: the release, the record, and what the unit does with it. -/
def State.withRecord (s : State) (o : Who) (off n : Nat) (act : State → List Byte → State × AccRes) :
    State × AccRes :=
  s.post o 2 fun s =>
    match (s.blk o.blk).record off n with
    | .inl (c, a) => (s, .fault c a)
    | .inr d => act s d

def engineFault (n : Nat) : AccRes := .fault .engine (BitVec.ofNat 64 n)

/-! ### The step table (R308, R313) -/

def OpenStep.f (t : OpenStep) (off n : Nat) : Nat := fieldAt t.desc off n

def OpenStep.layers (t : OpenStep) : Nat := t.f 16 4

def OpenStep.tilesPer (t : OpenStep) : Nat := t.f 20 4

/-- Generations held in the ring. -/
def OpenStep.ngen (t : OpenStep) : Nat := if t.f 30 1 = 0 then 256 else t.f 30 1

/-- Words of a bit field. -/
def OpenStep.words (t : OpenStep) : Nat := (t.layers * t.tilesPer + 31) / 32

/-- MB: bytes of a region. -/
def OpenStep.regionBytes (t : OpenStep) : Nat := (64 + 4 * t.words + 63) / 64 * 64

/-- An address in the region of a generation. -/
def OpenStep.regionVa (t : OpenStep) (g off : Nat) : DWord :=
  BitVec.ofNat 64 (t.f 8 8 + g % t.ngen * t.regionBytes + off)

/-- The record of a tile. -/
def OpenStep.recordVa (t : OpenStep) (y x : Nat) : DWord := BitVec.ofNat 64 (t.f 0 8 + 544 * (y * t.tilesPer + x))

/-- Whether a table breaks R308. -/
def badStepTable (d : List Byte) : Bool :=
  let n (off len : Nat) : Nat := fieldAt d off len
  n 0 8 % 64 != 0 || n 8 8 % 64 != 0 || n 16 4 < 1 || 4096 < n 16 4 || n 20 4 < 1 || 65536 < n 20 4
    || 2 ^ 24 < n 16 4 * n 20 4 || !([2, 3, 5].contains (n 29 1)) || n 31 1 != 0 || !zeroBytes d 36 28

/-! ### Open steps -/

def Cluster.step? (c : Cluster) (h : Nat) : Option OpenStep := c.steps.find? fun t => t.handle == h

def State.updStep (s : State) (cl h : Nat) (f : OpenStep → OpenStep) : State :=
  s.updCluster cl fun c => { c with steps := c.steps.map fun t => if t.handle == h then f t else t }

/-- The handle that an operation names. -/
def SeqKind.handle? : SeqKind → Option Nat
  | .open_ _ _ => none
  | .sig h _ => some h
  | .commit h _ => some h
  | .map h _ _ _ => some h
  | .close h => some h

/-- The open step of a cluster that a handle names to a block; a handle that is being closed names none. -/
def State.stepAt (s : State) (b cl : Nat) (h : Word) : Option OpenStep :=
  let closing := s.seqOps.any fun o => o.cl == cl && (match o.kind with | .close k => k == h.toNat | _ => false)
  match (s.cluster cl).step? h.toNat with
  | some t => if t.blk == b && !closing then some t else none
  | none => none

/-- The open step that a handle names to a block, with its cluster: that of the cluster on which the block stands, else
one that it opened where it stood before a SPAWN moved it (R56, R307; assumption 42). -/
def State.stepOf (s : State) (b : Nat) (h : Word) : Option (Nat × OpenStep) :=
  ((s.blk b).clusterNo :: List.range s.clusters.length).findSome? fun cl => (s.stepAt b cl h).map fun t => (cl, t)

/-- The table that an operation works on. -/
def State.tableOf (s : State) (o : SeqOp) : Nat × DWord :=
  match o.kind.handle? with
  | some h => (((s.cluster o.cl).step? h).map fun t => (t.ctx, t.table)).getD (0, 0)
  | none => match o.kind with
    | .open_ va _ => ((s.blk o.blk).ctx, va)
    | _ => (0, 0)

/-- Whether no operation of the same table stands before this one (R312). -/
def State.seqFirst (s : State) (o : SeqOp) : Bool :=
  (s.seqOps.takeWhile fun x => x.id != o.id).all fun x => x.cl != o.cl || s.tableOf x != s.tableOf o

/-- The sequencer of a cluster writes bytes of a table for a warp, as far as they can be written (assumption 42). Their
sectors join the write set of the warp and those of the step. -/
def State.seqWrite (s : State) (cl h b w : Nat) (va : DWord) (bs : List Byte) : State :=
  match s.xlateRange (clusterPlace cl) (s.blk b).ctx .store (rangeFuel bs.length) va bs.length with
  | (s, rs, _) =>
    let secs := rs.flatMap fun (_, pa, n, _) => sectorsOf pa n
    let s := (s.engineRuns b rs bs).updWarp b w fun W => W.wroteSectors secs
    s.updStep cl h fun t => { t with sectors := secs.foldl addSector t.sectors }

/-- A word of a region; one that cannot be read is 0 (assumption 42). -/
def State.seqWord (s : State) (cl b : Nat) (va : DWord) : State × Nat :=
  match s.readVa (clusterPlace cl) (s.blk b).ctx va 4 with
  | (s, .inr bs) => (s, leNat bs)
  | (s, .inl _) => (s, 0)

/-- Words from an address on. -/
def State.seqWords (s : State) (cl b : Nat) (va : DWord) : Nat → State × List Nat
  | 0 => (s, [])
  | n + 1 =>
    match s.seqWord cl b va with
    | (s, x) => match State.seqWords s cl b (va + 4) n with
      | (s, xs) => (s, x :: xs)

/-! ### Signatures and the decision (R310, R311) -/

/-- The signature of a stripe, from its elements in row-major order: the FP32 codes of S and A. -/
def stripeSig (es : List Val) : Nat × Nat :=
  let add (acc : Val) (x : Val) : Val := val40 (code40 (Val.add false acc x))
  let r := es.foldl (fun (acc : Val × Val) x => (add acc.1 x, add acc.2 x.abs)) (Val.zero false, Val.zero false)
  ((code32 r.1).toNat, (code32 r.2).toNat)

/-- The 256 bytes of the signature of a tile, given its rows (R309, R310). -/
def tileSig (rows : List (List Val)) : List Byte :=
  (List.range 32).flatMap fun k =>
    let es := rows.flatMap fun r => [r.getD (2 * k) .nan, r.getD (2 * k + 1) .nan]
    let (sv, av) := stripeSig es
    leBytes 4 sv ++ leBytes 4 av

/-- The FP32 values of a signature, S or A of each stripe. -/
def sigVals (bs : List Byte) (a : Bool) : List Val :=
  (List.range 32).map fun k => valueOf 0 (fieldAt bs (8 * k + if a then 4 else 0) 4)

/-- D of R311 with the events of its reductions and of its result. -/
def sigDistance (new old : List Byte) : Nat × List (Nat × Events) :=
  let ds := List.zipWith (fun x y => (Val.add false x y.flip).abs) (sigVals new false) (sigVals old false)
  let num := reduce40 ds (sigVals new false ++ sigVals old false)
  let den := reduce40 (sigVals old true) (sigVals old true)
  let q := (val40 num.1).div (maxVal [val40 den.1, .fin false 1 1 (-126)])
  let d := roundTo q 0 1 false ((val40 num.1).isNan || (val40 den.1).isNan) ((val40 num.1).isInf || (val40 den.1).isInf)
  (d.1, [(5, num.2), (5, den.2), (0, d.2)])

/-- The rows of a tile in scratchpad (R310, R316). -/
def Block.tileRows (b : Block) (fmt data pitch : Nat) : List (List Val) :=
  (List.range 64).map fun i =>
    (unpack (fmtWidth fmt) 64 (b.readSp (data + i * pitch) (8 * fmtWidth fmt))).map (valueOf fmt)

/-- Whether a byte of a tile is poisoned. -/
def Block.tilePoisoned (b : Block) (fmt data pitch : Nat) : Bool :=
  (List.range 64).any fun i => b.spPoisoned (data + i * pitch) (8 * fmtWidth fmt)

/-! ### The instructions: posts (R314 to R319) -/

/-- Puts an operation in the queue of a cluster's sequencer; its w destination holds the warp's issue. -/
def State.postSeq (s : State) (o : Who) (cl d : Nat) (k : SeqKind) : State :=
  let (id, s) := s.fresh
  let s := match k with
    | .map _ _ _ _ => s
    | _ => s.emptyDest o.blk o.warp (.w d) 1 id
  { s with seqOps := s.seqOps ++ [⟨id, cl, o.blk, o.warp, d, k⟩] }

/-- The checks of SOPEN and its post (R315). -/
def State.sopen (s : State) (o : Who) (d : Nat) (va : DWord) : State × AccRes :=
  s.post o 2 fun s =>
    let B := s.blk o.blk
    match s.xlate (clusterPlace B.clusterNo) B.ctx va 64 .load with
    | (s, .fault c) => (s, .fault c va)
    | (s, .ok _ pa) =>
      let desc := s.readPa pa 64
      if s.poisoned pa 64 then (s, .fault .poison va)
      else if badStepTable desc then (s, .fault .engine va)
      else (s.postSeq o B.clusterNo d (.open_ va desc), .done)

/-- SOPEN (R315). -/
def execSopen (f : FormDA) (s : State) : Host.Outcome State Fault Refusal :=
  issuing s fun x =>
    x.uniform {} [wop f.d, wop f.a 2] x.inService fun s o w =>
      s.sopen o f.d.toNat (pair (w f.a.toNat) (w (f.a.toNat + 1)))

/-- Whether a signature record breaks its table (R316). -/
def badSigRecord (t : OpenStep) (spSize : Nat) (d : List Byte) : Bool :=
  let n (off : Nat) : Nat := fieldAt d off 4
  let ew := fmtWidth (t.f 29 1) / 8
  t.layers ≤ n 0 || t.tilesPer ≤ n 4 || n 8 % 16 != 0 || n 12 % 16 != 0 || n 12 < 64 * ew
    || spSize < n 8 + 63 * n 12 + 64 * ew

/-- SSIG and SCOMMIT: a record and a handle. -/
def stepOp (f : FormDAB) (n : Nat) (bad : OpenStep → Nat → List Byte → Bool) (k : Nat → List Byte → SeqKind) (s : State) :
    Host.Outcome State Fault Refusal :=
  issuing s fun x =>
    x.uniform {} [wop f.d n, wop f.a, wop f.b] x.inService fun s o w =>
      let off := (w f.b.toNat).toNat
      s.withRecord o off 16 fun s d =>
        match s.stepOf o.blk (w f.a.toNat) with
        | none => (s, engineFault (w f.a.toNat).toNat)
        | some (cl, t) =>
          if bad t (s.blk o.blk).spSize d then (s, engineFault off)
          else (s.postSeq o cl f.d.toNat (k t.handle d), .done)

def execSsig (f : FormDAB) (s : State) := stepOp f 4 badSigRecord .sig s

def execScommit (f : FormDAB) (s : State) :=
  stepOp f 1 (fun t _ d => t.layers ≤ fieldAt d 0 4 || t.tilesPer ≤ fieldAt d 4 4) .commit s

/-- SCLOSE (R318). -/
def execSclose (f : FormDA) (s : State) : Host.Outcome State Fault Refusal :=
  issuing s fun x =>
    x.uniform {} [wop f.d, wop f.a] x.inService fun s o w => s.post o 2 fun s =>
      match s.stepOf o.blk (w f.a.toNat) with
      | none => (s, engineFault (w f.a.toNat).toNat)
      | some (cl, t) => (s.postSeq o cl f.d.toNat (.close t.handle), .done)

/-- SMAP (R319). -/
def execSmap (f : FormDAB) (s : State) : Host.Outcome State Fault Refusal :=
  issuing s fun x =>
    x.toV { mod := true, k := true, mz := true } f.d [wop f.a, wop f.b 2] x.inService fun s o W => s.post o 2 fun s =>
      match s.stepOf o.blk (W.reg f.a.toNat) with
      | none => (s, engineFault (W.reg f.a.toNat).toNat)
      | some (cl, t) =>
        (s.postSeq o cl f.d.toNat (.map t.handle (W.reg f.b.toNat) (W.reg (f.b.toNat + 1)) o.mask), .done)

/-! ### The sequencer at work -/

/-- SOPEN performed: its answer (R315). -/
def State.seqOpen (s : State) (o : SeqOp) (table : DWord) (desc : List Byte) : State × List Nat :=
  let B := s.blk o.blk
  let C := s.cluster o.cl
  if 8 ≤ C.steps.length then (s, [0x100])
  else if C.steps.any fun t => t.ctx == B.ctx && t.table == table then (s, [0x101])
  else
    let s := s.acquire o.blk o.warp 3
    let (s, g) := s.seqWord o.cl o.blk (table + 32)
    let h := ((List.range 8).find? fun h => (C.step? h).isNone).getD 0
    let t : OpenStep := ⟨h, o.blk, B.ctx, table, desc, BitVec.ofNat 32 g, []⟩
    let s := s.updCluster o.cl fun c => { c with steps := c.steps ++ [t] }
    (s.seqWrite o.cl h o.blk o.warp (t.regionVa g 0) (leBytes 4 g ++ List.replicate (t.regionBytes - 4) 0), [h])

/-- Bit b of the region of the open generation set or cleared (R313). -/
def State.markSkip (s : State) (o : SeqOp) (t : OpenStep) (b : Nat) (on : Bool) : State :=
  let va := t.regionVa t.gen.toNat (64 + 4 * (b / 32))
  let (s, x) := s.seqWord o.cl o.blk va
  let m : Word := 1#32 <<< (b % 32)
  let y := if on then BitVec.ofNat 32 x ||| m else BitVec.ofNat 32 x &&& ~~~m
  s.seqWrite o.cl t.handle o.blk o.warp va (leBytes 4 y.toNat)

/-- A tile record that can be read and written: its bytes (R316). -/
def State.tileRecord (s : State) (o : SeqOp) (va : DWord) : State × Option (List Byte) :=
  let ctx := (s.blk o.blk).ctx
  match s.xlateRange (clusterPlace o.cl) ctx .store (rangeFuel 544) va 544 with
  | (s, _, some _) => (s, none)
  | (s, _, none) =>
    match s.readVa (clusterPlace o.cl) ctx va 544 with
    | (s, .inl _) => (s, none)
    | (s, .inr bs) => (s, some bs)

/-- SSIG performed (R311, R316): the words of its status, of which a fault has one. A poisoned tile counts as a fault
(assumption 42). -/
def State.seqSig (s : State) (o : SeqOp) (t : OpenStep) (d : List Byte) : State × List Nat :=
  let n (off : Nat) : Nat := fieldAt d off 4
  let va := t.recordVa (n 0) (n 4)
  let fmt := t.f 29 1
  let B := s.blk o.blk
  match s.tileRecord o va with
  | (s, none) => (s, [0x200])
  | (s, some r) =>
    if B.tilePoisoned fmt (n 8) (n 12) then (s, [0x200])
    else
      let g := t.gen.toNat
      let sig := tileSig (B.tileRows fmt (n 8) (n 12))
      let fl := fieldAt r 9 1
      let out := fieldAt r 0 8
      let put (s : State) (r : List Byte) : State := s.seqWrite o.cl t.handle o.blk o.warp va (putBytes r 288 sig)
      let answer (code dd : Nat) : List Nat :=
        if code % 2 = 1 then [code, dd, out % 2 ^ 32, out / 2 ^ 32] else [code, dd, 0, 0]
      if fl.testBit 1 && fieldAt r 12 4 = g then
        (put s r, answer (0x100 + (if fl.testBit 2 then 1 else 0)) (fieldAt r 16 4))
      else
        let (dd, ev) := if fl.testBit 0 then sigDistance sig ((r.drop 32).take 256) else (infCode ⟨32, 8, 127, 23, true, true, 0⟩ false, [])
        let skip := fl.testBit 0 && (valueOf 0 dd).le (valueOf 0 (t.f 24 4)) && decide (fieldAt r 8 1 < t.f 28 1)
        let fl' := fl % 2 + 2 + (if skip then 4 else 0)
        let r := putBytes r 8 (leBytes 1 (fieldAt r 8 1 + if skip then 1 else 0) ++ leBytes 1 fl')
        let r := putBytes r 12 (leBytes 4 g ++ leBytes 4 dd)
        let s := put (s.countAll B.launch ev) r
        let s := if skip then s.markSkip o t (n 0 * t.tilesPer + n 4) true else s
        (s, answer (if skip then 1 else 0) dd)

/-- SCOMMIT performed (R317). A fault on the tile record answers 0x200 (assumption 42). -/
def State.seqCommit (s : State) (o : SeqOp) (t : OpenStep) (d : List Byte) : State × List Nat :=
  let va := t.recordVa (fieldAt d 0 4) (fieldAt d 4 4)
  match s.tileRecord o va with
  | (s, none) => (s, [0x200])
  | (s, some r) =>
    let fl := fieldAt r 9 1
    if !(fl.testBit 1 && fieldAt r 12 4 = t.gen.toNat) then (s, [0x102])
    else
      let r := putBytes r 32 ((r.drop 288).take 256)
      let r := putBytes r 0 (leBytes 8 (fieldAt d 8 8) ++ [0] ++ leBytes 1 (fl % 4 / 2 * 2 + 1))
      let s := s.seqWrite o.cl t.handle o.blk o.warp va r
      let s := if fl.testBit 2 then s.markSkip o t (fieldAt d 0 4 * t.tilesPer + fieldAt d 4 4) false else s
      (s, [0])

/-- The bits set in some words. -/
def bitCount (xs : List Nat) : Nat := (xs.map fun x => popcount (BitVec.ofNat 32 x)).sum

/-- A step of a cluster is closed for a warp of a block (R307, R318). -/
def State.closeStep (s : State) (cl b w : Nat) (t : OpenStep) : State :=
  let g := t.gen.toNat
  let B := s.blk b
  let (s, xs) := s.seqWords cl b (t.regionVa g 64) t.words
  let s := s.seqWrite cl t.handle b w (t.regionVa g 4) (leBytes 4 (bitCount xs))
  let s := s.release b w 3
  let secs := (((s.cluster cl).step? t.handle).map (·.sectors)).getD []
  let s := s.deliver (Sig.ofSectors secs) 3 B.die B.cluster none
  let s := s.seqWrite cl t.handle b w (t.regionVa g 8) (leBytes 4 1)
  let s := s.seqWrite cl t.handle b w (t.table + 32) (leBytes 4 ((g + 1) % 2 ^ 32))
  s.updCluster cl fun c => { c with steps := c.steps.filter fun x => x.handle != t.handle }

/-- The word of SMAP for a lane (R319). -/
def OpenStep.mapWord (t : OpenStep) (h first : Nat) (held closed : Bool) (cnt : Nat) (xs : List Nat) (l : Nat) : Nat :=
  if l < 28 then (if held && first + l < t.words then xs.getD l 0 else 0)
  else if l = 28 then h
  else if l = 29 then t.words
  else if l = 30 then (if held then cnt else 0)
  else if !held then 2 else if h = t.gen.toNat || !closed then 1 else 0

/-- SMAP performed: the words of the lanes from 0 on (R319). -/
def State.seqMap (s : State) (o : SeqOp) (t : OpenStep) (h first : Nat) : State × List Nat :=
  let g := t.gen.toNat
  let (s, head) := s.seqWords o.cl o.blk (t.regionVa h 0) 3
  let held := h < g + 1 && g + 1 ≤ h + t.ngen && head.getD 0 0 == h
  let (s, xs) := s.seqWords o.cl o.blk (t.regionVa h (64 + 4 * first)) 28
  (s, (List.range 32).map fun l => t.mapWord h first held (head.getD 2 0 == 1) (head.getD 1 0) xs l)

/-- The status of an operation arrives, and it leaves the queue. -/
def State.seqAnswer (s : State) (o : SeqOp) (vals : List Nat) : State :=
  let s := { s with seqOps := s.seqOps.filter fun x => x.id != o.id }
  s.status o.blk o.warp o.id o.d (vals.map (BitVec.ofNat 32))

/-- SEQUENCER_OPERATION: the operations of one table in their order (R312). -/
def execSequencerOperation (k : Nat) (s : State) : Host.Outcome State Fault Refusal :=
  opOf s.seqOps (fun o => o.id == k && s.seqFirst o) fun o =>
    let t := ((o.kind.handle?).bind fun h => (s.cluster o.cl).step? h).getD default
    match o.kind with
    | .open_ va desc => let (s, v) := s.seqOpen o va desc; .next (s.seqAnswer o v)
    | .sig _ d => let (s, v) := s.seqSig o t d; .next (s.seqAnswer o v)
    | .commit _ d => let (s, v) := s.seqCommit o t d; .next (s.seqAnswer o v)
    | .close _ => .next ((s.closeStep o.cl o.blk o.warp t).seqAnswer o [t.gen.toNat])
    | .map _ h first lanes =>
      let (s, xs) := s.seqMap o t h.toNat first.toNat
      let s := { s with seqOps := s.seqOps.filter fun x => x.id != o.id }
      .next ((lanesOf lanes).foldl (fun s l =>
        s.fill o.blk o.warp o.id (.v l o.d) [BitVec.ofNat 32 (xs.getD l 0)] false) s)

/-! ### The exit of a block (R150, R307) -/

/-- The open steps of a block are closed, on each cluster on which it has opened some, for its first warp. -/
def State.closeSteps (s : State) (b : Nat) : State :=
  let mine := s.clusters.zipIdx.flatMap fun (c, cl) => (c.steps.filter fun t => t.blk == b).map fun t => (cl, t)
  mine.foldl (fun s (cl, t) => s.closeStep cl b 0 t) s

/-- BLOCK_EXIT (R150). What closing the steps writes is among what the releases of the exit cover (R384). -/
def execBlockExit (b : Nat) (s : State) : Host.Outcome State Fault Refusal :=
  let B := s.blk b
  if !B.mayRun || B.warps.any (fun W => W.live != 0#32) || s.accessBusy b || s.enginesBusy b then .fault .notEnabled
  else
    let s := s.closeSteps b
    let s := (List.range B.warps.length).foldl (fun s w => s.release b w 3) s
    let again := s.comesAgain b
    .next ((s.removeBlock b).updLaunch B.launch fun L =>
      if again then L else { L with blocksDone := L.blocksDone + 1 })

end Sys2Proof.Machine
end

