-- ==== Sys2Proof/Machine/Maps.lean ====
section
/-! DEFINITION. The map-composition engine (R320 to R328). -/

namespace Sys2Proof.Machine

/-! ### Automata (R320, R321) -/

def MapBind.f (m : MapBind) (off n : Nat) : Nat := fieldAt m.desc off n

def MapBind.states (m : MapBind) : Nat := m.f 16 4

def MapBind.vocab (m : MapBind) : Nat := m.f 20 4

def MapBind.reject (m : MapBind) : Nat := m.f 26 2

/-- eb: bytes of a map entry. -/
def MapBind.eb (m : MapBind) : Nat := if m.f 28 1 = 0 then 1 else 2

/-- MBY: bytes of a mask. -/
def MapBind.maskBytes (m : MapBind) : Nat := ((m.vocab + 7) / 8 + 63) / 64 * 64

/-- Whether a descriptor breaks R320. -/
def badAutomaton (d : List Byte) : Bool :=
  let n (off len : Nat) : Nat := fieldAt d off len
  n 0 8 % 64 != 0 || n 8 8 % 64 != 0 || n 16 4 < 2 || 1 < n 28 1 || (if n 28 1 = 0 then 256 else 1024) < n 16 4
    || n 20 4 < 1 || 2 ^ 20 < n 20 4 || n 16 4 ≤ n 24 2 || n 16 4 ≤ n 26 2 || !zeroBytes d 29 35

/-- The binding that a number names to a block: that of the die on which the block stands, else one that it made where
it stood before a SPAWN moved it (R56, R307; assumption 42). -/
def State.bindOf (s : State) (b : Nat) (no : Word) : Option MapBind :=
  let mine := s.binds.filter fun m => m.no == no.toNat && m.blk == b
  (mine.find? fun m => m.die == (s.blk b).die).or mine.head?

def State.updBind (s : State) (die no : Nat) (f : MapBind → MapBind) : State :=
  { s with binds := s.binds.map fun m => if m.die == die && m.no == no then f m else m }

/-- Adds to a count of MAPSTAT, saturating (R328). -/
def State.countBind (s : State) (m : MapBind) (i n : Nat) : State :=
  s.updBind m.die m.no fun m =>
    { m with counts := m.counts.modify i fun c => BitVec.ofNat 32 (min (c.toNat + n) (2 ^ 32 - 1)) }

/-- An entry as the engine takes it, and whether that is counted (R321). -/
def MapBind.entry (m : MapBind) (st raw : Nat) : Nat × Bool :=
  if st = m.reject then (m.reject, false) else if m.states ≤ raw then (m.reject, true) else (raw, false)

/-- The map of a token as read: its entries, how many of them are counted under R321, whether it could not be read, and
what looking up each state alone counts. -/
structure TokenMap where
  map : List Nat
  bad : Nat
  faulted : Bool
  look : List Nat
  deriving DecidableEq, Repr

/-- The map of a token; one that cannot be read stands as all-reject. -/
def State.tokenMap (s : State) (m : MapBind) (tok : Nat) : State × TokenMap :=
  let none_ := List.replicate m.states m.reject
  if m.vocab ≤ tok then (s, ⟨none_, 1, false, List.replicate m.states 1⟩)
  else match s.readVa m.die m.ctx (BitVec.ofNat 64 (m.f 0 8 + tok * m.states * m.eb)) (m.states * m.eb) with
    | (s, .inl _) => (s, ⟨none_, 0, true, []⟩)
    | (s, .inr bs) =>
      let es := (List.range m.states).map fun i => m.entry i (fieldAt bs (m.eb * i) m.eb)
      (s, ⟨es.map (·.1), (es.filter (·.2)).length, false, es.map fun e => e.2.toNat⟩)

/-- The maps of some tokens. -/
def State.tokenMaps (s : State) (m : MapBind) : List Nat → State × List TokenMap
  | [] => (s, [])
  | t :: ts =>
    match s.tokenMap m t with
    | (s, x) => match State.tokenMaps s m ts with
      | (s, xs) => (s, x :: xs)

/-! ### Composition (R322) -/

/-- (g ∘ f)(s) = g(f(s)). -/
def composeMaps (g f : List Nat) : List Nat := f.map fun x => g.getD x 0

/-- Whether every state other than REJECT maps to one state. -/
def constantMap (reject : Nat) (f : List Nat) : Bool :=
  let others := (f.zipIdx.filter fun p => p.2 != reject).map (·.1)
  others.all fun x => x == others.headD 0

def allReject (reject : Nat) (f : List Nat) : Bool := f.all fun x => x == reject

/-- 2^(ceil(log2 n) − 1): the size of the left part of n tokens. -/
def leftSize (n : Nat) : Nat := 2 ^ Nat.log2 (n - 1)

/-- What a composition counts (R322, R328): constant and all-reject subtrees that meet maps to their left, entries and
tokens taken as REJECT, and maps that cannot be read. -/
structure MapCounts where
  consts : Nat := 0
  rejects : Nat := 0
  bad : Nat := 0
  faults : Nat := 0
  deriving DecidableEq, Repr

def MapCounts.add (a b : MapCounts) : MapCounts :=
  ⟨a.consts + b.consts, a.rejects + b.rejects, a.bad + b.bad, a.faults + b.faults⟩

/-- A composed map, what it counts whichever shortcuts the engine takes, what a shortcut may keep from being counted, and
what looking up each state alone counts of entries and tokens taken as REJECT. -/
structure Composed where
  map : List Nat
  sure : MapCounts
  loose : MapCounts
  look : List Nat
  deriving DecidableEq, Repr

/-- COMP(h, j) ∘ COMP(i, h). Where the map of COMP(i, h) is constant, COMP(h, j) may be looked up at its one state alone,
and where it is all-reject, not read at all, so that what else it counts is no longer sure; a state that has become
REJECT is looked up no further (R321, R322). -/
def Composed.after (g f : Composed) (reject : Nat) : Composed :=
  let map := composeMaps g.map f.map
  let ahead (x : Nat) : Nat := if x = reject then 0 else g.look.getD x 0
  let look := f.map.zipIdx.map fun (x, st) => f.look.getD st 0 + ahead x
  let one := ((f.map.zipIdx.find? fun p => p.2 != reject).map (·.1)).getD reject
  if allReject reject f.map then ⟨map, f.sure.add { rejects := 1 }, (f.loose.add g.sure).add g.loose, look⟩
  else if constantMap reject f.map then
    ⟨map, f.sure.add { consts := 1, faults := g.sure.faults, bad := ahead one },
      (f.loose.add { g.sure with faults := 0, bad := g.sure.bad - ahead one }).add g.loose, look⟩
  else ⟨map, f.sure.add g.sure, f.loose.add g.loose, look⟩

/-- The tree of R322 over the maps of a string. -/
def compTree (reject : Nat) : Nat → List TokenMap → Composed
  | 0, _ => ⟨[], {}, {}, []⟩
  | fuel + 1, ms =>
    match ms with
    | [] => ⟨[], {}, {}, []⟩
    | [x] => ⟨x.map, { bad := x.bad, faults := x.faulted.toNat }, {}, x.look⟩
    | _ =>
      let h := leftSize ms.length
      (compTree reject fuel (ms.drop h)).after (compTree reject fuel (ms.take h)) reject

/-! ### The instructions (R323 to R328) -/

/-- The lowest binding of a die that is free. -/
def State.freeBind (s : State) (die : Nat) : Option Nat :=
  (List.range 64).find? fun i => !(s.binds.any fun m => m.die == die && m.no == i)

/-- MAPBIND (R324). -/
def execMapbind (f : FormDA) (s : State) : Host.Outcome State Fault Refusal :=
  issuing s fun x =>
    x.uniform {} [wop f.d, wop f.a 2] x.inService fun s o w => s.post o 2 fun s =>
      let va := pair (w f.a.toNat) (w (f.a.toNat + 1))
      let B := s.blk o.blk
      match s.xlate B.die B.ctx va 64 .load with
      | (s, .fault c) => (s, .fault c va)
      | (s, .ok _ pa) =>
        if s.poisoned pa 64 then (s, .fault .poison va)
        else
          let s := s.acquire o.blk o.warp 3
          let d := s.readPa pa 64
          if badAutomaton d then (s.setW o f.d [0x10001], .done)
          else match s.freeBind B.die with
            | none => (s.setW o f.d [0x10000], .done)
            | some i =>
              let m : MapBind := ⟨B.die, i, o.blk, B.ctx, d, List.replicate 6 0⟩
              let s := { s with binds := s.binds ++ [m] }
              (s.setW o f.d [BitVec.ofNat 32 i], .done)

/-- Puts an operation in the engine's queue. -/
def State.postMap (s : State) (o : Who) (d : Nat) (m : MapBind) (k : MapKind) : State :=
  let (id, s) := s.fresh
  let s := match k with
    | .apply _ _ _ => s
    | _ => s.emptyDest o.blk o.warp (.w d) 1 id
  { s with mapOps := s.mapOps ++ [⟨id, m.no, m.die, o.blk, o.warp, d, k⟩] }

/-- MAPCOMP and MAPMASK: a binding and a record of 32 bytes. -/
def mapOp (f : FormDAB) (bad : MapBind → List Byte → Bool) (k : List Byte → MapKind) (s : State) :
    Host.Outcome State Fault Refusal :=
  issuing s fun x =>
    x.uniform {} [wop f.d, wop f.a, wop f.b] x.inService fun s o w =>
      let off := (w f.b.toNat).toNat
      s.withRecord o off 32 fun s d =>
        match s.bindOf o.blk (w f.a.toNat) with
        | none => (s, engineFault (w f.a.toNat).toNat)
        | some m => if bad m d then (s, engineFault off) else (s.postMap o f.d.toNat m (k d), .done)

/-- Whether a composition record breaks its table (R325): FROM counts with RES 0 and OUT with RES 1. -/
def badComp (m : MapBind) (d : List Byte) : Bool :=
  let n (off len : Nat) : Nat := fieldAt d off len
  n 0 8 % 4 != 0 || n 8 4 < 1 || 65536 < n 8 4 || 1 < n 14 1 || n 15 1 != 0 || !zeroBytes d 24 8
    || (n 14 1 == 0 && m.states ≤ n 12 2) || (n 14 1 == 1 && n 16 8 % 64 != 0)

/-- Whether a mask record breaks its table (R327). -/
def badMask (m : MapBind) (d : List Byte) : Bool :=
  let n (off len : Nat) : Nat := fieldAt d off len
  m.states ≤ n 0 2 || 1 < n 2 1 || n 8 8 % 64 != 0 || !zeroBytes d 24 8
    || (n 2 1 == 1 && (!([0, 2, 3].contains (n 3 1)) || n 16 8 % (fmtWidth (n 3 1) / 8) != 0))

def execMapcomp (f : FormDAB) (s : State) := mapOp f badComp .comp s

def execMapmask (f : FormDAB) (s : State) := mapOp f badMask .mask s

/-- What MAPAPPLY reads for a lane: the next state, whether R321 counts it, and its poison; or a fault of R72 (R326). -/
def State.mapStep (s : State) (m : MapBind) (v : Word) : State × Sum (Cause × DWord) (Nat × Bool × Bool) :=
  let tok := v.toNat % 2 ^ 20
  let st := v.toNat / 2 ^ 20
  if m.states ≤ st || m.vocab ≤ tok then (s, .inr (m.reject, true, false))
  else if st = m.reject then (s, .inr (m.reject, false, false))
  else
    let va : DWord := BitVec.ofNat 64 (m.f 0 8 + (tok * m.states + st) * m.eb)
    match s.xlate m.die m.ctx va m.eb .load with
    | (s, .fault c) => (s, .inl (c, va))
    | (s, .ok _ pa) =>
      let (y, bad) := m.entry st (leNat (s.readPa pa m.eb))
      (s, .inr (y, bad, s.poisoned pa m.eb))

/-- The lanes of MAPAPPLY in turn: each result is on its way, its register empty; a fault of the map read leaves its
lane unperformed (R326). -/
def State.mapLanes (s : State) (b w : Nat) (m : MapBind) (a d : Nat) (lanes : List Nat) :
    State × List (Nat × Nat × AccRes) :=
  lanes.foldl (fun (s, rs) l =>
    let v := (s.lane b w l).reg a
    let s := s.updLane b w l fun y => y.markEmpty d 1
    match s.mapStep m v with
    | (s, .inl (c, va)) => (s, rs ++ [(w, l, AccRes.fault c va)])
    | (s, .inr (y, bad, p)) =>
      let s := if bad then s.countBind m 2 1 else s
      let s := s.postMap ⟨b, w, l, 1#32 <<< l, false⟩ d m (.apply l (BitVec.ofNat 32 y) p)
      (s, rs ++ [(w, l, .done)])) (s, [])

/-- MAPAPPLY (R326). A lane whose map read faults stands at the instruction again and replays its own part, its
destination still empty (R411). -/
def execMapapply (f : FormDAB) (s : State) : Host.Outcome State Fault Refusal :=
  issuing s fun x =>
    let b := x.is.blk
    let w := x.is.warp
    let a := f.a.toNat
    let d := f.d.toNat
    let acc : Acc := { mod := true, k := true, mz := true }
    if !x.legal acc [⟨.v, d, 1, false⟩, ⟨.v, a, 1, false⟩, wop f.b] x.inService then x.illegalAt 1
    else if (x.w.lane (lowest x.is.lanes)).replay then
      match x.s.bindOf b (x.w.reg f.b.toNat) with
      | none => x.trap .engine x.is.lanes ((x.w.reg f.b.toNat).setWidth 64)
      | some m =>
        let r (l : Nat) : Ready := readiness (x.w.lane l).view [⟨a, 1, false, .own⟩] []
        let stuck := (lanesOf x.is.lanes).filterMap fun l =>
          match r l with
          | .go => none
          | .wait => some (w, l, AccRes.wait)
          | .fault c => some (w, l, AccRes.fault c 0)
        let (s, rs) := x.s.mapLanes b w m a d ((lanesOf x.is.lanes).filter fun l => r l == .go)
        x.lanesDone s (stuck ++ rs)
    else x.wide (.warp w) x.pf.modOf.k.toNat fun s y =>
      let n := x.neededHere s y
      let W := s.warp b w
      match x.warpBlocked s y n (fun l => s.orderedReady b w l (readiness (W.lane l).view [⟨a, 1, false, .own⟩] [d]))
          (x.pf.modOf.mz && W.othersPend n [d]) with
      | some s => s
      | none =>
        let s1 := s.releaseLanes b w n 2
        match s1.bindOf b (W.reg f.b.toNat) with
        | none => s.wideTrap b w y .engine n ((W.reg f.b.toNat).setWidth 64) x.runLen
        | some m =>
          let (s2, rs) := s1.mapLanes b w m a d (lanesOf n)
          let s2 := s2.finish b y
          let s2 := if x.pf.modOf.mz then s2.updWarp b w fun W => W.zeroOthers n [d] else s2
          let s2 := rs.foldl (fun s (_, l, r) =>
            match r with
            | .fault _ _ => s.updLane b w l fun L => L.toReplay y.addr
            | _ => s) s2
          match lowestFault (faultsOf rs w) with
          | none => s2
          | some (c, m, va) => s2.trap b (mkTrap w c m n va x.runLen)

/-- The record of MAPSTAT (R328). -/
def MapBind.statusRecord (m : MapBind) : List Word :=
  [m.states, m.vocab, m.f 28 1, m.reject].map (BitVec.ofNat 32) ++ m.counts

/-- MAPSTAT (R306, R328): a status read, whose words fill their registers as they arrive (R97). -/
def execMapstat (f : FormDA) (s : State) : Host.Outcome State Fault Refusal :=
  issuing s fun x =>
    x.toV { mod := true, k := true, mz := true } f.d [wop f.a] x.inService fun s o W => s.post o 2 fun s =>
      match s.bindOf o.blk (W.reg f.a.toNat) with
      | none => (s, engineFault (W.reg f.a.toNat).toNat)
      | some m => (s.sendStatus o f.d.toNat m.statusRecord, .done)

/-! ### The engine at work -/

/-- The binding of an operation. -/
def State.bindAt (s : State) (o : MapOp) : MapBind :=
  (s.binds.find? fun m => m.die == o.die && m.no == o.bind).getD default

/-- An operation leaves the engine with its status. -/
def State.mapAnswer (s : State) (o : MapOp) (v : Nat) : State :=
  let s := { s with mapOps := s.mapOps.filter fun x => x.id != o.id }
  s.status o.blk o.warp o.id o.d [BitVec.ofNat 32 v]

/-- Writes runs in units of some bytes, of which each may keep its old value; the sectors of those written join the
warp's write set (R325, R327, R388). -/
def State.maybeRuns (s : State) (b w unit : Nat) : List (DWord × Nat × Nat × DWord) → List Byte → State
  | [], _ => s
  | (va, pa, n, e) :: rs, bs =>
    let one (s : State) (i : Nat) : State :=
      let (go, s) := s.race
      if go then
        (s.engineRuns b [(va, pa + unit * i, unit, e)] ((bs.drop (unit * i)).take unit)).updWarp b w fun W =>
          W.wroteSectors (sectorsOf (pa + unit * i) unit)
      else s
    State.maybeRuns ((List.range (n / unit)).foldl one s) b w unit rs (bs.drop n)

/-- The engine writes a range in units for an operation: its sectors, or none after a fault. -/
def State.mapWrite (s : State) (o : MapOp) (unit : Nat) (va : DWord) (bs : List Byte) : State × Option (List Nat) :=
  match s.xlateRange o.die (s.blk o.blk).ctx .store (rangeFuel bs.length) va bs.length with
  | (s, rs, some _) => (s.maybeRuns o.blk o.warp unit rs bs, none)
  | (s, rs, none) => (s.engineRuns o.blk rs bs, some (rs.flatMap fun (_, pa, n, _) => sectorsOf pa n))

/-- A count whose sure part may be joined by any number of the loose one; of something that surely occurs, at least one
is counted (R328; assumption 75). -/
def State.countFree (s : State) (m : MapBind) (i sure loose : Nat) : State :=
  let (k, s) := s.pick (sure - 1 + loose + 1)
  s.countBind m i (min sure 1 + k)

/-- A composition that has read its maps: its result, and what MAPSTAT counts of it (R325, R328). -/
def State.mapResult (s : State) (o : MapOp) (m : MapBind) (d : List Byte) (len : Nat) (c : Composed) : State :=
  let counted (s : State) : State :=
    let s := s.countFree m 0 c.sure.consts c.loose.consts
    let s := s.countFree m 1 c.sure.rejects c.loose.rejects
    let (more, s) := s.pick (c.loose.bad + 1)
    ((s.countBind m 2 (c.sure.bad + more)).countBind m 3 1).countBind m 4 len
  if fieldAt d 14 1 = 0 then (counted s).mapAnswer o (c.map.getD (fieldAt d 12 2) 0)
  else match s.mapWrite o m.eb (BitVec.ofNat 64 (fieldAt d 16 8)) (c.map.flatMap fun x => leBytes m.eb x) with
    | (s, none) => s.mapAnswer o 0x10003
    | (s, some secs) => ((counted s).engineRelease o.blk o.warp secs 2).mapAnswer o 0

/-- MAPCOMP_COMPLETE (R325). A map that cannot be read and that an all-reject shortcut may leave unread may go unseen
(R322). -/
def execMapcompComplete (k : Nat) (s : State) : Host.Outcome State Fault Refusal :=
  opOf s.mapOps (fun o => o.id == k) fun o =>
    match o.kind with
    | .comp d =>
      let m := s.bindAt o
      let len := fieldAt d 8 4
      match s.readVa m.die m.ctx (BitVec.ofNat 64 (fieldAt d 0 8)) (4 * len) with
      | (s, .inl _) => .next (s.mapAnswer o 0x10003)
      | (s, .inr bs) =>
        match s.tokenMaps m ((List.range len).map fun i => fieldAt bs (4 * i) 4) with
        | (s, fs) =>
          let c := compTree m.reject 18 fs
          let (seen, s) := if c.loose.faults = 0 then (false, s) else s.race
          .next (if c.sure.faults != 0 || seen then s.mapAnswer o 0x10003 else s.mapResult o m d len c)
    | _ => .fault .notEnabled

/-- MAPAPPLY_FILL (R326). -/
def execMapapplyFill (k : Nat) (s : State) : Host.Outcome State Fault Refusal :=
  opOf s.mapOps (fun o => o.id == k) fun o =>
    match o.kind with
    | .apply l v p =>
      let s := { s with mapOps := s.mapOps.filter fun x => x.id != o.id }
      .next (s.fill o.blk o.warp o.id (.v l o.d) [v] p)
    | _ => .fault .notEnabled

/-- The mask of a state as bits, zero above VOCAB, in whole words (R321, R327). -/
def State.maskOfState (s : State) (m : MapBind) (st : Nat) : State × Option (List Byte) :=
  let n := (m.vocab + 31) / 32 * 4
  if st = m.reject then (s, some (List.replicate n 0))
  else match s.readVa m.die m.ctx (BitVec.ofNat 64 (m.f 8 8 + st * m.maskBytes)) ((m.vocab + 7) / 8) with
    | (s, .inl _) => (s, none)
    | (s, .inr bs) => (s, some (leBytes n (leNat bs % 2 ^ m.vocab)))

/-- The logits of some tokens as physical runs, and whether one of them cannot be written. -/
def State.logitRuns (s : State) (o : MapOp) (va : DWord) (w : Nat) :
    List Nat → State × List (DWord × Nat × Nat × DWord) × Bool
  | [] => (s, [], false)
  | x :: xs =>
    match s.xlateRange o.die (s.blk o.blk).ctx .store (rangeFuel w) (va + BitVec.ofNat 64 (w * x)) w with
    | (s, rs, f) => match State.logitRuns s o va w xs with
      | (s, rest, bad) => (s, rs ++ rest, bad || f.isSome)

/-- Writes −INF over the logits of the tokens that a mask forbids (R327). -/
def State.maskLogits (s : State) (o : MapOp) (va : DWord) (fmt vocab mask : Nat) : State × Option (List Nat) :=
  let w := fmtWidth fmt / 8
  let inf := match fmtOf fmt with
    | .float p => infCode p true
    | _ => 0
  match s.logitRuns o va w ((List.range vocab).filter fun x => !mask.testBit x) with
  | (s, rs, bad) =>
    let bs := rs.flatMap fun _ => leBytes w inf
    if bad then (s.maybeRuns o.blk o.warp w rs bs, none)
    else (s.engineRuns o.blk rs bs, some ((rs.flatMap fun (_, pa, n, _) => sectorsOf pa n).foldl addSector []))

/-- The DONE of a MAPMASK is sent with its release, and the operation completes; while it would fire a counter into a
full buffer it waits (R49, R52, R327). -/
def State.maskDone (s : State) (o : MapOp) (m : MapBind) (ctr : Word) : State :=
  let op : CtrOp := { ctx := m.ctx, index := ctr, kind := .done false, blk := o.blk, warp := o.warp }
  match s.sendCounter op with
  | (s, .done) => (s.countBind m 5 1).mapAnswer o 0
  | _ => { s with mapOps := s.mapOps.map fun x => if x.id == o.id then { x with kind := .last ctr } else x }

/-- MAPMASK after its bits: the header, VALID last, the counter (R327). -/
def State.maskHeader (s : State) (o : MapOp) (m : MapBind) (d : List Byte) (mask : Nat) (secs : List Nat) : State :=
  let dst : DWord := BitVec.ofNat 64 (fieldAt d 8 8)
  let legal := ((List.range m.vocab).filter mask.testBit).length
  let s := s.engineRelease o.blk o.warp secs 3
  match s.mapWrite o 4 (dst + 4) (leBytes 4 (fieldAt d 0 2) ++ leBytes 4 m.vocab ++ leBytes 4 legal ++ leBytes 48 0) with
  | (s, none) => s.mapAnswer o 0x10003
  | (s, some l) =>
    let s := s.engineRelease o.blk o.warp l 3
    match s.mapWrite o 4 dst (leBytes 4 (1 + fieldAt d 2 1)) with
    | (s, none) => s.mapAnswer o 0x10003
    | (s, some l) =>
      let s := s.engineRelease o.blk o.warp l 3
      let ctr : Word := BitVec.ofNat 32 (fieldAt d 4 4)
      if ctr == BitVec.allOnes 32 then (s.countBind m 5 1).mapAnswer o 0 else s.maskDone o m ctr

/-- MAPMASK_COMPLETE (R327). -/
def execMapmaskComplete (k : Nat) (s : State) : Host.Outcome State Fault Refusal :=
  opOf s.mapOps (fun o => o.id == k) fun o =>
    match o.kind with
    | .mask d =>
      let m := s.bindAt o
      match s.maskOfState m (fieldAt d 0 2) with
      | (s, none) => .next (s.mapAnswer o 0x10003)
      | (s, some bs) =>
        let out : State × Option (List Nat) :=
          if fieldAt d 2 1 = 0 then s.mapWrite o 4 (BitVec.ofNat 64 (fieldAt d 8 8) + 64) bs
          else s.maskLogits o (BitVec.ofNat 64 (fieldAt d 16 8)) (fieldAt d 3 1) m.vocab (leNat bs)
        match out with
        | (s, none) => .next (s.mapAnswer o 0x10003)
        | (s, some secs) => .next (s.maskHeader o m d (leNat bs) secs)
    | .last ctr =>
      let t := s.maskDone o (s.bindAt o) ctr
      if t.mapOps.any fun x => x.id == o.id then .fault .notEnabled else .next t
    | _ => .fault .notEnabled

end Sys2Proof.Machine
end

