-- ==== Sys2Proof/Machine/Topk.lean ====
section
/-! DEFINITION. The sampling unit (R329 to R333). -/

namespace Sys2Proof.Machine

/-! ### Posts (R329, R331, R332) -/

/-- Whether a list of k entries at DST leaves the scratchpad or is misaligned. -/
def badDst (spSize dst k : Nat) : Bool := dst % 8 != 0 || spSize < dst + 8 * k

/-- Whether a select record breaks its table (R331). -/
def badSelect (spSize : Nat) (d : List Byte) : Bool :=
  let n (off len : Nat) : Nat := fieldAt d off len
  !([0, 2, 3].contains (n 17 1)) || n 0 8 % (max 1 (fmtWidth (n 17 1) / 8)) != 0 || n 12 4 < 1 || 2 ^ 20 < n 12 4
    || n 16 1 < 1 || 64 < n 16 1 || n 18 2 != 0 || badDst spSize (n 20 4) (n 16 1) || n 24 8 % 64 != 0

/-- Whether a merge record breaks its table (R332). -/
def badMerge (spSize : Nat) (d : List Byte) : Bool :=
  let n (off len : Nat) : Nat := fieldAt d off len
  n 0 8 % 8 != 0 || n 8 4 < 1 || 256 < n 8 4 || n 12 1 < 1 || 64 < n 12 1 || n 13 1 < 1 || 64 < n 13 1
    || n 14 2 != 0 || badDst spSize (n 16 4) (n 13 1) || !zeroBytes d 20 12

/-- TKSEL and TKMRG: the record and the post with its ticket. -/
def topkOp (f : FormDA) (merge : Bool) (bad : Nat → List Byte → Bool) (s : State) : Host.Outcome State Fault Refusal :=
  issuing s fun x =>
    x.uniform {} [wop f.d, wop f.a] true fun s o w =>
      let off := (w f.a.toNat).toNat
      s.withRecord o off 32 fun s d =>
        let B := s.blk o.blk
        if bad B.spSize d then (s, engineFault off)
        else if 16 ≤ (s.topkOps.filter fun t => t.blk == o.blk).length then (s, .stall .posts)
        else
          let (id, s) := s.fresh
          let op : TopkOp := ⟨id, B.die, o.blk, o.warp, B.topkTickets, merge, d⟩
          let s := { s with topkOps := s.topkOps ++ [op] }
          let s := s.updBlk o.blk fun B => { B with topkTickets := B.topkTickets + 1 }
          (s.setW o f.d [B.topkTickets], .done)

def execTksel (f : FormDA) (s : State) := topkOp f false badSelect s

def execTkmrg (f : FormDA) (s : State) := topkOp f true badMerge s

/-! ### The order of candidates (R330) -/

/-- A candidate as the unit ranks and writes it: −INF for a NaN, +0 for −0; and whether it is counted. -/
def candidate (v : Val) : Nat × Bool :=
  if v.isNan then (0xFF800000, true)
  else if v.isZero then (0, false)
  else ((code32 v).toNat, false)

/-- Whether one entry, a code and an index, precedes another. -/
def precedes (a b : Nat × Nat) : Bool :=
  let x := valueOf 0 a.1
  let y := valueOf 0 b.1
  y.lt x || (x.cmp y == some .eq && a.2 < b.2)

/-- Puts an entry in its place in a list of at most k. -/
def rankInsert (k : Nat) (l : List (Nat × Nat)) (e : Nat × Nat) : List (Nat × Nat) :=
  (l.takeWhile (fun x => !precedes e x) ++ e :: l.dropWhile fun x => !precedes e x).take k

/-- The first k of some entries, completed (R330). -/
def topEntries (k : Nat) (es : List (Nat × Nat)) : List (Nat × Nat) :=
  let l := es.foldl (rankInsert k) []
  l ++ List.replicate (k - l.length) (0xFF800000, 0xFFFFFFFF)

/-- The bytes of a list. -/
def entryBytes (es : List (Nat × Nat)) : List Byte := es.flatMap fun e => leBytes 4 e.1 ++ leBytes 4 e.2

/-! ### The unit at work -/

/-- An operation ends with a status and a count of NaN logits, and a list where it has one. -/
def State.topkEnd (s : State) (o : TopkOp) (status nans : Nat) (out : Option (Nat × List (Nat × Nat))) : State :=
  let s := { s with topkOps := s.topkOps.filter fun x => x.id != o.id }.consumed (s.blk o.blk).ctx o.blk .posts
  let s := match out with
    | some (dst, es) => s.engineSp o.blk dst (entryBytes es)
    | none => s
  let word : Word := BitVec.ofNat 32 (status + 256 * min nans (2 ^ 24 - 1))
  s.updBlk o.blk fun B => { B with
    topkDone := B.topkDone + 1, topkHist := ((o.ticket, word) :: B.topkHist).take 16 }

/-- The mask of a select: VALID, and the bits as far as the elements need them from the word of BASEIDX on; none after
a fault (R331). -/
def State.selectMask (s : State) (o : TopkOp) (mask : DWord) (base count : Nat) : State × Option (Nat × Nat) :=
  let B := s.blk o.blk
  if mask = 0 then (s, some (2, 0))
  else match s.readVa B.die B.ctx mask 4 with
    | (s, .inl _) => (s, none)
    | (s, .inr v) =>
      let s := s.acquire o.blk o.warp 3
      if leNat v != 1 then (s, some (leNat v, 0))
      else match s.readVa B.die B.ctx (mask + BitVec.ofNat 64 (64 + 4 * (base / 32)))
          (4 * ((base + count - 1) / 32 - base / 32 + 1)) with
        | (s, .inl _) => (s, none)
        | (s, .inr bs) => (s, some (1, leNat bs))

/-- TKSEL performed (R331). A VALID above 2 counts as a fault (assumption 43). -/
def State.select (s : State) (o : TopkOp) : State :=
  let n (off len : Nat) : Nat := fieldAt o.rcd off len
  let B := s.blk o.blk
  let base := n 8 4
  let count := n 12 4
  let w := fmtWidth (n 17 1) / 8
  match s.selectMask o (BitVec.ofNat 64 (n 24 8)) base count with
  | (s, none) => s.topkEnd o 2 0 none
  | (s, some (valid, bits)) =>
    if valid = 0 then s.topkEnd o 1 0 none
    else if 2 < valid then s.topkEnd o 2 0 none
    else match s.readVa B.die B.ctx (BitVec.ofNat 64 (n 0 8)) (w * count) with
      | (s, .inl _) => s.topkEnd o 2 0 none
      | (s, .inr bs) =>
        let allowed (e : Nat) : Bool := valid == 2 || bits.testBit (base % 32 + e)
        let es := ((List.range count).filter allowed).map fun e =>
          (candidate (valueOf (n 17 1) (fieldAt bs (w * e) w)), (base + e) % 2 ^ 32)
        s.topkEnd o 0 (es.filter fun e => e.1.2).length
          (some (n 20 4, topEntries (n 16 1) (es.map fun e => (e.1.1, e.2))))

/-- TKMRG performed (R332). -/
def State.merge (s : State) (o : TopkOp) : State :=
  let n (off len : Nat) : Nat := fieldAt o.rcd off len
  let s := s.acquire o.blk o.warp 3
  let B := s.blk o.blk
  let total := n 8 4 * n 12 1
  match s.readVa B.die B.ctx (BitVec.ofNat 64 (n 0 8)) (8 * total) with
  | (s, .inl _) => s.topkEnd o 2 0 none
  | (s, .inr bs) =>
    let es := (List.range total).map fun i => (candidate (valueOf 0 (fieldAt bs (8 * i) 4)), fieldAt bs (8 * i + 4) 4)
    s.topkEnd o 0 (es.filter fun e => e.1.2).length
      (some (n 16 4, topEntries (n 13 1) (es.map fun e => (e.1.1, e.2))))

/-- TOPK_COMPLETE: the operations of a block in posting order (R329). -/
def execTopkComplete (k : Nat) (s : State) : Host.Outcome State Fault Refusal :=
  opOf s.topkOps (fun o => o.id == k && ((s.topkOps.find? fun x => x.blk == o.blk).any fun x => x.id == k)) fun o =>
    .next (if o.merge then s.merge o else s.select o)

/-- What TKWAIT returns for a ticket that has completed (R333). -/
def Block.topkStatus (b : Block) (t : Word) : Word := ((b.topkHist.find? fun p => p.1 == t).map (·.2)).getD 3

/-- TKWAIT (R306, R333). A ticket that the block has not been given raises ENGINE (R307). -/
def execTkwait (f : FormDA) (s : State) : Host.Outcome State Fault Refusal :=
  issuing s fun x =>
    x.uniform {} [wop f.d, wop f.a] true fun s o w => s.post o 2 fun s =>
      let t := w f.a.toNat
      let B := s.blk o.blk
      if !passed B.topkTickets t then (s, engineFault t.toNat)
      else if passed B.topkDone t then ((s.acquire o.blk o.warp 0).setW o f.d [B.topkStatus t], .done)
      else (s.updWarp o.blk o.warp fun W => { W with wait := some (.topk t f.d.toNat) }, .done)

/-- TKWAIT_RELEASE (R333). -/
def execTkwaitRelease (b w : Nat) (s : State) : Host.Outcome State Fault Refusal :=
  s.release? b w fun q =>
    match q with
    | .topk t d =>
      let B := s.blk b
      if passed B.topkDone t then some ((s.acquire b w 0).updWarp b w fun W => W.setReg d (B.topkStatus t)) else none
    | _ => none

end Sys2Proof.Machine
end

