-- ==== Sys2Proof/Machine/Dce.lean ====
section
/-! DEFINITION. The decompression engines (R335 to R345) and the launch transforms of the prologue engine
(R346 to R349). -/

namespace Sys2Proof.Machine

/-! ### Bytes that an engine reads (R338, R341) -/

/-- The completion code of a fault (R338). -/
def dceCode (c : Cause) : Nat := match c with
  | .xlate => 6
  | .poison => 8
  | _ => 7

/-- A byte of memory that a unit reads, which held what `old` says when its work began: its old or its new value (R341,
R349; assumption 6). -/
def State.oldOrNew (s : State) (old : List Host.Cell) (pa : Nat) : Byte :=
  if Config.freeByte s.tick pa then Memory.read s.mem pa else Memory.read old pa

/-- What a unit holds of memory while other parties write it: any bytes brought up to the values of now, the others as
they were, so that each byte read later holds its value before or after any write since (R341, R349, R354). -/
def State.reread (s : State) (old : List Host.Cell) : List Host.Cell :=
  (s.mem ++ old).foldl (fun m c => if Config.freeByte s.tick c.1 then Memory.write m c.1 (Memory.read s.mem c.1) else m) old

/-- The free values of one step of an engine have been taken. -/
def State.ticked (s : State) : State := { s with tick := s.tick + 1 }

/-- One byte at a virtual address as an engine of a die reads it, or the code and the address of the fault. -/
def State.byteAt (s : State) (old : List Host.Cell) (die ctx : Nat) (va : DWord) : Sum (Nat × DWord) Byte :=
  match (s.xlate die ctx va 1 .load).2 with
  | .fault c => .inl (dceCode c, va)
  | .ok _ pa => if s.poisoned pa 1 then .inl (8, va) else .inr (s.oldOrNew old pa)

/-- Bytes in a row, up to the first fault. -/
def State.bytesAt (s : State) (old : List Host.Cell) (die ctx : Nat) (va : DWord) :
    Nat → Nat → Sum (Nat × DWord) (List Byte)
  | 0, _ => .inr []
  | n + 1, i =>
    match s.byteAt old die ctx (va + BitVec.ofNat 64 i) with
    | .inl e => .inl e
    | .inr b => match State.bytesAt s old die ctx va n (i + 1) with
      | .inl e => .inl e
      | .inr bs => .inr (b :: bs)

/-! ### The LZ4 block (R335) -/

/-- What bounds a decoder's output: the room left under DSTCAP, and CHUNKOUT where there is one (R336). -/
structure Room where
  cap : Nat
  chunk : Option Nat

/-- A decoder at work: its place in the input and its output, the last byte first, with its length. -/
structure Lz where
  pos : Nat
  out : List Byte
  len : Nat

/-- One more byte of output, or the code of R336. -/
def Lz.push (z : Lz) (r : Room) (b : Byte) : Sum (Nat × DWord) Lz :=
  if r.cap ≤ z.len then .inl (5, 0)
  else if (r.chunk.map fun n => decide (n ≤ z.len)).getD false then .inl (9, 0)
  else .inr { z with out := b :: z.out, len := z.len + 1 }

/-- The next byte of an input of so many bytes; its end is TRUNCATED. -/
def Lz.next (feed : Nat → Sum (Nat × DWord) Byte) (n : Nat) (z : Lz) : Sum (Nat × DWord) (Byte × Lz) :=
  if n ≤ z.pos then .inl (3, 0)
  else match feed z.pos with
    | .inl e => .inl e
    | .inr b => .inr (b, { z with pos := z.pos + 1 })

/-- The extension bytes of a length. -/
def Lz.extend (feed : Nat → Sum (Nat × DWord) Byte) (n : Nat) : Nat → Nat → Lz → Sum (Nat × DWord) (Nat × Lz)
  | 0, _, _ => .inl (3, 0)
  | fuel + 1, acc, z =>
    match z.next feed n with
    | .inl e => .inl e
    | .inr (b, z) =>
      if b.toNat = 255 then Lz.extend feed n fuel (acc + 255) z else .inr (acc + b.toNat, z)

/-- A length of a token's field: 15 is followed by extension bytes. -/
def Lz.length (feed : Nat → Sum (Nat × DWord) Byte) (n field : Nat) (z : Lz) : Sum (Nat × DWord) (Nat × Lz) :=
  if field = 15 then Lz.extend feed n n 15 z else .inr (field, z)

/-- Literals copied to the output. -/
def Lz.literals (feed : Nat → Sum (Nat × DWord) Byte) (n : Nat) (r : Room) : Nat → Lz → Sum (Nat × DWord) Lz
  | 0, z => .inr z
  | k + 1, z =>
    match z.next feed n with
    | .inl e => .inl e
    | .inr (b, z) => match z.push r b with
      | .inl e => .inl e
      | .inr z => Lz.literals feed n r k z

/-- HIST of the byte at an offset behind the next one: output, or the dictionary. -/
def Lz.hist (dict : Nat → Sum (Nat × DWord) Byte) (dictLen off : Nat) (z : Lz) : Sum (Nat × DWord) Byte :=
  if off = 0 then .inl (4, 0)
  else if off ≤ z.len then .inr (z.out.getD (off - 1) 0)
  else if off - z.len ≤ dictLen then dict (dictLen - (off - z.len))
  else .inl (4, 0)

/-- A match, byte by byte. -/
def Lz.copy (dict : Nat → Sum (Nat × DWord) Byte) (dictLen off : Nat) (r : Room) : Nat → Lz → Sum (Nat × DWord) Lz
  | 0, z => .inr z
  | k + 1, z =>
    match z.hist dict dictLen off with
    | .inl e => .inl e
    | .inr b => match z.push r b with
      | .inl e => .inl e
      | .inr z => Lz.copy dict dictLen off r k z

/-- A sequence: the decoder after it, and whether the block ends there. -/
def Lz.sequence (feed dict : Nat → Sum (Nat × DWord) Byte) (n dictLen : Nat) (r : Room) (z : Lz) :
    Sum (Nat × DWord) (Bool × Lz) := do
  let (token, z) ← z.next feed n
  let (lit, z) ← z.length feed n (token.toNat / 16)
  let z ← z.literals feed n r lit
  if z.pos = n then pure (true, z)
  else
    let (lo, z) ← z.next feed n
    let (hi, z) ← z.next feed n
    let off := lo.toNat + 256 * hi.toNat
    if off = 0 then .inl (4, 0)
    else
      let (m, z) ← z.length feed n (token.toNat % 16)
      let z ← z.copy dict dictLen off r (m + 4)
      pure (false, z)

/-- The sequences of a block. -/
def Lz.run (feed dict : Nat → Sum (Nat × DWord) Byte) (n dictLen : Nat) (r : Room) :
    Nat → Lz → Sum (Nat × DWord) (List Byte)
  | 0, _ => .inl (3, 0)
  | fuel + 1, z =>
    match z.sequence feed dict n dictLen r with
    | .inl e => .inl e
    | .inr (true, z) => .inr z.out.reverse
    | .inr (false, z) => Lz.run feed dict n dictLen r fuel z

/-- The block of `n` input bytes decoded, or its code and the address of a fault (R335, R336). -/
def lz4 (feed dict : Nat → Sum (Nat × DWord) Byte) (n dictLen : Nat) (r : Room) : Sum (Nat × DWord) (List Byte) :=
  Lz.run feed dict n dictLen r (n + 1) ⟨0, [], 0⟩

/-! ### Jobs (R336 to R340) -/

/-- What an engine is to decode: a job card, or a decompress binding, whose SRCLEN its own header names
(R337, R347). -/
structure DceReq where
  chunked : Bool
  src : DWord
  srcLen : Option Nat
  dst : Nat
  dstSp : Bool
  cap : Nat
  dict : DWord
  dictLen : Nat
  deriving DecidableEq, Repr, Inhabited

/-- The request of a card (R337). -/
def cardReq (d : List Byte) : DceReq :=
  let n (off len : Nat) : Nat := fieldAt d off len
  ⟨n 0 1 == 1, BitVec.ofNat 64 (n 8 8), some (n 4 4), n 16 8, n 1 1 % 2 == 1, n 24 4, BitVec.ofNat 64 (n 32 8), n 40 4⟩

/-- Whether offsets rise strictly. -/
def rising : List Nat → Bool
  | a :: b :: t => a < b && rising (b :: t)
  | _ => true

/-- The offsets of a container whose header has been read, or BAD_HEADER (R336). -/
def goodOffsets (nch : Nat) (srcLen : Option Nat) (offs : List Nat) : Bool :=
  rising offs && 20 + 4 * nch ≤ offs.headD 0 && (srcLen.map fun n => decide (offs.getLastD 0 ≤ n)).getD true

/-- The chunks of a request, each with its first input byte and its end, and CHUNKOUT; or the failure of the
header (R336). -/
def State.dceChunks (s : State) (old : List Host.Cell) (die ctx : Nat) (r : DceReq) :
    Sum (Nat × DWord) (Option Nat × List (Nat × Nat)) :=
  if !r.chunked then .inr (none, [(0, r.srcLen.getD 0)])
  else if (r.srcLen.map fun n => decide (n < 16)).getD false then .inl (2, 0)
  else match s.bytesAt old die ctx r.src 16 0 with
    | .inl e => .inl e
    | .inr h =>
      let n (off len : Nat) : Nat := fieldAt h off len
      let nch := n 4 4
      if n 0 4 != 0x4B484346 || nch < 1 || 65535 < nch || n 8 4 < 1 || 4194304 < n 8 4 || n 12 4 != 0
          || (r.srcLen.map fun k => decide (k < 20 + 4 * nch)).getD false then .inl (2, 0)
      else match s.bytesAt old die ctx (r.src + 16) (4 * (nch + 1)) 0 with
        | .inl e => .inl e
        | .inr t =>
          let offs := (List.range (nch + 1)).map fun i => fieldAt t (4 * i) 4
          if goodOffsets nch r.srcLen offs then .inr (some (n 8 4), offs.zip offs.tail) else .inl (2, 0)

/-- Chunk c of a request decoded, or its code and the address of a fault (R336). -/
def State.dceChunk (s : State) (old : List Host.Cell) (die ctx : Nat) (r : DceReq) (out : Option Nat)
    (chunks : List (Nat × Nat)) (c : Nat) : Sum (Nat × DWord) (List Byte) :=
  let (lo, hi) := chunks.getD c (0, 0)
  let feed (i : Nat) := s.byteAt old die ctx (r.src + BitVec.ofNat 64 (lo + i))
  let dict (i : Nat) := s.byteAt old die ctx (r.dict + BitVec.ofNat 64 i)
  match lz4 feed dict (hi - lo) r.dictLen ⟨r.cap - c * out.getD 0, out⟩ with
  | .inl e => .inl e
  | .inr bs => match out with
    | none => .inr bs
    | some n => if bs.isEmpty || (c + 1 < chunks.length && bs.length != n) then .inl (9, 0) else .inr bs

/-- A chunk's bytes written, and the sectors of memory that they lie in; nothing is written where the destination
faults (R339). -/
def State.dceWrite (s : State) (b : Nat) (r : DceReq) (off : Nat) (bs : List Byte) :
    Sum (Nat × DWord) (State × List Nat) :=
  if r.dstSp then .inr (s.engineSp b (r.dst + off) bs, [])
  else
    let B := s.blk b
    match s.xlateRange B.die B.ctx .store (rangeFuel bs.length) (BitVec.ofNat 64 (r.dst + off)) bs.length with
    | (_, _, some (c, a)) => .inl (dceCode c, a)
    | (s, rs, none) =>
      .inr (s.engineRuns b rs bs, (rs.flatMap fun (_, pa, n, _) => sectorsOf pa n).foldl addSector [])

/-- What a header says once it has been read: CHUNKOUT, and the chunks (R336). -/
abbrev DcePlan := Option Nat × List (Nat × Nat)

/-- What the next step of a request is, from chunk c on: nothing is left, a failure, or the chunk's bytes written, with
what the header says. -/
inductive DceNext where
  | finished
  | fails (code : Nat) (addr : DWord)
  | commits (s : State) (bytes : Nat) (sectors : List Nat) (plan : DcePlan)

/-- The next step of a request that began when memory was as `old` says; its header is read once (R341). -/
def State.dceNext (s : State) (old : List Host.Cell) (b : Nat) (r : DceReq) (plan : Option DcePlan) (c : Nat) : DceNext :=
  let B := s.blk b
  let header : Sum (Nat × DWord) DcePlan := match plan with
    | some p => .inr p
    | none => s.dceChunks old B.die B.ctx r
  match header with
  | .inl (e, a) => .fails e a
  | .inr p =>
    if p.2.length ≤ c then .finished
    else match s.dceChunk old B.die B.ctx r p.1 p.2 c with
      | .inl (e, a) => .fails e a
      | .inr bs => match s.dceWrite b r (c * p.1.getD 0) bs with
        | .inl (e, a) => .fails e a
        | .inr (s, secs) => .commits s.ticked bs.length secs p

/-- Changes a job. -/
def State.updJob (s : State) (id : Nat) (f : Job → Job) : State :=
  { s with jobs := s.jobs.map fun x => if x.id == id then f x else x }

/-- The sync word of a job is raised (R340). -/
def State.jobArrival (s : State) (j : Job) (n : Nat) (err : Bool) : State :=
  let sync := fieldAt j.card 28 4
  if sync = 2 ^ 32 - 1 then s else s.arrival j.blk sync n err

/-- Whether a job has started, or may: the jobs of a block start in posting order (R341). -/
def State.jobMayRun (s : State) (j : Job) : Bool :=
  j.snap.isSome || (s.jobs.takeWhile fun x => x.id != j.id).all fun x => x.blk != j.blk || x.done || x.snap.isSome

/-- A job starts: its source is read from now on (R341). -/
def State.startJob (s : State) (id : Nat) : State :=
  s.updJob id fun j => { j with snap := j.snap.or (some s.mem) }

/-- A job under way reads bytes of its source between two commits (R354). -/
def State.rereadJob (s : State) (id : Nat) : State :=
  (s.updJob id fun j => { j with snap := j.snap.map s.reread }).ticked

/-- The next step of a job. -/
def State.jobNext (s : State) (j : Job) : DceNext :=
  s.dceNext (j.snap.getD s.mem) j.blk (cardReq j.card) j.plan j.nextChunk

/-- CHUNK_COMMIT (R339, R340). -/
def execChunkCommit (k : Nat) (s : State) : Host.Outcome State Fault Refusal :=
  opOf s.jobs (fun j => j.id == k && !j.done && s.jobMayRun j) fun j =>
    match (s.startJob j.id).jobNext j with
    | .finished => .fault .notEnabled
    | .fails _ _ => .fault .notEnabled
    | .commits s n secs p =>
      let s := s.updJob j.id fun j =>
        { j with nextChunk := j.nextChunk + 1, committed := j.committed + n, sectors := secs.foldl addSector j.sectors,
                 plan := some p }
      .next (s.jobArrival j n false)

/-- A job ends: its release, its closing arrival, its log entry and its code (R340, R341, R343). -/
def State.endJob (s : State) (j : Job) (code : Nat) (addr : DWord) : State :=
  let r := cardReq j.card
  let failed := if code = 0 then none else some j.nextChunk
  let s := if r.dstSp then s else s.engineRelease j.blk j.warp j.sectors 2
  let s := s.jobArrival j (r.cap - j.committed) (code != 0)
  let s := if code = 0 then s
    else s.logBlk j.blk (some j.warp) { kind := 8, code := code, addr := addr.toNat, aux := j.nextChunk }
  (s.updJob j.id fun j => { j with code := code, failed := failed, done := true }).consumed (s.blk j.blk).ctx j.blk .jobs

/-- JOB_COMPLETE (R339, R340). -/
def execJobComplete (k : Nat) (s : State) : Host.Outcome State Fault Refusal :=
  opOf s.jobs (fun j => j.id == k && !j.done && s.jobMayRun j) fun j =>
    let s := s.startJob j.id
    match s.jobNext j with
    | .finished => .next (s.endJob j 0 0)
    | .fails e a => .next (s.ticked.endJob j e a)
    | .commits _ _ _ _ => .fault .notEnabled

/-! ### DSUB, DSTAT and DWAIT (R342 to R345) -/

/-- Whether a card breaks R337. -/
def badCard (spSize : Nat) (d : List Byte) : Bool :=
  let n (off len : Nat) : Nat := fieldAt d off len
  let fl := n 1 1
  1 < n 0 1 || 3 < fl || n 2 2 != 0 || n 4 4 < 1 || 2 ^ 31 < n 4 4 || n 24 4 < 1 || 2 ^ 31 < n 24 4
    || (fl.testBit 0 && (n 20 4 != 0 || spSize < n 16 4 + n 24 4)) || (syncField spSize (n 28 4)).2
    || (if fl.testBit 1 then n 40 4 < 1 || 65536 < n 40 4 else n 32 8 != 0 || n 40 4 != 0) || !zeroBytes d 44 20

/-- Whether a warp of a block waits for a job. -/
def Block.awaits (b : Block) (t : Word) : Bool :=
  b.warps.any fun W => match W.wait with | some (.job t' _) => t' == t | _ => false

/-- Whether a ticket is one of a block's last 16 (R344). -/
def Block.recentJob (b : Block) (t : Word) : Bool := decide ((b.jobTickets - 1 - t).toNat < 16)

/-- The jobs that a block has posted, without those that nothing can ask for again. -/
def State.forgetJobs (s : State) (b : Nat) : State :=
  let B := s.blk b
  { s with jobs := s.jobs.filter fun j => j.blk != b || !j.done || B.recentJob j.ticket || B.awaits j.ticket }

/-- DSUB (R341, R343). -/
def execDsub (f : FormDA) (s : State) : Host.Outcome State Fault Refusal :=
  issuing s fun x =>
    x.uniform { ord := [2] } [wop f.d, wop f.a] true fun s o w => s.post o (x.postScope 2) fun s =>
      let off := (w f.a.toNat).toNat
      match (s.blk o.blk).record off 64 with
      | .inl (c, a) => (s, .fault c a)
      | .inr d =>
        let B := s.blk o.blk
        if badCard B.spSize d then (s, engineFault off)
        else if 16 ≤ (s.jobs.filter fun j => j.blk == o.blk && !j.done).length then (s, .stall .jobs)
        else
          let (id, s) := s.fresh
          let j : Job :=
            { id := id, die := B.die, blk := o.blk, warp := o.warp, ctx := B.ctx, ticket := B.jobTickets, card := d,
              nextChunk := 0, committed := 0, sectors := [], code := 0, failed := none, done := false }
          let s := { s with jobs := s.jobs ++ [j] }
          let s := s.updBlk o.blk fun B => { B with jobTickets := B.jobTickets + 1 }
          ((s.forgetJobs o.blk).setW o f.d [B.jobTickets], .done)

/-- The job of a ticket, none where the ticket is expired or not yet issued (R344). -/
def State.jobOf (s : State) (b : Nat) (t : Word) : Option Job :=
  if (s.blk b).recentJob t then s.jobs.find? fun j => j.blk == b && j.ticket == t else none

/-- The first failed chunk as DSTAT and DWAIT show it. -/
def Job.failedField (j : Job) : Nat := j.failed.getD 0xFFFF

/-- DSTAT (R344). -/
def execDstat (f : FormDA) (s : State) : Host.Outcome State Fault Refusal :=
  issuing s fun x =>
    x.uniform {} [wop f.d 2, wop f.a] true fun s o w =>
      match s.jobOf o.blk (w f.a.toNat) with
      | none => (s.setW o f.d [0, 0xFFFF0301], .done)
      | some j =>
        let st := if j.done then 2 else if j.snap.isSome then 1 else 0
        let hi := j.code + 2 ^ 8 * st + 2 ^ 16 * j.failedField
        ((s.observe o j.done).setW o f.d [BitVec.ofNat 32 j.committed, BitVec.ofNat 32 hi], .done)

/-- What DWAIT writes for a job (R345). -/
def Job.result (j : Job) : Word := BitVec.ofNat 32 (j.code + 2 ^ 16 * j.failedField)

/-- DWAIT (R345). -/
def execDwait (f : FormDA) (s : State) : Host.Outcome State Fault Refusal :=
  issuing s fun x =>
    x.uniform {} [wop f.d, wop f.a] true fun s o w =>
      let t := w f.a.toNat
      match s.jobOf o.blk t with
      | none => ((s.acquire o.blk o.warp 2).setW o f.d [0xFFFF0001], .done)
      | some j =>
        if j.done then ((s.acquire o.blk o.warp 2).setW o f.d [j.result], .done)
        else (s.updWarp o.blk o.warp fun W => { W with wait := some (.job t f.d.toNat) }, .done)

/-- DWAIT_RELEASE (R345). -/
def execDwaitRelease (b w : Nat) (s : State) : Host.Outcome State Fault Refusal :=
  s.release? b w fun q =>
    match q with
    | .job t d =>
      match s.jobs.find? fun j => j.blk == b && j.ticket == t && j.done with
      | none => none
      | some j => some ((s.acquire b w 2).updWarp b w fun W => W.setReg d j.result)
    | _ => none

/-! ### Launch transforms (R346 to R349) -/

/-- A failing binding: its code, the address of a fault, and AUX (R349). -/
structure XfFail where
  code : Nat
  addr : DWord := 0
  aux : Nat := 0

/-- The memory as it stood when the launch of a block was taken (R349). -/
def State.atLaunch (s : State) (b : Nat) : List Host.Cell := (s.launch (s.blk b).launch).snap

/-- The bindings of a launch in flight read bytes between two of their steps (R349). -/
def State.rereadLaunch (s : State) (l : Nat) : State :=
  (s.updLaunch l fun L => { L with snap := s.reread L.snap }).ticked

/-- A binding's source read, or its failure. -/
def State.xfRead (s : State) (b : Nat) (va : DWord) (n : Nat) : State × Sum XfFail (List Byte) :=
  let B := s.blk b
  match s.readVa B.die B.ctx va n with
  | (s, .inl (c, a)) => (s, .inl { code := dceCode c, addr := a })
  | (s, .inr _) =>
    match s.xlateRange B.die B.ctx .load (rangeFuel n) va n with
    | (s, rs, _) =>
      (s.ticked, .inr (rs.flatMap fun (_, pa, k, _) => (List.range k).map fun i => s.oldOrNew (s.atLaunch b) (pa + i)))

/-- The bytes of one row of a dequantise binding with its events (R348). -/
def dequantRow (x : Binding) (row : List Byte) (scales : List Byte) : List (Nat × List (Nat × Events)) :=
  let c := x.fmt % 32
  let w := fmtWidth c
  let gs := groupSize (x.fmt / 32) x.cols
  let bits := leNat row
  (List.range x.cols).map fun i =>
    let a := valueOf c (bits / 2 ^ (w * i) % 2 ^ w)
    let k := valueOf 3 (fieldAt scales (2 * (i / gs)) 2)
    rounded (a.mul k) 3 1 [a, k]

/-- A dequantise binding: what it writes and its events. Where both the elements and the scales cannot be read,
either failure may be the one reported (assumption 6). -/
def State.xfDequant (s : State) (b : Nat) (x : Binding) (src : DWord) :
    State × Sum XfFail (List Byte × List (Nat × Events)) :=
  let w := fmtWidth (x.fmt % 32)
  let pitch := (x.cols * w + 7) / 8
  let g := x.cols / groupSize (x.fmt / 32) x.cols
  match s.xfRead b src (pitch * x.rows) with
  | (s, r1) => match s.xfRead b (src + BitVec.ofNat 64 x.aux) (2 * g * x.rows) with
    | (s, r2) => match r1, r2 with
      | .inl e, .inr _ => (s, .inl e)
      | .inr _, .inl e => (s, .inl e)
      | .inl e1, .inl e2 =>
        let (first, s) := s.race
        (s, .inl (if first then e1 else e2))
      | .inr bs, .inr sc =>
        let out := (List.range x.rows).flatMap fun r =>
          dequantRow x ((bs.drop (pitch * r)).take pitch) ((sc.drop (2 * g * r)).take (2 * g))
        (s, .inr (out.flatMap fun e => leBytes 2 e.1, out.flatMap (·.2)))

/-- The bytes of a matrix transposed (R346). -/
def transposed (x : Binding) (bs : List Byte) : List Byte :=
  let n := fmtWidth x.fmt / 8
  (List.range x.cols).flatMap fun c => (List.range x.rows).flatMap fun r =>
    (bs.drop ((r * x.cols + c) * n)).take n

/-- The chunks of a decompress binding in turn (R347). -/
def State.xfChunks (s : State) (b : Nat) (r : DceReq) (exact : Bool) :
    Nat → Option DcePlan → Nat → Nat → State × Option XfFail
  | 0, _, _, _ => (s, some { code := 2 })
  | fuel + 1, plan, c, done =>
    match s.dceNext (s.atLaunch b) b r plan c with
    | .finished => (s, if exact && done < r.cap then some { code := 0, aux := 0xFFFF } else none)
    | .fails e a => (s.ticked, some { code := e, addr := a, aux := c })
    | .commits s n _ p => State.xfChunks s b r exact fuel (some p) (c + 1) (done + n)

/-- A binding performed: bytes to its destination, or its failure (R346). -/
def State.xfPerform (s : State) (b : Nat) (x : Binding) (src : DWord) : State × Option XfFail :=
  let put (r : State × Sum XfFail (List Byte × List (Nat × Events))) : State × Option XfFail :=
    match r with
    | (s, .inl e) => (s, some e)
    | (s, .inr (bs, ev)) =>
      ((s.updBlk b fun B => B.writeSp x.dst bs).countAll (s.blk b).launch ev, none)
  let plain (n : Nat) (fn : List Byte → List Byte) : State × Sum XfFail (List Byte × List (Nat × Events)) :=
    match s.xfRead b src n with
    | (s, .inl e) => (s, .inl e)
    | (s, .inr bs) => (s, .inr (fn bs, []))
  match x.kind with
  | 0 => put (plain x.len id)
  | 1 => s.xfChunks b ⟨true, src, none, x.dst, true, x.len, 0, 0⟩ (x.aux % 2 == 1) 65537 none 0 0
  | 2 => put (s.xfDequant b x src)
  | _ => put (plain (x.rows * x.cols * (fmtWidth x.fmt / 8)) (transposed x))

/-- TRANSFORM_BINDING: the next binding of a block; a failure ends the launch (R26, R346, R349). -/
def execTransformBinding (b : Nat) (s : State) : Host.Outcome State Fault Refusal :=
  let B := s.blk b
  let L := s.launch B.launch
  match B.phase with
  | .prologue k =>
    match L.rcd.bindings[k]? with
    | none => .fault .notEnabled
    | some x =>
      if L.status != 0 then .fault .notEnabled
      else match s.xfPerform b x (x.src + BitVec.ofNat 64 (B.index * x.stride)) with
        | (s, none) => .next (s.setPhase b (.prologue (k + 1)))
        | (s, some e) =>
          let s := s.logBlk b none
            { kind := 8, code := e.code + 2 ^ 8 * x.kind + 2 ^ 16 * k, addr := e.addr.toNat, aux := e.aux }
          .next (s.failLaunch B.launch 12 (BitVec.ofNat 32 B.index) k)
  | .running => .fault .notEnabled
  | .saved => .fault .notEnabled
  | .gone => .fault .notEnabled

end Sys2Proof.Machine
end

