-- ==== Sys2Proof/Machine/Host.lean ====
section
/-! DEFINITION. What the host asks of the device while it runs: command queues and their commands (R32 to R35, R41
to R44, R440), invalidations (R76), counters armed (R47), replies (R157), the watchdog (R59), pre-emption and
resumption (R412, R415 to R420). -/

namespace Sys2Proof.Machine

/-! ### Command queues (R41 to R43) -/

def State.cmdq (s : State) (die q : Nat) : CmdQ := (s.die die).cmdqs.getD q default

def State.updCmdq (s : State) (die q : Nat) (f : CmdQ → CmdQ) : State :=
  s.updDie die fun d => { d with cmdqs := d.cmdqs.modify q f }

/-- Whether a die answers to the host: it is powered, and in Twilight mode it is die 0 (R434, R437). -/
def State.answers? (s : State) (die : Nat) : Bool := s.inService die

/-- A management access keeps its die from going idle (R437). -/
def State.touch (s : State) (die : Nat) : State := s.updDie die fun d => { d with idleSince := s.cycle }

/-- QPROD written: a count more than 256 ahead stops the queue (R42). -/
def State.writeQprod (s : State) (die q : Nat) (v : Word) : State :=
  let s := s.updCmdq die q fun c => { c with prod := v }
  let c := s.cmdq die q
  if 256 < (v - c.consumed).toNat then
    (s.updCmdq die q fun c => { c with overrun := true, stopped := true }).log die
      { kind := 5, ctx := some c.ctx, die := some die, aux := q }
  else s

/-- QFLAGS written: ENABLE going from 0 to 1 resets the queue (R41). A LAUNCH or COPY that it has taken stays open; a
SIGNAL or WAIT that it has taken and not performed is dropped (assumption 76). -/
def State.writeQflags (s : State) (die q : Nat) (v : Byte) : State :=
  s.updCmdq die q fun c =>
    let c' := { c with flags := v &&& 1 }
    if !c.flags.getLsbD 0 && v.getLsbD 0 then
      { c' with prod := 0, consumed := 0, written := 0, stopped := false, overrun := false, cmdFault := false,
                waiting := none, open_ := c.open_.filter (fun n => !c.signals.any fun x => x.1 == n), signals := [] }
    else c'

/-- QPROD_WRITE (R42). -/
def execQprodWrite (die q : Nat) (v : Word) (s : State) : Host.Outcome State Fault Refusal :=
  if s.answers? die && q < 128 then .next ((s.touch die).writeQprod die q v) else .fault .notEnabled

/-- QFLAGS_WRITE (R41). -/
def execQflagsWrite (die q : Nat) (v : Byte) (s : State) : Host.Outcome State Fault Refusal :=
  if s.answers? die && q < 128 then .next ((s.touch die).writeQflags die q v) else .fault .notEnabled

/-- The next command of a queue that may be taken from; QBASE is a physical address (R41, R42; assumption 77). -/
def State.headCommand (s : State) (die q : Nat) : Option (List Byte) :=
  let c := s.cmdq die q
  if !s.answers? die || !c.flags.getLsbD 0 || c.stopped || c.waiting.isSome || c.prod == c.consumed then none
  else some (s.readPa (c.base.toNat + 64 * (c.consumed.toNat % 256)) 64)

/-- A command is consumed, and the count written to QRET, a physical address, at the latest when the queue is empty or
at the 16th command since (R43); where QRET lies in a reserved range it is not written (assumption 77). -/
def State.consume (s : State) (die q : Nat) : State :=
  let s := s.updCmdq die q fun c => { c with consumed := c.consumed + 1 }
  let c := s.cmdq die q
  let must := c.consumed == c.prod || 16 ≤ (c.consumed - c.written).toNat
  let (may, s) := s.race
  if (must || may) && paOk c.ret.toNat then
    (((s.writePa c.ret.toNat (leBytes 8 c.consumed.toNat)).publish [(c.ret.toNat, 8)] 4 die 0).updCmdq die q fun c =>
      { c with written := c.consumed })
  else s

/-- The queue stops at a bad command (R35). -/
def State.stopQueue (s : State) (die q : Nat) : State := s.updCmdq die q fun c => { c with stopped := true }

/-- The memory access of a command with a number has failed: the queue stops, and a SIGNAL or WAIT taken behind it is
not performed (R440). -/
def State.commandFault (s : State) (die q ctx n : Nat) (seq : Nat) (c : Cause) (va : DWord) : State :=
  let behind (k : Nat) : Bool := decide (n ≤ k)
  let s := s.updCmdq die q fun Q => { Q with
    stopped := true, cmdFault := true, waiting := none, signals := Q.signals.filter fun x => !behind x.1,
    open_ := Q.open_.filter fun k => k != n && !(behind k && Q.signals.any fun x => x.1 == k) }
  s.log die { kind := 4, ctx := some ctx, die := some die, code := c.code, addr := va.toNat, tag := seq, aux := q }

/-- Whether a command breaks its table (R32, R33, R35). -/
def badCommand (c : List Byte) : Bool :=
  let n (off len : Nat) : Nat := fieldAt c off len
  let va : DWord := BitVec.ofNat 64 (n 8 8)
  1 < n 1 1 || n 2 2 != 0 || (match n 0 1 with
    | 1 => n 16 1 / 16 != 0 || !zeroBytes c 17 47 || va.toNat % 128 != 0 || !canonical va
    | 2 => 1 < n 24 1 || !zeroBytes c 25 39 || va.toNat % 8 != 0 || !canonical va
    | 3 => 2 < n 24 1 || !zeroBytes c 25 39 || va.toNat % 8 != 0 || !canonical va
    | 4 => !zeroBytes c 32 32
    | 5 => 63 < n 8 1 || 3 < n 9 1 || n 10 2 != 0 || !zeroBytes c 16 48
    | _ => true)

/-- Takes the next command of a queue if it is of a kind; a bad one stops the queue (R35), and one with SERIAL waits
until every earlier command has completed (R34). -/
def State.takeCommand (s : State) (die q : Nat) (kind : Nat → Bool)
    (act : State → List Byte → Host.Outcome State Fault Refusal) : Host.Outcome State Fault Refusal :=
  match s.headCommand die q with
  | none => .fault .notEnabled
  | some c =>
    let Q := s.cmdq die q
    if !kind (fieldAt c 0 1) then .fault .notEnabled
    else if badCommand c then
      .next ((s.stopQueue die q).log die
        { kind := 4, ctx := some Q.ctx, die := some die, tag := fieldAt c 4 4, aux := q })
    else if fieldAt c 1 1 == 1 && !Q.open_.isEmpty then .fault .notEnabled
    else act s c

/-- Puts a command among those taken and not completed. -/
def State.openCommand (s : State) (die q n : Nat) : State :=
  s.updCmdq die q fun c => { c with open_ := c.open_ ++ [n] }

/-- A LAUNCH taken: its record is read and checked, and the launch waits for its blocks or is rejected (R13, R14, R16,
R44). -/
def State.takeLaunch (s : State) (die q : Nat) (c : List Byte) : State :=
  let Q := s.cmdq die q
  let dies := fieldAt c 16 1 % 16
  let mask : BitVec 4 := if dies = 0 then 15 else BitVec.ofNat 4 dies
  let s := s.consume die q
  let (age, s) := s.fresh
  match s.takeRecord die Q.ctx (BitVec.ofNat 64 (fieldAt c 8 8)) none with
  | (s, .inl a) =>
    s.log die { kind := 14, ctx := some Q.ctx, die := some die, code := 1, addr := a.toNat, tag := fieldAt c 4 4 }
  | (s, .inr (.inl (r, e))) => s.rejectLaunch (newLaunch r die mask 0 none age none .done) e
  | (s, .inr (.inr r)) =>
    let L := { newLaunch r die mask 0 none age (some (die, q, age)) .running with snap := s.mem, taken := s.cycle }
    let s := ({ s with launches := s.launches ++ [L] }).dropCode Q.ctx
    s.openCommand die q age

/-- The launches in flight that a context holds on a die (R419). -/
def State.launchesOn (s : State) (ctx die : Nat) : Nat :=
  (s.launches.filter fun L => L.inFlight && L.rcd.ctx == ctx && L.home == die).length

/-- Whether the dispatcher takes a LAUNCH of a context: not while it is pre-empted, or holds 128 (R416, R419). -/
def State.mayLaunch (s : State) (ctx die : Nat) : Bool :=
  match s.ctx? ctx with
  | none => true
  | some c => c.preState == .running && s.launchesOn ctx die < 128

/-- LAUNCH (R16). A reserved OPC is handled here as well. -/
def execLaunch (die q : Nat) (s : State) : Host.Outcome State Fault Refusal :=
  s.takeCommand die q (fun k => k == 1 || k == 0 || 5 < k) fun s c =>
    if s.mayLaunch (s.cmdq die q).ctx die then .next (s.takeLaunch die q c) else .fault .notEnabled

/-- The store or add of a SIGNAL (R34, R440). -/
def State.signal (s : State) (die q n : Nat) (c : List Byte) : State :=
  let ctx := (s.cmdq die q).ctx
  let va : DWord := BitVec.ofNat 64 (fieldAt c 8 8)
  let done (s : State) : State :=
    (s.commandDone die q n).updCmdq die q fun c => { c with signals := c.signals.filter fun x => x.1 != n }
  if fieldAt c 24 1 = 0 then
    match s.unitWrite die ctx va (leBytes 8 (fieldAt c 16 8)) 4 with
    | (s, some (e, a)) => s.commandFault die q ctx n (fieldAt c 4 4) e a
    | (s, none) => done s
  else match s.unitAdd die ctx va (BitVec.ofNat 64 (fieldAt c 16 8)) with
    | (s, some e) => s.commandFault die q ctx n (fieldAt c 4 4) e va
    | (s, none) => done s

/-- The first SIGNAL of a queue whose earlier commands have all completed; one taken before the queue stopped is
performed all the same (R34, R42). -/
def CmdQ.dueSignal (c : CmdQ) : Option (Nat × List Byte) := c.signals.find? fun x => c.open_.all fun n => x.1 ≤ n

/-- SIGNAL: performed once every earlier command has completed; before that it is taken, so that later commands may be
(R34, R440). -/
def execSignal (die q : Nat) (s : State) : Host.Outcome State Fault Refusal :=
  match (s.cmdq die q).dueSignal with
  | some (n, c) => if s.answers? die then .next (s.signal die q n c) else .fault .notEnabled
  | none =>
    s.takeCommand die q (· == 2) fun s c =>
      let (n, s) := (s.consume die q).fresh
      let first := (s.cmdq die q).open_.isEmpty
      let s := (s.openCommand die q n).updCmdq die q fun Q => { Q with signals := Q.signals ++ [(n, c)] }
      .next (if first then s.signal die q n c else s)

/-- WAIT_COMMAND (R34). -/
def execWaitCommand (die q : Nat) (s : State) : Host.Outcome State Fault Refusal :=
  s.takeCommand die q (· == 3) fun s c =>
    let n (off len : Nat) : Nat := fieldAt c off len
    .next ((s.consume die q).updCmdq die q fun Q => { Q with
      waiting := some (BitVec.ofNat 64 (n 8 8), BitVec.ofNat 64 (n 16 8), n 24 1, BitVec.ofNat 32 (n 4 4)) })

/-- Whether a word meets the condition of a WAIT (R33). -/
def waitHolds (mode : Nat) (x val : DWord) : Bool :=
  match mode with
  | 0 => val.toNat ≤ x.toNat
  | 1 => x == val
  | _ => x != val

/-- WAIT_CONDITION_HOLDS: the word meets the condition, and the queue goes on; or it cannot be read (R34, R440). -/
def execWaitConditionHolds (die q : Nat) (s : State) : Host.Outcome State Fault Refusal :=
  let Q := s.cmdq die q
  match Q.waiting with
  | none => .fault .notEnabled
  | some (va, val, mode, seq) =>
    if !s.answers? die then .fault .notEnabled
    else match s.readVa die Q.ctx va 8 with
      | (s, .inl (c, a)) => .next (s.commandFault die q Q.ctx s.nextId seq.toNat c a)
      | (s, .inr bs) =>
        if waitHolds mode (BitVec.ofNat 64 (leNat bs)) val then
          .next (s.updCmdq die q fun Q => { Q with waiting := none })
        else .fault .notEnabled

/-- COPY (R34). -/
def execCopy (die q : Nat) (s : State) : Host.Outcome State Fault Refusal :=
  s.takeCommand die q (· == 4) fun s c =>
    let n (off len : Nat) : Nat := fieldAt c off len
    let Q := s.cmdq die q
    let (k, s) := (s.consume die q).fresh
    let s := s.openCommand die q k
    let y : HostCopy :=
      ⟨die, q, k, Q.ctx, BitVec.ofNat 64 (n 8 8), BitVec.ofNat 64 (n 16 8), n 24 8, BitVec.ofNat 32 (n 4 4)⟩
    .next { s with hostCopies := s.hostCopies ++ [y] }

/-- Bytes each of which is the old or the new one (assumption 6). -/
def State.mix (s : State) (old new : List Byte) : State × List Byte :=
  (old.zip new).foldl (fun (s, out) (a, b) =>
    let (go, s) := s.race
    (s, out ++ [if go then b else a])) (s, [])

/-- The bytes that runs hold up to a length. -/
def State.runBytes (s : State) (rs : List (DWord × Nat × Nat × DWord)) (n : Nat) : List Byte :=
  (rs.flatMap fun (_, pa, k, _) => s.readPa pa k).take n

def runsLen (rs : List (DWord × Nat × Nat × DWord)) : Nat := (rs.map fun (_, _, n, _) => n).sum

/-- Whether the physical bytes of some runs overlap those of others. -/
def runsOverlap (a b : List (DWord × Nat × Nat × DWord)) : Bool :=
  a.any fun (_, pa, n, _) => b.any fun (_, pb, m, _) => overlap pa n pb m

/-- The first byte of a host copy that cannot be read or written, with the cause and the address (R440); at one byte the
poison of the source comes before its translation, and the source before the destination (assumption 83). -/
def copyFault (c : HostCopy) (srcLen dstLen : Nat) (src dst : Option (Cause × DWord)) (poison : Option DWord) :
    Option (Nat × Cause × DWord) :=
  let a := src.map fun (e, va) => (srcLen, e, va)
  let p := poison.map fun va => ((va - c.src).toNat, Cause.poison, va)
  let d := dst.map fun (e, va) => (dstLen, e, va)
  let first (x y : Option (Nat × Cause × DWord)) : Option (Nat × Cause × DWord) :=
    match x, y with
    | none, y => y
    | x, none => x
    | some x, some y => some (if x.1 ≤ y.1 then x else y)
  first (first p a) d

/-- The bytes of a host copy, up to the one that fails (R34, R440). Where source and destination overlap, each byte of
the destination holds its old or its copied value (assumption 78). -/
def State.hostCopy (s : State) (c : HostCopy) : State × Option (Cause × DWord) :=
  match s.xlateRange c.die c.ctx .load (rangeFuel c.len) c.src c.len with
  | (s, rs, f) => match s.xlateRange c.die c.ctx .store (rangeFuel c.len) c.dst c.len with
    | (s, ws, g) =>
      let e := copyFault c (runsLen rs) (runsLen ws) f g (s.firstPoison rs)
      let n := min (min (runsLen rs) (runsLen ws)) ((e.map (·.1)).getD c.len)
      let new := s.runBytes rs n
      let (s, bs) := if e.isSome || runsOverlap rs ws then s.mix (s.runBytes ws n) new else (s, new)
      let s := (s.writeRuns ws bs).publish (ws.map fun (_, pa, k, _) => (pa, k)) 4 c.die 0
      (s, e.map (·.2))

/-- COMMAND_COPY_COMPLETE (R34, R440). -/
def execCommandCopyComplete (k : Nat) (s : State) : Host.Outcome State Fault Refusal :=
  opOf s.hostCopies (fun c => c.n == k && s.answers? c.die) fun c =>
    match { s with hostCopies := s.hostCopies.filter fun x => x.n != k }.hostCopy c with
    | (s, e) =>
      let s := s.commandDone c.die c.q c.n
      match e with
      | none => .next s
      | some (e, a) => .next (s.commandFault c.die c.q c.ctx c.n c.seq.toNat e a)

/-! ### Pre-emption (R415) -/

/-- The launches in flight of a context. -/
def State.inFlight (s : State) (ctx : Nat) : List Launch := s.launches.filter fun L => L.inFlight && L.rcd.ctx == ctx

/-- The deadline of a PREEMPT in µs, 0 for none (R415). -/
def State.deadlineOf (s : State) (v cls own : Nat) : Nat :=
  if own != 0 then own
  else
    let low := (s.inFlight v).foldl (fun (m : Option Nat) L => some (match m with
      | none => L.rcd.cls
      | some k => min k L.rcd.cls)) none
    ((s.ctx v).dl.getD (low.getD cls) 0).toNat

/-- The earlier of two deadlines. -/
def earlier (a b : Option Nat) : Option Nat :=
  match a, b with
  | none, b => b
  | a, none => a
  | some x, some y => some (min x y)

/-- A PREEMPT taken (R415). -/
def State.preempt (s : State) (v cls own : Nat) : State :=
  match s.ctx? v with
  | none => s
  | some c =>
    let us := s.deadlineOf v cls own
    let til := if us = 0 then none else some (s.cycle + us * Config.usCycles)
    match c.preState with
    | .running =>
      if (s.inFlight v).any fun L => L.rcd.cls < cls then s.updCtx v fun c => { c with preResult := 2 }
      else s.updCtx v fun c => { c with preState := .draining, preCls := cls, deadline := til }
    | .draining => s.updCtx v fun c => { c with deadline := earlier c.deadline til }
    | .saving => s
    | .suspended => s
    | .resetting => s
    | .reset => s

/-- PREEMPT (R415). -/
def execPreempt (die q : Nat) (s : State) : Host.Outcome State Fault Refusal :=
  s.takeCommand die q (· == 5) fun s c =>
    .next ((s.consume die q).preempt (fieldAt c 8 1) (fieldAt c 9 1) (fieldAt c 12 4))

/-! ### Invalidations, counters, replies -/

/-- GO written: an invalidation of the range and context that the block holds starts (R76). -/
def State.goInvalidate (s : State) (die : Nat) : State :=
  s.updDie die fun d => { d with invalidating := d.invalidating ++ [(d.vbase, d.nunits, d.ivctx.toNat)] }

/-- INVALIDATION_GO (R76). -/
def execInvalidationGo (die : Nat) (s : State) : Host.Outcome State Fault Refusal :=
  if s.answers? die then .next ((s.touch die).goInvalidate die) else .fault .notEnabled

/-- Takes the translations of a context for a range out of a die's buffers; 0 units name all of them (R76). -/
def Die.invalidate (d : Die) (base : DWord) (units : Word) (ctx : Nat) : Die :=
  let hit (t : Tlb) : Bool := t.ctx == ctx && (units == 0 || overlap t.va t.size base.toNat (units.toNat * 65536))
  { d with tlb := d.tlb.filter fun t => !hit t }

/-- INVALIDATION_COMPLETE (R76). -/
def execInvalidationComplete (die : Nat) (s : State) : Host.Outcome State Fault Refusal :=
  match (s.die die).invalidating with
  | [] => .fault .notEnabled
  | (base, units, ctx) :: rest =>
    .next (s.updDie die fun d =>
      { (d.invalidate base units ctx) with invalidating := rest, ivdone := d.ivdone + 1 })

/-- The context whose range holds a counter of a die; that of a suspended one is free (R46, R419). -/
def State.counterOwner (s : State) (die no : Nat) : Option Ctx :=
  s.ctxs.find? fun c => c.taskDie == die && c.preState != .suspended && c.cbase ≤ no && no < c.cbase + c.ccount

/-- A counter is armed with a COUNT; 0 fires it at once, for the context that owns it (R47). -/
def State.armCounter (s : State) (die no : Nat) (c : Counter) : State :=
  let put (c : Counter) : State := s.updDie die fun d => { d with counters := d.counters.set no c }
  let c := { c with st := .armed, cxl := false }
  if c.count = 0 then
    match s.counterOwner die no with
    | none => put { c with st := .fired }
    | some o => (put c).fire o.id die no c
  else put c

/-- The counter as a write of its first 4 or 8 bytes leaves it (R47). -/
def Counter.written (c : Counter) (size : Nat) (v : DWord) : Counter :=
  let c := { c with count := v.setWidth 32 }
  if size = 8 then { c with queue := (v >>> 32).setWidth 6 } else c

/-- Whether arming a counter would fire it into a full buffer, for which the write waits (R49). -/
def State.armWaits (s : State) (die : Nat) (v : DWord) : Bool :=
  v.setWidth 32 == 0#32 && Config.firedBuffer ≤ (s.die die).fired.length

/-- COUNTER_ARM: a write of 4 or 8 bytes at a counter's record (R47). -/
def execCounterArm (die off size : Nat) (v : DWord) (s : State) : Host.Outcome State Fault Refusal :=
  if !s.answers? die || off % 64 != 0 || 0x40000 ≤ off || !(size == 4 || size == 8) || s.armWaits die v then
    .fault .notEnabled
  else
    let c := (s.die die).counters.getD (off / 64) default
    .next ((s.touch die).armCounter die (off / 64) (c.written size v))

/-- The warp of a context whose SYSC waits for the reply to a request. -/
def State.sysWaiter (s : State) (ctx : Nat) (n : Word) : Option (Nat × Nat × Nat) :=
  s.blocks.zipIdx.findSome? fun (B, b) =>
    if B.ctx != ctx || !B.resident then none
    else B.warps.zipIdx.findSome? fun (W, w) => match W.wait with
      | some (.reply m d) => if m == n then some (b, w, d) else none
      | _ => none

/-- A reply that the device has read: to the SYSC or the walk that waits for it (R156, R157, R294). -/
def State.reply (s : State) (ctx : Nat) (n val : Word) : State :=
  let s := s.updCtx ctx fun c => { c with svcWaiting := c.svcWaiting.filter (· != n) }
  match s.sysWaiter ctx n with
  | some (b, w, d) =>
    (s.acquire b w 4).updWarp b w fun W => { W.setReg d val with wait := none }
  | none =>
    let answer (p : PageReq) : PageReq := if p.num == n && p.reply.isNone then { p with reply := some val } else p
    let walk (k : Walk) : Walk := if k.ctx == ctx then { k with pages := k.pages.map answer } else k
    { s with walks := s.walks.map walk }

/-- SVCREPLY written: the reply slot is read, and a reply to a request that waits is delivered (R157). -/
def State.writeSvcreply (s : State) (ctx : Nat) (n : Word) : State :=
  match s.ctx? ctx with
  | none => s
  | some c =>
    let slot := c.ring.toNat + 0x40 + 32 * c.ringN + 8 * (n.toNat % c.ringN)
    if wordOf (s.readPa slot 4) == n && c.svcWaiting.contains n then s.reply ctx n (wordOf (s.readPa (slot + 4) 4))
    else s

/-- SVCREPLY_WRITE (R157). -/
def execSvcreplyWrite (ctx : Nat) (n : Word) (s : State) : Host.Outcome State Fault Refusal :=
  let die := (s.ctx ctx).taskDie
  if s.answers? die then .next ((s.touch die).writeSvcreply ctx n) else .fault .notEnabled

/-! ### The watchdog (R59) -/

/-- The number by which the error log names what an issuer is stalled on, where that stall is one of R59 (R156, R226,
R329, R343; assumption 79). -/
def StallOn.name : StallOn → Option Nat
  | .queue q => some q
  | .pipe p => some p
  | .copyQueue q => some q
  | .ring => some 0
  | .jobs => some 0
  | .posts => some 0
  | .mrt => none
  | .walker => none
  | .engines => none
  | .asw => none

/-- Whether what a lane stalls on may have room again (R58, R252, R299, R343, R357, R364). -/
def State.stallOver (s : State) (b : Nat) (on : StallOn) : Bool :=
  let B := s.blk b
  match on with
  | .queue q => ((s.ctx B.ctx).queue q).room 1
  | .pipe p => (B.pipe p).length < Config.pipe
  | .copyQueue q => (s.copiesOf b q).length < 16
  | .ring => s.ringFree (s.ctx B.ctx)
  | .jobs => (s.jobs.filter fun j => j.blk == b && !j.done).length < 16
  | .posts => (s.topkOps.filter fun t => t.blk == b).length < 16
  | .mrt => s.mrtFree B.clusterNo != 0
  | .walker => (s.walks.filter fun w => w.cl == B.clusterNo && !w.written).length < 8
      || (s.walkReqs.filter fun r => r.cl == B.clusterNo).length < 64
  | .engines => !s.spBusy b
  | .asw => true

/-- QUEUE_STALL: a queue or pipe that is full, and on which an issuer has been stalled for the watchdog time without a
consumption, is logged, once (R59). -/
def execQueueStall (k : Nat) (s : State) : Host.Outcome State Fault Refusal :=
  match s.stalls[k]? with
  | none => .fault .notEnabled
  | some r =>
    let wdog := (s.ctx r.ctx).wdog.toNat
    match r.on.name with
    | none => .fault .notEnabled
    | some no =>
      if r.logged || wdog = 0 || s.stallOver r.blk r.on || s.cycle < r.since + wdog * Config.usCycles then .fault .notEnabled
      else
        let mark (x : StallRec) : StallRec := if x.same r.ctx r.blk r.on then { x with logged := true } else x
        let s := { s with stalls := s.stalls.map mark }
        .next ((s.logBlk r.blk none { kind := 6, aux := no }).raise (.queueStall r.ctx))

/-! ### Traps that a block takes or does not take (R407, R412) -/

/-- An access in flight that will not be performed. -/
def State.dropPend (s : State) (id : Nat) : State :=
  { s with stores := s.stores.filter fun x => x.id != id || x.atCore, atoms := s.atoms.filter fun x => x.id != id,
           fences := s.fences.filter fun x => x.id != id }

/-- Writes in flight of some blocks are each performed or not, in the order of their issue; one that a release, a FENCE or
a DEQ puts behind one that is not performed is not (R52, R220, R412, R418). -/
def State.settleWrites (s : State) (p : Nat → Bool) : State :=
  let s := { s with loads := s.loads.filter fun x => !p x.blk }
  let one (acc : State × List Pend) (x : Pend) : State × List Pend :=
    let (go, s) := acc.1.race
    if go && s.isFirst x && !acc.2.any (·.ordered x) then (s.performOne x, acc.2) else (s.dropPend x.id, acc.2 ++ [x])
  let s := ((s.pend.filter fun x => p x.blk).foldl one (s, [])).1
  { s with replies := s.replies.filter fun x => !p x.blk, deqWaits := s.deqWaits.filter fun x => !p x.blk }

/-- The releases of every warp of a block, for an observer of what ends it (R150, R384). -/
def State.releaseBlock (s : State) (b : Nat) : State :=
  (List.range (s.blk b).warps.length).foldl (fun s w => s.release b w 3) s

/-- A block whose trap is not taken ends, and its launch with it; what it has written is released like that of the
launch's other blocks, for an observer of the launch's counter (R27, R384, R412). -/
def State.loseBlock (s : State) (b : Nat) (t : Trap) : State :=
  let B := s.blk b
  let s := s.settleWrites (· == b)
  let s := s.logBlk b (some t.warp) { kind := 12, code := t.cause.code, addr := t.faddr.toNat }
  let s := s.closeSteps b
  let s := (s.releaseBlock b).removeBlock b
  s.failLaunch B.launch 13 (BitVec.ofNat 32 B.index) 0

/-- HANDLER_ENTRY: the siblings have stopped and no fill is pending: the faulting warp enters its handler; or the trap
cannot be taken, and the block ends when its engine operations have completed (R407, R412). -/
def execHandlerEntry (b : Nat) (s : State) : Host.Outcome State Fault Refusal :=
  let B := s.blk b
  match B.halt with
  | none => .fault .notEnabled
  | some h =>
    if h.lost || (s.ctx B.ctx).handler == 0 then
      if s.enginesBusy b then .fault .notEnabled else .next (s.loseBlock b h.trap)
    else if h.handler || !h.stopped.all id || s.fillsBusy b then .fault .notEnabled
    else .next (s.enterHandler b)

/-! ### Saving, reset and resumption (R416 to R420) -/

/-- Whether an engine operation that the blocks of a context posted is outstanding (R416). -/
def State.ctxBusy (s : State) (ctx : Nat) : Bool :=
  (List.range s.blocks.length).any fun b => (s.blk b).ctx == ctx && s.enginesBusy b

/-- Whether a context has drained (R416). -/
def State.drained (s : State) (ctx : Nat) : Bool :=
  !(s.blocks.any fun B => B.ctx == ctx && B.resident) && !s.ctxBusy ctx

/-- Bytes padded with zeros to a length. -/
def padTo (n : Nat) (bs : List Byte) : List Byte := (bs ++ List.replicate (n - bs.length) 0).take n

/-- A window-table entry (R372). -/
def Handle.entry (h : Handle) : List Byte :=
  leBytes 8 h.lbase.toNat ++ leBytes 4 h.lsize.toNat ++ leBytes 1 (if h.valid then 1 else 0) ++ leBytes 1 h.thandle
    ++ leBytes 2 h.tpkg ++ leBytes 2 h.tctx ++ leBytes 14 0

/-- The counts of a handle (R372, R419). -/
def Handle.counts (h : Handle) : List Byte :=
  leBytes 4 h.rcv.toNat ++ leBytes 4 h.ack.toNat ++ leBytes 4 h.issued.toNat ++ leBytes 4 h.err.toNat

/-- A counter record (R47). -/
def Counter.record (c : Counter) : List Byte :=
  leBytes 4 c.count.toNat ++ leBytes 1 c.queue.toNat
    ++ leBytes 1 (match c.st with | .idle => 0 | .armed => 1 | .fired => 2) ++ leBytes 1 (if c.cxl then 1 else 0)
    ++ leBytes 25 0 ++ c.template.flatMap fun w => leBytes 4 w.toNat

/-- Bytes of a field whose layout within it the spec does not state, from a place in the area on: the bytes of the model's
layout under free ones, and those again (R419; assumption 45). -/
def keyed (at_ : Nat) (bs : List Byte) : List Byte := bs.mapIdx fun i b => b ^^^ Config.saveKey (at_ + i)

/-- The translation root with the kinds of the watch ranges in its zero bits, HANDLER, and the ranges (R413, R419). -/
def Ctx.guardBytes (c : Ctx) : List Byte :=
  let kinds := (c.watch.zipIdx.map fun (w, i) => w.kinds.toNat * 8 ^ i).sum
  leBytes 8 (c.root.toNat + kinds) ++ leBytes 8 c.handler.toNat
    ++ c.watch.flatMap fun w => leBytes 8 w.base.toNat ++ leBytes 4 w.len.toNat

/-- Head, entry count, taken count and attributes of a task queue (R419). -/
def TaskQ.counts (q : TaskQ) : List Byte :=
  let taken := (q.entries.filter fun e => e.taken.isSome).length
  padTo 64 (leBytes 4 0 ++ leBytes 4 q.entries.length ++ leBytes 4 taken
    ++ leBytes 1 ((if q.enable then 1 else 0) + if q.redeliver then 2 else 0))

/-- A slot of a task queue; the taken mark is in a bit of FLAGS that no entry has (R30, R419). -/
def QEntry.slot (e : QEntry) : List Byte :=
  let mark : Word := if e.taken.isSome then 0x80000000#32 else 0
  ((e.words.headD 0 ||| mark) :: e.words.tail).flatMap fun w => leBytes 4 w.toNat

def TaskQ.slots (q : TaskQ) : List Byte := padTo 32768 (q.entries.flatMap QEntry.slot)

/-- A fired template; the bits of FLAGS that no entry has hold its queue and that there is one (R49, R419). -/
def firedBytes (q : Nat) (ws : List Word) : List Byte :=
  ((ws.headD 0 ||| 0x80000000#32 ||| BitVec.ofNat 32 (q * 2 ^ 24)) :: ws.tail).flatMap fun w => leBytes 4 w.toNat

/-- The fields of a record that a copy of it holds (R10, R419). -/
def Record.bytes (r : Record) : List Byte :=
  padTo 128 (leBytes 8 r.code.toNat ++ leBytes 4 r.gridX ++ leBytes 2 r.gridY ++ leBytes 2 r.gridZ ++ leBytes 2 r.blkX
    ++ leBytes 1 r.blkY ++ leBytes 1 r.blkZ ++ leBytes 1 r.lregs ++ leBytes 1 r.cls
    ++ leBytes 2 ((if r.persistent then 1 else 0) + if r.sealed_ then 2 else 0) ++ leBytes 4 r.scratch
    ++ leBytes 1 r.gregs ++ leBytes 1 r.sets.length ++ leBytes 1 r.l1min ++ leBytes 1 r.ctx ++ leBytes 8 0
    ++ leBytes 8 r.doneCtr.toNat ++ leBytes 16 0 ++ leBytes 8 r.bindings.length ++ leBytes 8 r.report.toNat
    ++ leBytes 8 r.tag.toNat)

/-- A launch in flight: its record, next block, age and exception counters (R419). -/
def Launch.saved (L : Launch) : List Byte :=
  padTo 256 (L.rcd.bytes ++ leBytes 4 L.next ++ leBytes 8 L.age ++ L.fpx.flatMap fun w => leBytes 4 w.toNat)

/-- The numbers of the launches in flight that a context holds on a die (R419). -/
def State.flights (s : State) (ctx die : Nat) : List Nat :=
  (List.range s.launches.length).filter fun l =>
    let L := s.launch l
    L.inFlight && L.rcd.ctx == ctx && L.home == die

/-- The queues of a context on a die. -/
def Ctx.queuesOf (c : Ctx) (die : Nat) : List TaskQ := (c.queues.drop (16 * die)).take 16

/-- Whether a counter of its task home die is a context's: those of a suspended one are free for others (R419). -/
def State.ownsCounter (s : State) (c : Ctx) (i : Nat) : Bool :=
  let holds (x : Ctx) : Bool := decide (x.cbase ≤ i) && decide (i < x.cbase + x.ccount)
  holds c && !s.ctxs.any fun x => x.id != c.id && x.taskDie == c.taskDie && x.preState != .suspended && holds x

/-- The part of a context's save area that a die writes (R419; assumption 45). -/
def State.savePart (s : State) (ctx die : Nat) : List Byte :=
  let c := s.ctx ctx
  let key (off : Nat) := keyed (die * 0x100000 + off)
  let counter (i : Nat) : List Byte :=
    if c.taskDie = die && s.ownsCounter c i then ((s.die die).counters.getD i default).record else leBytes 64 0
  let queue (q : CmdQ) : List Byte := leBytes 16 (if q.ctx = ctx then q.consumed.toNat else 0)
  let fired := (s.die die).fired.flatMap fun (x, q, ws) => if x = ctx then firedBytes q ws else []
  padTo 64 (leBytes 4 ctx ++ leBytes 4 die ++ leBytes 4 1 ++ leBytes 4 (c.saves + 1).toNat)
    ++ key 0x40 (padTo 64 c.guardBytes) ++ padTo 2048 (c.handles.flatMap Handle.entry)
    ++ padTo 1024 (c.handles.flatMap Handle.counts) ++ leBytes 0x380 0
    ++ key 0x1000 (padTo 1024 ((c.queuesOf die).flatMap TaskQ.counts)) ++ leBytes 0xC00 0
    ++ key 0x2000 (padTo 524288 ((c.queuesOf die).flatMap TaskQ.slots))
    ++ padTo 262144 ((List.range 4096).flatMap counter) ++ key 0xC2000 (padTo 8192 fired)
    ++ key 0xC4000 (padTo 32768 ((s.flights ctx die).flatMap fun l => (s.launch l).saved))
    ++ padTo 2048 ((s.die die).cmdqs.flatMap queue) ++ leBytes 0x33800 0

/-- The counters of a context become as one that the host has not armed (R46, R419). -/
def State.clearCounters (s : State) (c : Ctx) : State :=
  s.updDie c.taskDie fun d =>
    { d with counters := d.counters.mapIdx fun i x => if s.ownsCounter c i then Counter.reset else x }

/-- The save area of a context written, each die's part with a release at system scope; its counters are then free
(R419). -/
def State.writeSave (s : State) (ctx : Nat) : State :=
  let area := (s.ctx ctx).saveArea.toNat
  let s := (List.range Config.dies).foldl (fun (s : State) d =>
    let at_ := area + d * 0x100000
    (s.writePa at_ (s.savePart ctx d)).publish [(at_, 0x100000)] 4 d 0) s
  s.clearCounters (s.ctx ctx)

/-- SAVING: a drained context is saved, and then suspended (R416, R419). -/
def execSaving (ctx : Nat) (s : State) : Host.Outcome State Fault Refusal :=
  match s.ctx? ctx with
  | none => .fault .notEnabled
  | some c =>
    match c.preState with
    | .draining =>
      if s.drained ctx then .next (s.updCtx ctx fun c => { c with preState := .saving, deadline := none })
      else .fault .notEnabled
    | .saving =>
      let s := s.writeSave ctx
      .next ((s.updCtx ctx fun c => { c with preState := .suspended, preResult := 1, saves := c.saves + 1 }).raise
        (.preempted ctx))
    | .running => .fault .notEnabled
    | .suspended => .fault .notEnabled
    | .resetting => .fault .notEnabled
    | .reset => .fault .notEnabled

/-- A step that an abandoned operation may still have made: it is made or not (R418). -/
def State.perhaps (s : State) (f : State → Host.Outcome State Fault Refusal) : State :=
  let (go, s) := s.race
  if go then match f s with
    | .next t => t
    | _ => s
  else s

/-- The engine operations of a context's blocks are abandoned; writes that they still had to make are each made or not
(R418). -/
def State.abandonEngines (s : State) (p : Nat → Bool) : State :=
  let s := (s.copies.filter fun x => p x.blk).foldl (fun s x =>
    (List.range (x.runs.length + 1)).foldl (fun s _ => s.perhaps (execCopyArrival x.id)) s) s
  let commit (s : State) (x : Job) : State :=
    let (n, s) := s.pick 65536
    (List.range n).foldl (fun s _ => match execChunkCommit x.id s with
      | .next t => t
      | _ => s) s
  let s := (s.jobs.filter fun x => p x.blk).foldl commit s
  let s := (s.seqOps.filter fun x => p x.blk).foldl (fun s x => s.perhaps (execSequencerOperation x.id)) s
  let s := (s.mapOps.filter fun x => p x.blk).foldl (fun s x =>
    match x.kind with
    | .comp _ => s.perhaps (execMapcompComplete x.id)
    | .mask _ => s.perhaps (execMapmaskComplete x.id)
    | .last _ => s.perhaps (execMapmaskComplete x.id)
    | .apply _ _ _ => s) s
  let s := (s.walkReqs.filter fun x => p x.blk).foldl (fun s x =>
    match x.kind with
    | .append _ _ => s.perhaps (execKvappComplete x.id)
    | .join _ _ => s.perhaps (execWjoinPerformed x.id)
    | .leave _ _ => s.perhaps (execWleavePerformed x.id)
    | .retire _ => s.perhaps (execWretirePerformed x.id)) s
  let results (s : State) (k : Nat) : State :=
    let (n, s) := s.pick 65536
    (List.range n).foldl (fun s _ => match (s.walkAt k).outs with
      | [] => s
      | y :: _ => s.outStep k y) s
  let s := ((List.range s.walks.length).filter fun k => p (s.walkAt k).blk && !(s.walkAt k).written).foldl results s
  let s := (List.range s.walks.length).foldl (fun s k =>
    if p (s.walks.getD k default).blk then s.perhaps (execWalkComplete k) else s) s
  let mine (f : Frame) : Bool := match f.put with
    | none => false
    | some n => s.puts.any fun x => x.id == n && p x.blk
  let (s, frames) := s.frames.foldl (fun (s, out) f =>
    if !mine f then (s, out ++ [f])
    else
      let (go, s) := s.race
      (s, if go && f.onWay then out ++ [{ f with put := none }] else out)) (s, ([] : List Frame))
  let finish (w : Walk) : Walk := if p w.blk then { w with phase := .complete, written := true, want := none } else w
  { s with copies := s.copies.filter fun x => !p x.blk, jobs := s.jobs.filter fun x => !p x.blk,
           seqOps := s.seqOps.filter fun x => !p x.blk, mapOps := s.mapOps.filter fun x => !p x.blk,
           walkReqs := s.walkReqs.filter fun x => !p x.blk, topkOps := s.topkOps.filter fun x => !p x.blk,
           mrt := s.mrt.filter fun x => !p x.blk, appended := s.appended.filter fun x => !p x.blk,
           puts := s.puts.filter fun x => !p x.blk, frames := frames, walks := s.walks.map finish }

/-- The written bytes of a context go home from every L1, and its lines and code leave the caches (R85, R432). -/
def State.purge (s : State) (ctx : Nat) : State :=
  let s := (List.range s.cores.length).foldl (fun s n => s.cleanLines n fun x => x.ctx == ctx) s
  let drop (c : Core) : Core := { c with l1 := c.l1.filter fun x => x.ctx != ctx }
  { s with cores := s.cores.map drop }.dropCode ctx

/-- The first step of a forced reset: every block of the context is discarded, what it has written is released, for an
observer of the launch's counter, and its launches wait for their end (R384, R418). -/
def State.discardBlocks (s : State) (ctx : Nat) : State :=
  let p (b : Nat) : Bool := (s.blk b).ctx == ctx
  let s := (s.abandonEngines p).settleWrites p
  let s := ((List.range s.blocks.length).filter p).foldl State.releaseBlock s
  let s := s.purge ctx
  let gone (b : Nat) : Bool := match (s.blk b).phase with
    | .gone => true
    | .saved => false
    | .running => false
    | .prologue _ => false
  let s := ((List.range s.blocks.length).filter fun b => p b && !gone b).foldl (fun s b => s.removeBlock b) s
  let hold (L : Launch) : Launch := if L.inFlight && L.rcd.ctx == ctx then { L with phase := .held } else L
  { s with launches := s.launches.map hold, ctrOps := s.ctrOps.filter fun o => o.ctx != ctx,
           stores := s.stores.filter fun x => !p x.blk }

/-- The counters of a context become idle (R418). -/
def Die.idleCounters (d : Die) (base n : Nat) : Die :=
  let idle (i : Nat) (c : Counter) : Counter := if base ≤ i && i < base + n then { c with st := .idle } else c
  { d with counters := d.counters.mapIdx idle }

/-- The rest of a forced reset: queues, buffers and counters are emptied, command queues stop, every launch in flight
ends with FORCED_RESET, and the host is told (R418). -/
def State.endReset (s : State) (ctx : Nat) : State :=
  let c := s.ctx ctx
  let empty (q : TaskQ) : TaskQ := { q with entries := [] }
  let s := s.updCtx ctx fun c => { c with queues := c.queues.map empty }
  let stop (d : Die) : Die :=
    { d with fired := d.fired.filter (fun x => x.1 != ctx),
             cmdqs := d.cmdqs.map fun q => if q.ctx = ctx then { q with stopped := true } else q }
  let s := { s with dies := s.dies.map stop }
  let s := s.updDie c.taskDie fun d => d.idleCounters c.cbase c.ccount
  let s := (List.range s.launches.length).foldl (fun s l =>
    let L := s.launch l
    if L.inFlight && L.rcd.ctx == ctx then
      (s.updLaunch l fun L => { L with status := 14, failBlock := BitVec.allOnes 32, detail := 0 }).complete l
    else s) s
  let s := s.updCtx ctx fun c => { c with preState := .reset, preResult := 3, deadline := none }
  (s.log c.taskDie { kind := 13, ctx := some ctx, die := some c.taskDie, code := 14 }).raise (.forcedReset ctx)

/-- FORCED_RESET (R418). -/
def execForcedReset (ctx : Nat) (s : State) : Host.Outcome State Fault Refusal :=
  match s.ctx? ctx with
  | none => .fault .notEnabled
  | some c =>
    match c.preState with
    | .draining => match c.deadline with
      | none => .fault .notEnabled
      | some t =>
        if s.cycle < t then .fault .notEnabled
        else .next ((s.discardBlocks ctx).updCtx ctx fun c => { c with preState := .resetting })
    | .resetting => .next (s.endReset ctx)
    | .running => .fault .notEnabled
    | .saving => .fault .notEnabled
    | .suspended => .fault .notEnabled
    | .reset => .fault .notEnabled

/-- A handle with its entry and its counts as a save area holds them (R372, R419). -/
def Handle.restore (h : Handle) (e bs : List Byte) : Handle :=
  { h with lbase := BitVec.ofNat 64 (fieldAt e 0 8), lsize := BitVec.ofNat 32 (fieldAt e 8 4),
           valid := fieldAt e 12 1 % 2 == 1, thandle := fieldAt e 13 1, tpkg := fieldAt e 14 2, tctx := fieldAt e 16 2,
           rcv := BitVec.ofNat 32 (fieldAt bs 0 4), ack := BitVec.ofNat 32 (fieldAt bs 4 4),
           issued := BitVec.ofNat 32 (fieldAt bs 8 4), err := BitVec.ofNat 2 (fieldAt bs 12 4) }

/-- A counter as a record holds it (R47). -/
def Counter.restore (bs : List Byte) : Counter :=
  { count := BitVec.ofNat 32 (fieldAt bs 0 4), queue := BitVec.ofNat 6 (fieldAt bs 4 1),
    st := (match fieldAt bs 5 1 with | 1 => .armed | 2 => .fired | _ => .idle), cxl := fieldAt bs 6 1 % 2 == 1,
    template := (List.range 8).map fun i => BitVec.ofNat 32 (fieldAt bs (32 + 4 * i) 4) }

/-- A command queue of a context takes back the consumed count that the save area holds, or keeps its own, since it may
have gone on with commands other than LAUNCH; the count does not go behind one written to QRET (R43, R416, R419;
assumption 45). -/
def State.restoreQueue (s : State) (ctx die q : Nat) : State :=
  let at_ := (s.ctx ctx).saveArea.toNat + die * 0x100000 + 0xCC000 + 16 * q
  let saved := BitVec.ofNat 32 (fieldAt (s.readPa at_ 16) 0 4)
  let c := s.cmdq die q
  if c.ctx = ctx && saved != c.consumed && (saved - c.written).toNat < 2 ^ 31 then
    let (own, s) := s.race
    if own then s else s.updCmdq die q fun c => { c with consumed := saved }
  else s

/-- A task queue as its counts and slots hold it; an entry that its mark says is taken has the taker that it had (R419,
R420). -/
def TaskQ.restore (q : TaskQ) (cs slots : List Byte) : TaskQ :=
  let entry (i : Nat) : QEntry :=
    let w (k : Nat) : Word := BitVec.ofNat 32 (fieldAt slots (32 * i + 4 * k) 4)
    { words := (w 0 &&& 0x7FFFFFFF#32) :: (List.range 7).map fun k => w (k + 1),
      taken := if (w 0).getLsbD 31 then (q.entries.getD i default).taken else none }
  { entries := (List.range (min (fieldAt cs 4 4) Config.taskQueue)).map entry,
    enable := fieldAt cs 12 1 % 2 == 1, redeliver := fieldAt cs 12 1 / 2 % 2 == 1 }

/-- The fired templates that a die's part of a save area holds (R419, R420). -/
def firedOf (ctx : Nat) (bs : List Byte) : List (Nat × Nat × List Word) :=
  (List.range 256).filterMap fun i =>
    let w (k : Nat) : Word := BitVec.ofNat 32 (fieldAt bs (32 * i + 4 * k) 4)
    if (w 0).getLsbD 31 then
      some (ctx, (w 0).toNat / 2 ^ 24 % 64, (w 0 &&& 0x40FFFFFF#32) :: (List.range 7).map fun k => w (k + 1))
    else none

/-- A launch in flight with what a save area holds of it; the tables of its record and its context stay (R419, R420). -/
def Launch.restore (L : Launch) (bs : List Byte) : Launch :=
  let r := recordOf bs
  { L with rcd := { r with ctx := L.rcd.ctx, sets := L.rcd.sets, windows := L.rcd.windows, bindings := L.rcd.bindings },
           next := fieldAt bs 128 4, age := fieldAt bs 132 8,
           fpx := (List.range 24).map fun i => BitVec.ofNat 32 (fieldAt bs (140 + 4 * i) 4) }

/-- HANDLER and the watch ranges as a save area holds them, or as the host has written them since; the root as the area
holds it (R403, R419, R420; assumption 45). -/
def Ctx.restoreGuard (c : Ctx) (own : Bool) (bs : List Byte) : Ctx :=
  let r := fieldAt bs 0 8
  let watch (i : Nat) : Watch :=
    ⟨BitVec.ofNat 64 (fieldAt bs (16 + 12 * i) 8), BitVec.ofNat 32 (fieldAt bs (24 + 12 * i) 4),
      BitVec.ofNat 3 (r / 8 ^ i % 8)⟩
  { c with root := BitVec.ofNat 64 (r / 4096 * 4096),
           handler := if own then c.handler else BitVec.ofNat 64 (fieldAt bs 8 8),
           watch := if own then c.watch else (List.range 4).map watch }

/-- A die restores its part of the save area as it stands (R420; assumption 45). -/
def State.restorePart (s : State) (ctx die : Nat) : State :=
  let c := s.ctx ctx
  let part := c.saveArea.toNat + die * 0x100000
  let field (off n : Nat) : List Byte := keyed (die * 0x100000 + off) (s.readPa (part + off) n)
  let queue (i : Nat) (q : TaskQ) : TaskQ :=
    if i / 16 = die then q.restore (field (0x1000 + 64 * (i % 16)) 64) (field (0x2000 + 32768 * (i % 16)) 32768) else q
  let fired := firedOf ctx (field 0xC2000 8192)
  let launches := (s.flights ctx die).zipIdx.map fun (l, k) => (l, field (0xC4000 + 256 * k) 256)
  let s := s.updCtx ctx fun c => { c with queues := c.queues.mapIdx queue }
  let s := s.updDie die fun d => { d with fired := d.fired.filter (fun x => x.1 != ctx) ++ fired }
  let s := launches.foldl (fun s (l, bs) => s.updLaunch l fun L => L.restore bs) s
  (List.range 128).foldl (fun s q => s.restoreQueue ctx die q) s

/-- The windows, the counters, HANDLER, the watch ranges and the root as the part of the task home die stands (R420). -/
def State.restoreHome (s : State) (ctx : Nat) : State :=
  let c := s.ctx ctx
  let part := c.saveArea.toNat + c.taskDie * 0x100000
  let mem := s.readPa
  let handle (i : Nat) (h : Handle) : Handle := h.restore (mem (part + 0x80 + 32 * i) 32) (mem (part + 0x880 + 16 * i) 16)
  let counter (i : Nat) (x : Counter) : Counter :=
    if s.ownsCounter c i then Counter.restore (mem (part + 0x82000 + 64 * i) 64) else x
  let guards := keyed (c.taskDie * 0x100000 + 0x40) (mem (part + 0x40) 64)
  let s := s.updDie c.taskDie fun d => { d with counters := d.counters.mapIdx counter }
  let (own, s) := s.race
  s.updCtx ctx fun c => { c.restoreGuard own guards with handles := c.handles.mapIdx handle }

/-- A suspended context restored from its save area as it stands (R420; assumption 45). -/
def State.restoreSave (s : State) (ctx : Nat) : State :=
  (List.range s.dies.length).foldl (fun s d => s.restorePart ctx d) (s.restoreHome ctx)

/-- A launch of a context that runs again: a held child may start; a persistent launch already has the blocks that are
to be placed anew (R57, R420). -/
def Launch.resumed (L : Launch) : Launch :=
  match L.phase with
  | .held => { L with phase := .running }
  | .running => L
  | .done => L

/-- RESUME written (R420). -/
def State.writeResume (s : State) (ctx : Nat) : State :=
  match s.ctx? ctx with
  | none => s
  | some c =>
    match c.preState with
    | .suspended =>
      let s := s.restoreSave ctx
      let drop (d : Die) : Die := d.invalidate 0 0 ctx
      let s := { s with dies := s.dies.map drop }
      let s := (List.range s.cores.length).foldl (fun s n => s.applyPending n) s
      let resume (L : Launch) : Launch := if L.rcd.ctx == ctx then L.resumed else L
      let s := { s with launches := s.launches.map resume }
      s.updCtx ctx fun c => { c with preState := .running }
    | .reset => s.updCtx ctx fun c => { c with preState := .running }
    | .running => s
    | .draining => s
    | .saving => s
    | .resetting => s

/-- RESUME (R420). -/
def execResume (ctx : Nat) (s : State) : Host.Outcome State Fault Refusal :=
  let die := (s.ctx ctx).taskDie
  if s.answers? die then .next ((s.touch die).writeResume ctx) else .fault .notEnabled

end Sys2Proof.Machine
end

