-- ==== Sys2Proof/Machine/Put.lean ====
section
/-! DEFINITION. Puts, windows and the window transport (R372 to R379, R421). -/

namespace Sys2Proof.Machine

/-! ### Handles (R372, R377) -/

def Ctx.handle (c : Ctx) (h : Nat) : Handle := c.handles.getD h default

def State.updHandle (s : State) (ctx h : Nat) (f : Handle → Handle) : State :=
  s.updCtx ctx fun c => { c with handles := c.handles.modify h f }

/-- Whether a counter has reached a value (R377). -/
def reached (cur val : Word) : Bool := decide ((cur - val).toNat < 2 ^ 31)

/-- The counter on which a WINWAIT waits: ACK or RCV (R377). -/
def Handle.counter (h : Handle) (ack : Bool) : Word := if ack then h.ack else h.rcv

/-- WINRD (R377). -/
def execWinrd (f : FormDA) (s : State) : Host.Outcome State Fault Refusal :=
  issuing s fun x =>
    x.uniform {} [wop f.d 2, wop f.a] true fun s o w =>
      let sel := w f.a.toNat
      let h := sel.toNat % 64
      let H := (s.ctx x.b.ctx).handle h
      if sel.getLsbD 6 then
        ((s.setW o f.d [H.issued, H.err.setWidth 32]).updHandle x.b.ctx h fun y => { y with err := 0 }, .done)
      else (s.setW o f.d [H.rcv, H.ack], .done)

/-- WINWAIT (R377). -/
def execWinwait (f : FormDAB) (s : State) : Host.Outcome State Fault Refusal :=
  issuing s fun x =>
    x.uniform {} [wop f.d, wop f.a, wop f.b] true fun s o w =>
      let sel := w f.a.toNat
      let h := sel.toNat % 64
      let ack := sel.getLsbD 6
      let c := ((s.ctx x.b.ctx).handle h).counter ack
      if reached c (w f.b.toNat) then ((s.acquire o.blk o.warp 3).setW o f.d [c], .done)
      else
        (s.updWarp o.blk o.warp fun W => { W with wait := some (.window h ack (w f.b.toNat) f.d.toNat) }, .done)

/-- WINWAIT_RELEASE (R377). -/
def execWinwaitRelease (b w : Nat) (s : State) : Host.Outcome State Fault Refusal :=
  s.release? b w fun q =>
    match q with
    | .window h ack val d =>
      let c := ((s.ctx (s.blk b).ctx).handle h).counter ack
      if reached c val then some ((s.acquire b w 3).updWarp b w fun W => W.setReg d c) else none
    | _ => none

/-! ### Posts (R373 to R375) -/

/-- Whether a put record breaks its table (R373). -/
def badPut (signal : Bool) (d : List Byte) : Bool :=
  let n (off len : Nat) : Nat := fieldAt d off len
  n 0 8 % 4 != 0 || (n 17 1 == 1 && n 4 4 != 0) || n 8 4 % 4 != 0 || n 12 4 < 4 || 16777216 < n 12 4 || n 12 4 % 4 != 0
    || 63 < n 16 1 || 1 < n 17 1 || !zeroBytes d 18 2 || (!signal && n 20 4 != 0) || !zeroBytes d 24 8

/-- Whether frames can leave for a target package: it is this one, or its route is valid and the port that it
selects enabled (R379); in Twilight mode no frame leaves the package (R435). -/
def State.canSend (s : State) (tpkg thandle : Nat) : Bool :=
  if tpkg = s.pkgId then true
  else if s.mode == .twilight then false
  else match s.routes.find? fun r => r.pkg == tpkg with
    | none => false
    | some r => tpkg ≤ 4095 && r.valid && (s.ports.getD ((r.first + thandle % r.span) % 16) default).enable

/-- The port by which frames to a handle of a package leave, and their two addresses (R379); none within the package. -/
def State.portOf (s : State) (tpkg thandle : Nat) : Option (Nat × BitVec 48 × BitVec 48) :=
  if tpkg = s.pkgId then none
  else (s.routes.find? fun r => r.pkg == tpkg).map fun r =>
    let p := (r.first + thandle % r.span) % 16
    (p, r.mac, (s.ports.getD p default).mac)

/-- The 14 bytes of the Ethernet header of a frame and the 32 bytes of its own, as it is sent (R378): the numbers of
more than one byte of its own header lie low byte first (assumption 73). -/
def Frame.header (f : Frame) : List Byte :=
  let n (k v : Nat) : List Byte := leBytes k v
  (n 6 f.dstMac.toNat).reverse ++ (n 6 f.srcMac.toNat).reverse ++ (n 2 0x88B5).reverse
    ++ n 1 1 ++ n 1 (if f.signal then 1 else 0) ++ n 2 f.spkg ++ n 2 f.tpkg ++ n 1 f.tctx ++ n 1 f.thandle
    ++ n 4 f.seq.toNat ++ n 4 f.toff ++ n 2 f.len ++ n 2 0 ++ n 4 f.sig.toNat ++ n 4 (f.put.getD 0) ++ n 4 0

/-- The frames of a put: up to 4,096 bytes each, the last one with the signal (R378). -/
def putFrames (f : Frame) (total : Nat) : Nat → Nat → List Frame
  | 0, _ => []
  | n + 1, off =>
    let len := min 4096 (total - off)
    let g := { f with toff := f.toff + off, src := f.src + off, len := len,
                      signal := f.signal && decide (total ≤ off + 4096),
                      sig := if total ≤ off + 4096 then f.sig else 0 }
    if total ≤ off + 4096 then [g] else g :: putFrames f total n (off + 4096)

/-- The next sequence number of the frames to a package (R378). -/
def State.nextSeq (s : State) (pkg : Nat) : Word := ((s.frameSeq.find? fun p => p.1 == pkg).map (·.2)).getD 0

/-- Gives frames their names and puts them in flight, to be read and sent. -/
def State.addFrames (s : State) (fs : List Frame) : State :=
  fs.foldl (fun s f =>
    let (id, s) := s.fresh
    { s with frames := s.frames ++ [{ f with id := id }] }) s

/-- A put completes: ACK rises, and a failure is kept in ERR and logged (R375, R376). -/
def State.putDone (s : State) (p : PutOp) : State :=
  let s := { s with puts := s.puts.filter fun x => x.id != p.id, frames := s.frames.filter fun f => f.put != some p.id }
  let s := s.updHandle p.ctx p.win fun h =>
    { h with ack := h.ack + 1, err := if p.failed then h.err ||| 1 else h.err }
  if p.failed then
    s.logBlk p.blk (some p.warp) { kind := 8, code := p.code, addr := p.faddr.toNat, aux := p.win }
  else s

/-- A put is posted (R375): its release, its sequence, and its frames; one that cannot be sent fails at once
(R379). -/
def State.postPut (s : State) (o : Who) (d : BitVec 6) (signal : Bool) (r : List Byte) (ms : Nat) : State :=
  let n (off len : Nat) : Nat := fieldAt r off len
  let win := n 16 1
  let s := s.releaseLanes o.blk o.warp o.mask ms
  let ctx := (s.blk o.blk).ctx
  let H := (s.ctx ctx).handle win
  let s := (s.setW o d [H.issued]).updHandle ctx win fun h => { h with issued := h.issued + 1 }
  let (id, s) := s.fresh
  let tpkg := if H.tpkg = 0xFFFF then s.pkgId else H.tpkg
  let covers := (s.puts.filter fun p => p.blk == o.blk && p.win == win).map (·.id)
  let p : PutOp := ⟨id, o.blk, o.warp, ctx, win, covers, false, 0, 0⟩
  let s := { s with puts := s.puts ++ [p] }
  if !s.canSend tpkg H.thandle then s.putDone { p with failed := true }
  else
    let (port, dst, src) := match s.portOf tpkg H.thandle with
      | some (p, d, c) => (some p, d, c)
      | none => (none, 0, 0)
    let f : Frame :=
      { id := 0, put := some id, signal := signal, spkg := s.pkgId, tpkg := tpkg, tctx := H.tctx,
        thandle := H.thandle, seq := 0, toff := n 8 4, last := n 8 4 + n 12 4,
        src := if n 17 1 = 1 then n 0 4 else n 0 8, srcSp := n 17 1 == 1, len := 0, data := none,
        sig := BitVec.ofNat 32 (n 20 4), sent := 0, tries := 0, onWay := false, port := port, dstMac := dst,
        srcMac := src }
    s.addFrames (putFrames f (n 12 4) 4096 0)

/-- PUT and PUTSIG: the checks of R307 and R373, and the post. -/
def putOp (f : FormDA) (signal : Bool) (s : State) : Host.Outcome State Fault Refusal :=
  issuing s fun x =>
    x.uniform { ord := [2] } [wop f.d, wop f.a] true fun s o w =>
      let off := (w f.a.toNat).toNat
      if s.deqBlocks o.blk o.warp o.mask then (s, .wait)
      else
      let s := s.orderBytes o true off 32
      let B := s.blk o.blk
      match spCheckAt B.spSize off 16 32 with
      | some (c, a) => (s, .fault c a)
      | none =>
        let r := B.readSp off 32
        let win := fieldAt r 16 1
        if badPut signal r then (s, .fault .engine (BitVec.ofNat 64 off))
        else if !((s.ctx B.ctx).handle win).valid then (s, .fault .engine (BitVec.ofNat 64 win))
        else (s.postPut o f.d signal r (x.postScope 2), .done)

def execPut (f : FormDA) (s : State) := putOp f false s
def execPutsig (f : FormDA) (s : State) := putOp f true s

/-! ### The transport (R375, R376, R378, R421) -/

/-- Reads words of a source, up to a number of them or the first fault, with its cause code (R376). -/
def State.putRead (s : State) (b : Nat) (f : Frame) : Nat → Nat → State × List Byte × Option (Nat × DWord)
  | 0, _ => (s, [], none)
  | n + 1, i =>
    let B := s.blk b
    let a := f.src + 4 * i
    let word : State × Sum (Nat × DWord) (List Byte) :=
      if f.srcSp then
        if B.spSize < a + 4 then (s, .inl (Cause.code .prot, BitVec.ofNat 64 a))
        else if B.spPoisoned a 4 then (s, .inl (Cause.code .poison, BitVec.ofNat 64 a))
        else (s, .inr (B.readSp a 4))
      else
        let va : DWord := BitVec.ofNat 64 a
        match s.xlate B.die B.ctx va 4 .load with
        | (s, .fault c) => (s, .inl (c.code, va))
        | (s, .ok _ pa) =>
          if s.poisoned pa 4 then (s, .inl (Cause.code .poison, va))
          else (s.touchHost B.die pa 4, .inr (s.readPa pa 4))
    match word with
    | (s, .inl e) => (s, [], some e)
    | (s, .inr w) =>
      match State.putRead s b f n (i + 1) with
      | (s, ws, e) => (s, w ++ ws, e)

def State.updFrame (s : State) (id : Nat) (g : Frame → Frame) : State :=
  { s with frames := s.frames.map fun f => if f.id == id then g f else f }

/-- The bytes of a frame are read: DLEN counts them, none of a signal whose put has failed (R378; assumption 73). -/
def Frame.read (f : Frame) (bs : List Byte) : Frame := { f with data := some bs, len := bs.length }

/-- The transport reads the bytes of a frame. A fault ends the put: some of the words before it may still be sent, no
other frame is read, and a signal is still sent (R376). -/
def State.readFrame (s : State) (f : Frame) : State :=
  match s.puts.find? fun p => f.put == some p.id with
  | none => s
  | some p =>
    match s.putRead p.blk f (f.len / 4) 0 with
    | (s, bs, none) => s.updFrame f.id fun g => g.read bs
    | (s, bs, some (code, a)) =>
      let (k, s) := s.pick (bs.length / 4 + 1)
      let fail (q : PutOp) : PutOp := if q.id == p.id then { q with failed := true, code := code, faddr := a } else q
      let cut (g : Frame) : Frame :=
        if g.id == f.id then g.read (bs.take (4 * k))
        else if g.put == some p.id && g.data.isNone then g.read [] else g
      let keep (g : Frame) : Bool := !(g.put == some p.id && g.data.isNone && !g.signal && g.id != f.id)
      { s with puts := s.puts.map fail, frames := (s.frames.filter keep).map cut }

/-- Whether the target has already taken a frame (R378). -/
def State.taken (s : State) (f : Frame) : Bool := f.numbered && s.seen.contains (f.spkg, f.seq)

/-- The frames in flight of a frame's own put and of the puts that its signal covers, without itself (R375). -/
def State.fellows (s : State) (f : Frame) (id : Nat) : List Frame :=
  let covers := ((s.puts.find? fun p => p.id == id).map (·.covers)).getD []
  s.frames.filter fun g => g.id != f.id && match g.put with | some j => j == id || covers.contains j | none => false

/-- A frame is sent and gets its sequence number: the next one of its pair of packages, so that no number is skipped
(R378). -/
def State.sendFrame (s : State) (f : Frame) : State :=
  let q := s.nextSeq f.tpkg
  { s.updFrame f.id (fun g => { g with seq := q, numbered := true, sent := s.cycle, onWay := true }) with
    frameSeq := s.frameSeq.filter (fun p => p.1 != f.tpkg) ++ [(f.tpkg, q + 1)] }

/-- Whether a frame that has been read may be sent: a signal after the frames that it follows (assumption 74). -/
def State.maySend (s : State) (f : Frame) : Bool :=
  !f.signal || match f.put with
    | some id => (s.fellows f id).all (·.numbered)
    | none => false

/-- Whether a sequence number comes before another, within half of the numbers. -/
def seqBefore (p q : Word) : Bool := p != q && decide ((q - p).toNat < 2 ^ 31)

/-- Whether a frame in flight here or still on the wire is of the same origin and for the same handle as a signal, and
was sent before it: it may belong to the puts that the signal covers (R378). -/
def State.stillComes (s : State) (f : Frame) : Bool :=
  (s.frames.any fun g => g.put.isNone && g.spkg == f.spkg && g.tctx == f.tctx && g.thandle == f.thandle
      && seqBefore g.seq f.seq && !s.taken g)
    || s.wire.any fun x =>
      let n (off len : Nat) : Nat := fieldAt x.header off len
      n 0 1 == 1 && n 1 1 ≤ 1 && n 2 2 == f.spkg && n 4 2 == s.pkgId && n 6 1 == f.tctx && n 7 1 == f.thandle
        && seqBefore (BitVec.ofNat 32 (n 8 4)) f.seq && !s.seen.contains (f.spkg, BitVec.ofNat 32 (n 8 4))

/-- Whether a number before a frame's own has not been taken: the one before it, or before one that has been. -/
def State.numberMissing (s : State) (f : Frame) : Bool :=
  (f.seq :: (s.seen.filter fun p => p.1 == f.spkg && seqBefore p.2 f.seq).map (·.2)).any fun q =>
    q != 0 && seqBefore (q - 1) f.seq && !s.seen.contains (f.spkg, q - 1)

/-- The time within which a frame may be sent again: its sending and 16 retries, 20 µs each (R378). -/
def retryCycles : Nat := 17 * (20 * Config.usCycles)

/-- Whether a signal may be applied: every other frame of its put and of the puts that it covers has been. Of another
package's put, the header does not say which those are: no frame that was sent before it for its handle is on its way,
and no number before its own is missing that may still be sent again (R375, R376, R378; assumption 74). -/
def State.signalReady (s : State) (f : Frame) : Bool :=
  match f.put with
  | some id => (s.fellows f id).all s.taken
  | none => !s.stillComes f && (!s.numberMissing f || decide (f.sent + retryCycles ≤ s.cycle))

/-- The numbers that a target remembers once it takes one more: those of the last half of the numbers (R378). -/
def State.remember (s : State) (pkg : Nat) (q : Word) : List (Nat × Word) :=
  let newest := (s.seen.filter fun p => p.1 == pkg).foldl (fun m p => if seqBefore m p.2 then p.2 else m) q
  s.seen.filter (fun p => p.1 != pkg || p.2 == newest || seqBefore p.2 newest) ++ [(pkg, q)]

/-- Whether a context takes frames (R421). -/
def State.takesFrames (s : State) (ctx : Nat) : Bool :=
  match s.ctx? ctx with
  | none => false
  | some c => c.preState == .running || c.preState == .draining

/-- The answer to a frame: on its way to its origin here, or to another package, where this one sees no more of
it. -/
def State.answer (s : State) (f : Frame) (ok : Bool) : State :=
  if f.put.isSome then { s.updFrame f.id (fun g => { g with onWay := false }) with answers := s.answers ++ [(f.id, ok)] }
  else { s with frames := s.frames.filter fun g => g.id != f.id }

/-- Whether the bytes of a frame may be written at its target: its handle is valid and its put lies within the region
(R375). -/
def State.landsAt (s : State) (f : Frame) : Bool :=
  let H := (s.ctx f.tctx).handle f.thandle
  H.valid && decide (f.last ≤ H.lsize.toNat)

/-- The target's error bit is set (R375). -/
def State.landBad (s : State) (f : Frame) : State :=
  s.updHandle f.tctx f.thandle fun h => { h with err := h.err ||| 2 }

/-- The words of a frame that have still to be written. -/
def Frame.wordsLeft (f : Frame) : List Nat := f.left.getD (List.range ((f.data.getD []).length / 4))

/-- One word of a frame written at its target (R375). -/
def State.landWord (s : State) (f : Frame) (k : Nat) : State :=
  let die := (s.ctx f.tctx).taskDie
  let va := ((s.ctx f.tctx).handle f.thandle).lbase + BitVec.ofNat 64 (f.toff + 4 * k)
  let s := s.updFrame f.id fun g => { g with left := some (g.wordsLeft.filter (· != k)) }
  match s.xlate die f.tctx va 4 .store with
  | (s, .fault _) => s.landBad f
  | (s, .ok _ pa) =>
    (s.writePa pa (((f.data.getD []).drop (4 * k)).take 4)).updHandle f.tctx f.thandle fun h =>
      { h with sectors := addSector h.sectors (pa / 64) }

/-- Whether words of a frame may be written one by one before it is answered: the writes of a put are unordered
(R375); those of a signal's frame only once it may be applied (R378). -/
def State.mayLand (s : State) (f : Frame) : Bool :=
  f.tpkg == s.pkgId && f.onWay && f.data.isSome && s.takesFrames f.tctx && !s.taken f && s.landsAt f
    && (!f.signal || s.signalReady f)

/-- The bytes of a frame at its target that have still to be written: written where they may be, else the target's
error bit (R375). -/
def State.landBytes (s : State) (f : Frame) (bs : List Byte) : State :=
  let H := (s.ctx f.tctx).handle f.thandle
  let bad (s : State) : State := s.landBad f
  if bs.isEmpty then s
  else if !s.landsAt f then bad s
  else if f.left.isSome then f.wordsLeft.foldl (fun s k => s.landWord f k) s
  else
    let die := (s.ctx f.tctx).taskDie
    let va := H.lbase + BitVec.ofNat 64 f.toff
    match s.xlateRange die f.tctx .store (rangeFuel bs.length) va bs.length with
    | (s, _, some _) => bad s
    | (s, rs, none) =>
      let secs := rs.flatMap fun (_, pa, n, _) => sectorsOf pa n
      (s.writeRuns rs bs).updHandle f.tctx f.thandle fun h => { h with sectors := secs.foldl addSector h.sectors }

/-- A signal at its target: a release at package scope of what the handle has received, and RCV (R375). -/
def State.landSignal (s : State) (f : Frame) : State :=
  let H := (s.ctx f.tctx).handle f.thandle
  (s.deliver (Sig.ofSectors H.sectors) 3 0 0 none).updHandle f.tctx f.thandle fun h =>
    { h with rcv := h.rcv + f.sig, sectors := [] }

/-- A frame arrives: a context that does not run refuses it (R421), one taken before is answered again, else it
is applied once and answered (R378). -/
def State.landFrame (s : State) (f : Frame) : State :=
  if !s.takesFrames f.tctx then s.answer f false
  else if s.taken f then s.answer f true
  else
    let s := s.landBytes f (f.data.getD [])
    let s := if f.signal then s.landSignal f else s
    ({ s with seen := s.remember f.spkg f.seq }).answer f true

/-- A frame of another package arrives: one of another version or for another package is discarded, unanswered; no
frame arrives in Twilight mode (R379, R435). -/
def State.arrive (s : State) (x : WireFrame) : State :=
  let s := { s with wire := s.wire.filter fun y => y.id != x.id }
  let n (off len : Nat) : Nat := fieldAt x.header off len
  if n 0 1 != 1 || n 4 2 != s.pkgId || s.mode != .service then s
  else
    let (id, s) := s.fresh
    let f : Frame :=
      { id := id, put := none, signal := n 1 1 == 1, spkg := n 2 2, tpkg := n 4 2, tctx := n 6 1, thandle := n 7 1,
        seq := BitVec.ofNat 32 (n 8 4), toff := n 12 4, last := n 12 4 + n 16 2, src := 0, srcSp := false, len := n 16 2,
        data := some (x.data.take (n 16 2)), sig := BitVec.ofNat 32 (n 20 4), sent := s.cycle, tries := 0, onWay := true,
        numbered := true }
    { s with frames := s.frames ++ [f] }

/-- A step of a frame: its bytes are read, it is sent, or it lands at this package; or a frame of another package
arrives. -/
def State.frameStep (s : State) (k : Nat) (signal : Bool) : Host.Outcome State Fault Refusal :=
  match s.frames.find? fun f => f.id == k && f.signal == signal with
  | none => opOf s.wire (fun x => x.id == k && (fieldAt x.header 1 1 == 1) == signal && fieldAt x.header 1 1 ≤ 1) fun x =>
      .next (s.arrive x)
  | some f =>
    if f.data.isNone then .next (s.readFrame f)
    else if !f.numbered then if s.maySend f then .next (s.sendFrame f) else .fault .notEnabled
    else if f.tpkg != s.pkgId || !f.onWay || (f.signal && !s.taken f && s.takesFrames f.tctx && !s.signalReady f) then
      .fault .notEnabled
    else .next (s.landFrame f)

/-- DATA (R378). -/
def execData (k : Nat) (s : State) := s.frameStep k false

/-- DATA_SIGNAL (R375, R378). -/
def execDataSignal (k : Nat) (s : State) := s.frameStep k true

/-- A frame leaves flight; the put whose last one it was completes. -/
def State.frameDone (s : State) (f : Frame) : State :=
  let s := { s with frames := s.frames.filter fun g => g.id != f.id }
  match s.puts.find? fun p => f.put == some p.id with
  | none => s
  | some p => if s.frames.any fun g => g.put == some p.id then s else s.putDone p

/-- Takes an answer off its way; an answer from another package may come at any time. -/
def State.takeAnswer (s : State) (k : Nat) (ok : Bool) : Option State :=
  if s.answers.contains (k, ok) then some { s with answers := s.answers.erase (k, ok) }
  else if s.frames.any fun f => f.id == k && f.put.isSome && f.tpkg != s.pkgId && f.numbered then some s
  else none

/-- ACK (R378). -/
def execAck (k : Nat) (s : State) : Host.Outcome State Fault Refusal :=
  match s.takeAnswer k true with
  | none => .fault .notEnabled
  | some s =>
    match s.frames.find? fun f => f.id == k with
    | none => .next s
    | some f => .next (s.frameDone f)

/-- A frame is sent again, or after 16 retries its put fails, nothing being added at the target (R376, R378). -/
def State.retry (s : State) (f : Frame) : State :=
  if f.tries < 16 then s.updFrame f.id fun g => { g with tries := g.tries + 1, sent := s.cycle, onWay := true }
  else match s.puts.find? fun p => f.put == some p.id with
    | none => s
    | some p => s.putDone { p with failed := true }

/-- NACK (R421). -/
def execNack (k : Nat) (s : State) : Host.Outcome State Fault Refusal :=
  match s.takeAnswer k false with
  | none => .fault .notEnabled
  | some s =>
    match s.frames.find? fun f => f.id == k with
    | none => .next s
    | some f => .next (s.retry f)

/-- RETRY_TIMEOUT: a frame to another package has had no acknowledgement for 20 µs (R378). -/
def execRetryTimeout (k : Nat) (s : State) : Host.Outcome State Fault Refusal :=
  opOf s.frames (fun f => f.id == k && f.put.isSome && f.numbered && f.tpkg != s.pkgId && decide (f.sent + 20 * Config.usCycles ≤ s.cycle))
    fun f => .next (s.retry f)

end Sys2Proof.Machine
end

