-- ==== Sys2Proof/Machine/Manage.lean ====
section
/-! DEFINITION. The management space (R427, R428), the mailbox and its commands (R429 to R433), bring-up, power and
idle states (R434 to R437), links (R39), host writes to memory (R388), and memory errors (R81, R422). -/

namespace Sys2Proof.Machine

/-! ### Register blocks as bytes

Each block is read as bytes; a write puts its bytes in place, and the fields that software may write are taken back.
Reserved bytes and read-only fields of a write are so ignored (R428). -/

/-- A block of registers with a write of some bytes in place. -/
def overlaid (regs : List Byte) (off size : Nat) (v : DWord) : List Byte := putBytes regs off (leBytes size v.toNat)

/-- Whether a write covers a field. -/
def covers (off size lo n : Nat) : Bool := overlap off size lo n

def u64 (bs : List Byte) (off : Nat) : DWord := BitVec.ofNat 64 (fieldAt bs off 8)

def u32 (bs : List Byte) (off : Nat) : Word := BitVec.ofNat 32 (fieldAt bs off 4)

/-- A queue's registers (R41); QPROD is write only. -/
def CmdQ.regs (q : CmdQ) : List Byte :=
  let stat := (if q.stopped then 1 else 0) + (if q.overrun then 2 else 0) + (if q.cmdFault then 4 else 0)
  leBytes 8 q.base.toNat ++ leBytes 8 q.ret.toNat ++ leBytes 1 q.ctx ++ leBytes 1 q.flags.toNat ++ leBytes 10 0
    ++ leBytes 4 stat

/-- A write to a queue's registers (R41, R42). -/
def State.writeCmdq (s : State) (die q off size : Nat) (v : DWord) : State :=
  let bs := overlaid (s.cmdq die q).regs off size v
  let s := s.updCmdq die q fun c => { c with base := u64 bs 0, ret := u64 bs 8, ctx := fieldAt bs 16 1 }
  let s := if covers off size 17 1 then s.writeQflags die q (BitVec.ofNat 8 (fieldAt bs 17 1)) else s
  if covers off size 24 4 then s.writeQprod die q (u32 bs 24) else s

/-- The invalidation block (R76). -/
def Die.ivRegs (d : Die) : List Byte :=
  leBytes 8 d.vbase.toNat ++ leBytes 4 d.nunits.toNat ++ leBytes 1 d.ivctx.toNat ++ leBytes 3 0
    ++ leBytes 8 d.ivdone.toNat ++ leBytes 8 0

/-- A write to the invalidation block; 1 in GO starts (R76). -/
def State.writeIv (s : State) (die off size : Nat) (v : DWord) : State :=
  let bs := overlaid (s.die die).ivRegs off size v
  let s := s.updDie die fun d =>
    { d with vbase := u64 bs 0, nunits := u32 bs 8, ivctx := BitVec.ofNat 8 (fieldAt bs 12 1) }
  if covers off size 13 1 && fieldAt bs 13 1 % 2 == 1 then s.goInvalidate die else s

/-- The error-log block (R423). -/
def Die.elRegs (d : Die) : List Byte := leBytes 8 d.elbase.toNat ++ leBytes 4 d.eln.toNat ++ leBytes 4 d.elseq.toNat

/-- Whether a number is a power of two up to a bound. -/
def powerTo (max n : Nat) : Bool := (List.range 17).any fun i => n == 2 ^ i && n ≤ max

/-- A write to the error-log block; values outside the table are ignored (R423). -/
def State.writeEl (s : State) (die off size : Nat) (v : DWord) : State :=
  s.updDie die fun d =>
    let bs := overlaid d.elRegs off size v
    { d with elbase := if (u64 bs 0).toNat % 64 = 0 then u64 bs 0 else d.elbase,
             eln := if powerTo 65536 (u32 bs 8).toNat then u32 bs 8 else d.eln }

def Watch.bytes (w : Watch) : List Byte :=
  leBytes 8 w.base.toNat ++ leBytes 4 w.len.toNat ++ leBytes 1 w.kinds.toNat ++ leBytes 3 0

def PreState.code : PreState → Nat
  | .running => 0
  | .draining => 1
  | .saving => 2
  | .suspended => 3
  | .resetting => 4
  | .reset => 5

/-- A context's control block (R403, R413). -/
def Ctx.controlRegs (c : Ctx) : List Byte :=
  leBytes 8 c.handler.toNat ++ leBytes 8 c.saveArea.toNat ++ (c.dl.flatMap fun w => leBytes 4 w.toNat)
    ++ leBytes 1 c.preState.code ++ leBytes 1 0 ++ leBytes 1 c.preCls ++ leBytes 1 c.preResult
    ++ leBytes 4 c.wdog.toNat ++ leBytes 24 0 ++ c.watch.flatMap Watch.bytes

/-- A write to a control block; RESUME and SVCREPLY act (R157, R403, R420). -/
def State.writeControl (s : State) (ctx off size : Nat) (v : DWord) : State :=
  let bs := overlaid (s.ctx ctx).controlRegs off size v
  let watch (i : Nat) : Watch := ⟨u64 bs (0x40 + 16 * i), u32 bs (0x48 + 16 * i), BitVec.ofNat 3 (fieldAt bs (0x4C + 16 * i) 1)⟩
  let s := s.updCtx ctx fun c => { c with
    handler := u64 bs 0, saveArea := u64 bs 8, dl := (List.range 4).map fun i => u32 bs (16 + 4 * i),
    wdog := u32 bs 0x24, watch := (List.range 4).map watch }
  let s := if covers off size 0x21 1 && fieldAt bs 0x21 1 % 2 == 1 then s.writeResume ctx else s
  if covers off size 0x28 4 then s.writeSvcreply ctx (u32 bs 0x28) else s

/-- A context's exception block (R182). -/
def Ctx.exceptionRegs (c : Ctx) : List Byte :=
  (c.thresh.flatMap fun w => leBytes 4 w.toNat) ++ leBytes 8 c.cring.toNat ++ leBytes 4 c.cringN.toNat
    ++ leBytes 4 c.cringSeq.toNat ++ leBytes 16 0

/-- A write to a context's exception block; a CRING or CRINGN outside its encoding is stored and used as written
(R182; assumption 87). -/
def Ctx.writeException (c : Ctx) (off size : Nat) (v : DWord) : Ctx :=
  let bs := overlaid c.exceptionRegs off size v
  { c with thresh := (List.range 24).map fun i => u32 bs (4 * i), cring := u64 bs 0x60, cringN := u32 bs 0x68 }

/-- A window-table entry written; its counts are zero at registration (R372). -/
def Handle.write (h : Handle) (off size : Nat) (v : DWord) : Handle :=
  let bs := overlaid h.entry off size v
  let valid := fieldAt bs 12 1 % 2 == 1
  let h := { h with lbase := u64 bs 0, lsize := u32 bs 8, valid := valid, thandle := fieldAt bs 13 1,
                    tpkg := fieldAt bs 14 2, tctx := fieldAt bs 16 2 }
  if covers off size 12 1 && valid then { h with rcv := 0, ack := 0, issued := 0, err := 0, sectors := [] } else h

/-- A write to the blocks of a context: control, exception, window table (R427). -/
def State.writeCtx (s : State) (ctx off size : Nat) (v : DWord) : State :=
  if off < 0x80 then s.writeControl ctx off size v
  else if off < 0x100 then s.updCtx ctx fun c => c.writeException (off - 0x80) size v
  else if 0x800 ≤ off then
    s.updHandle ctx ((off - 0x800) / 32) fun h => h.write ((off - 0x800) % 32) size v
  else s

/-- The blocks of a context as bytes. -/
def Ctx.regs (c : Ctx) : List Byte :=
  c.controlRegs ++ c.exceptionRegs ++ List.replicate 0x700 0 ++ c.handles.flatMap Handle.entry

/-- A cluster's engine health block (R272), read only. -/
def Cluster.healthRegs (c : Cluster) : List Byte :=
  leBytes 1 c.suspect.toNat ++ leBytes 1 c.fenced.toNat ++ leBytes 2 0 ++ leBytes 4 c.tests.toNat
    ++ leBytes 4 c.fails.toNat ++ leBytes 4 0

def Port.regs (p : Port) : List Byte := leBytes 6 p.mac.toNat ++ leBytes 1 (if p.enable then 1 else 0) ++ leBytes 9 0

def Route.regs (r : Route) : List Byte :=
  leBytes 6 r.mac.toNat ++ leBytes 1 r.first ++ leBytes 1 (r.span - 1 + if r.valid then 128 else 0)

/-- The route to a package as the block holds it; one never written reads zero (assumption 3). -/
def State.routeOf (s : State) (k : Nat) : Route := (s.routes.find? fun r => r.pkg == k).getD ⟨k, 0, 0, 1, false⟩

/-- A write to the scale-out block (R379). -/
def State.writeScaleOut (s : State) (off size : Nat) (v : DWord) : State :=
  if covers off size 0 2 then { s with pkgId := v.toNat % 4096 }
  else if 0x100 ≤ off && off < 0x200 then
    let put (p : Port) : Port :=
      let bs := overlaid p.regs (off % 16) size v
      ⟨BitVec.ofNat 48 (fieldAt bs 0 6), fieldAt bs 6 1 % 2 == 1⟩
    { s with ports := s.ports.modify ((off - 0x100) / 16) put }
  else if 0x8000 ≤ off then
    let k := (off - 0x8000) / 8
    let bs := overlaid (s.routeOf k).regs (off % 8) size v
    let r : Route := ⟨k, BitVec.ofNat 48 (fieldAt bs 0 6), fieldAt bs 6 1 % 16, fieldAt bs 7 1 % 16 + 1, 128 ≤ fieldAt bs 7 1⟩
    { s with routes := s.routes.filter (fun x => x.pkg != k) ++ [r] }
  else s

/-- A write to a counter record: one that covers COUNT arms, any other changes QUEUE or TEMPLATE (R47). -/
def State.writeCounter (s : State) (die off size : Nat) (v : DWord) : State :=
  let no := off / 64
  let c := (s.die die).counters.getD no default
  if off % 64 = 0 then s.armCounter die no (c.written size v)
  else
    let bs := overlaid c.record (off % 64) size v
    let c := { c with queue := BitVec.ofNat 6 (fieldAt bs 4 1),
                      template := (List.range 8).map fun i => u32 bs (32 + 4 * i) }
    s.updDie die fun d => { d with counters := d.counters.set no c }

/-- A write to the mailbox: command bytes, or the doorbell, which is ignored while a command of the same mailbox is being
performed (R429). -/
def State.writeMailbox (s : State) (die off size : Nat) (v : DWord) : State :=
  if off < 0x80 then s.updDie die fun d => { d with mbcmd := overlaid d.mbcmd off size v }
  else if covers off size 0xC0 4 && !s.mbox.any (·.1 == die) then { s with doorbells := s.doorbells ++ [die] }
  else s

/-- A write of 4 or 8 bytes, naturally aligned, to a die's management space (R427, R428). -/
def State.writeManagement (s : State) (die off size : Nat) (v : DWord) : State :=
  if 0x1000 ≤ off && off < 0x10C8 then s.writeMailbox die (off - 0x1000) size v
  else if 0x10000 ≤ off && off < 0x11000 then s.writeCmdq die ((off - 0x10000) / 32) (off % 32) size v
  else if 0x20000 ≤ off && off < 0x20020 then s.writeIv die (off - 0x20000) size v
  else if 0x21000 ≤ off && off < 0x21010 then s.writeEl die (off - 0x21000) size v
  else if 0x30000 ≤ off && off < 0x70000 then
    let c := (off - 0x30000) / 0x1000
    if (s.ctx? c).any fun x => x.taskDie == die then s.writeCtx c (off % 0x1000) size v else s
  else if 0xC0000 ≤ off && off < 0xD0000 then (if die = 0 then s.writeScaleOut (off - 0xC0000) size v else s)
  else if 0x100000 ≤ off && off < 0x140000 then s.writeCounter die (off - 0x100000) size v
  else s

/-- Whether the device answers management accesses at all (R437). -/
def State.powered (s : State) : Bool := match s.mode with | .off => false | .twilight => true | .service => true

/-- Whether an access has a size and alignment that R428 allows. -/
def managed (off size : Nat) : Bool := (size == 4 || size == 8) && off % size == 0

/-- Whether a write arms a counter that would fire into a full buffer, for which it waits (R47, R49). -/
def State.writeWaits (s : State) (die off : Nat) (v : DWord) : Bool :=
  0x100000 ≤ off && off < 0x140000 && off % 64 == 0 && s.armWaits die v

/-- MANAGEMENT_WRITE (R427, R428, R434). -/
def execManagementWrite (die off size : Nat) (v : DWord) (s : State) : Host.Outcome State Fault Refusal :=
  if !s.powered || Config.dies ≤ die || (managed off size && s.answers? die && s.writeWaits die off v) then
    .fault .notEnabled
  else
    let s := s.touch die
    .next (if managed off size && s.answers? die then s.writeManagement die off size v else s)

/-! ### Reads (R427, R428, R434) -/

/-- The capability block (R434). -/
def State.capability (s : State) (die : Nat) : List Byte :=
  let d := s.die die
  let up := s.mode == .service
  leBytes 4 0x880 ++ leBytes 1 (if up then 2 else 1) ++ leBytes 1 (if up then 15 else 1)
    ++ leBytes 2 (if up then 1000 else 500) ++ leBytes 4 (if up then 0x003FFFFF else mxfmtTwilight)
    ++ leBytes 1 (if up then 0x7F else 0x18) ++ leBytes 1 (popcount (d.hostUp.setWidth 32)) ++ leBytes 1 d.trained.toNat
    ++ leBytes 1 0 ++ leBytes 4 (if up then 32 else 0) ++ leBytes 4 (if up || die = 0 then 128 else 0)

/-- Bytes of a register block from an offset on, zero past its end. -/
def regNat (regs : List Byte) (off size : Nat) : Nat := fieldAt regs off size

/-- What a management read returns (R428); a context's blocks read zero but on its task home die. -/
def State.readManagement (s : State) (die off size : Nat) : Nat :=
  let d := s.die die
  if !s.powered || !managed off size then 0
  else if off < 0x100 then regNat (s.capability die) off size
  else if !s.answers? die then 0
  else if 0x1000 ≤ off && off < 0x10C8 then
    regNat (d.mbcmd ++ d.mbrsp ++ leBytes 4 0 ++ leBytes 4 d.mbdone.toNat) (off - 0x1000) size
  else if 0x10000 ≤ off && off < 0x11000 then regNat (s.cmdq die ((off - 0x10000) / 32)).regs (off % 32) size
  else if 0x20000 ≤ off && off < 0x20020 then regNat d.ivRegs (off - 0x20000) size
  else if 0x21000 ≤ off && off < 0x21010 then regNat d.elRegs (off - 0x21000) size
  else if 0x30000 ≤ off && off < 0x70000 then
    match s.ctx? ((off - 0x30000) / 0x1000) with
    | none => 0
    | some c => if c.taskDie = die then regNat c.regs (off % 0x1000) size else 0
  else if 0x80000 ≤ off && off < 0x80180 then
    regNat (s.cluster (clusterNo die ((off - 0x80000) / 16))).healthRegs (off % 16) size
  else if 0xC0000 ≤ off && off < 0xD0000 then
    if die != 0 then 0
    else if off < 0xC0100 then regNat (leBytes 2 s.pkgId ++ leBytes 6 0) (off - 0xC0000) size
    else if off < 0xC0200 then regNat (s.ports.getD ((off - 0xC0100) / 16) default).regs (off % 16) size
    else if 0xC8000 ≤ off then regNat (s.routeOf ((off - 0xC8000) / 8)).regs (off % 8) size
    else 0
  else if 0x100000 ≤ off && off < 0x140000 then
    regNat (d.counters.getD ((off - 0x100000) / 64) default).record (off % 64) size
  else 0

/-! ### The mailbox (R429, R430) -/

/-- The firmware takes the command of the first doorbell: it reads MBCMD (R429). -/
def State.takeMail (s : State) : Host.Outcome State Fault Refusal :=
  match s.doorbells, s.mbox with
  | die :: rest, none =>
    if s.powered then .next { s with doorbells := rest, mbox := some (die, (s.die die).mbcmd) } else .fault .notEnabled
  | _, _ => .fault .notEnabled

/-- A command completes with its status and DETAIL: MBRSP and MBDONE (R429). -/
def State.mailboxDone (s : State) (die : Nat) (c : List Byte) (status detail : Nat) : State :=
  let seq := fieldAt c 4 4
  { s with mbox := none }.updDie die fun d =>
    { d with mbrsp := leBytes 4 seq ++ leBytes 4 status ++ leBytes 8 detail ++ leBytes 48 0,
             mbdone := BitVec.ofNat 32 seq }

/-- Performs the command that has been taken if it is of a kind: `act` answers the changed state, or a status and its
DETAIL; a status other than OK changes nothing (R429, R430). -/
def State.mailbox (s : State) (die : Nat) (kind : Nat → Bool) (act : State → List Byte → Sum (Nat × Nat) State) :
    Host.Outcome State Fault Refusal :=
  match s.mbox with
  | none => .fault .notEnabled
  | some (d, c) =>
    if d != die || !s.powered || !kind (fieldAt c 0 1) then .fault .notEnabled
    else match act s c with
      | .inl (status, detail) => .next (s.mailboxDone die c status detail)
      | .inr s => .next (s.mailboxDone die c 0 0)

/-- Whether the bytes of a command from one on are reserved zeros, its header's among them. -/
def mbZero (c : List Byte) (off : Nat) : Bool := zeroBytes c 1 3 && zeroBytes c off (128 - off)

/-- A grant of a die: cluster mask, L2 ways, bandwidth, flit slots, frame slots (R431). -/
def grantOk (sealed_ : Bool) (g : List Byte) : Bool :=
  if sealed_ then
    fieldAt g 0 4 < 2 ^ 24 && [0, 4, 8, 12].contains (fieldAt g 4 1) && fieldAt g 5 1 ≤ 12 && fieldAt g 6 1 ≤ 50
      && fieldAt g 7 1 ≤ 8 && zeroBytes g 8 4
  else zeroBytes g 0 12

/-- Whether a physical range lies in no reserved range. -/
def paRangeOk (pa n : Nat) : Bool := paOk pa && paOk (pa + n - 1) && isHost pa == isHost (pa + n - 1)

/-- Whether the body of a CREATE breaks R431. -/
def badCreate (twilight : Bool) (c : List Byte) : Bool :=
  let n (off len : Nat) : Nat := fieldAt c off len
  !zeroBytes c 1 3 || 63 < n 8 1 || 1 < n 9 1 || 3 < n 10 1 || (twilight && n 10 1 != 0) || n 11 1 != 0
    || 4095 < n 12 2 || n 14 2 < 1 || 4096 < n 12 2 + n 14 2 || n 16 8 % 4096 != 0 || !paOk (n 16 8)
    || n 24 8 % 2 ^ 20 != 0 || !powerTo 4096 (n 36 4) || n 40 8 % 32 != 0 || !paRangeOk (n 40 8) (0x40 + 40 * n 36 4)
    || n 56 8 % 2 ^ 20 != 0 || !zeroBytes c 64 8 || !zeroBytes c 120 8
    || (List.range 4).any fun d => !grantOk (n 9 1 == 1) ((c.drop (72 + 12 * d)).take 12)

/-- The sum of a field of the sealed grants of a die. -/
def State.granted (s : State) (die off : Nat) : Nat :=
  ((s.ctxs.filter (·.sealed_)).map fun x => fieldAt x.grant (12 * die + off) 1).sum

/-- The clusters of a die that sealed contexts hold. -/
def State.grantedClusters (s : State) (die : Nat) : Nat :=
  ((s.ctxs.filter (·.sealed_)).map fun x => popcount (BitVec.ofNat 32 (x.clusterMask die))).sum

/-- Whether a sealed grant finds too little on a die (R431). -/
def State.grantFails (s : State) (grant : List Byte) (die : Nat) : Bool :=
  let n (off len : Nat) : Nat := fieldAt grant (12 * die + off) len
  let mask := n 0 3
  let taken (cl : Nat) : Bool :=
    mask.testBit cl && (s.ctxs.any (fun x => x.sealed_ && (x.clusterMask die).testBit cl)
      || s.blocks.any fun b => b.resident && b.die == die && b.cluster == cl)
  (List.range Config.clusters).any taken || 20 < s.grantedClusters die + popcount (BitVec.ofNat 32 mask)
    || 12 < s.granted die 4 + n 4 1 || 12 < s.granted die 5 + n 5 1 || 50 < s.granted die 6 + n 6 1
    || 8 < s.granted die 7 + n 7 1

/-- A context as CREATE makes it: RUNNING, every control-block field at its default (R59, R403, R431; assumptions 3
and 44). -/
def newCtx (tick : Nat) (c : List Byte) : Ctx :=
  let n (off len : Nat) : Nat := fieldAt c off len
  { id := n 8 1, sealed_ := n 9 1 == 1, taskDie := n 10 1, cbase := n 12 2, ccount := n 14 2, root := u64 c 16,
    arena := u64 c 24, arenaMB := n 32 4, ringN := n 36 4, ring := u64 c 40, pinL1 := n 48 4, pinL2 := n 52 4,
    walkSt := u64 c 56, grant := (c.drop 72).take 48, handler := 0, saveArea := 0, dl := [0, 500, 2000, 10000],
    preState := .running, preCls := 0, preResult := 0, deadline := none, saves := 0, wdog := 100000,
    watch := List.replicate 4 ⟨0, 0, 0⟩, thresh := List.replicate 24 0, cring := 0, cringN := 1, cringSeq := 0,
    handles := List.replicate 64 ⟨0, 0, false, 0, 0, 0, 0, 0, 0, 0, []⟩,
    queues := (List.range 64).map fun q => ⟨[], Config.queueEnable tick q, Config.queueRedeliver tick q⟩,
    svcProd := 0, svcWaiting := [], outOfRange := 0, absorbed := 0, l2pins := [] }

/-- CREATE (R431). A reserved OPC is handled here as well. -/
def execCreate (die : Nat) (s : State) : Host.Outcome State Fault Refusal :=
  s.mailbox die (fun k => k < 2 || 6 < k) fun s c =>
    let n (off len : Nat) : Nat := fieldAt c off len
    if n 0 1 != 1 || badCreate (s.mode == .twilight) c then .inl (1, 0)
    else if (s.ctx? (n 8 1)).isSome then .inl (2, 0)
    else if n 9 1 = 1 && s.mode == .twilight then .inl (6, 0)
    else if s.ctxs.any fun x => x.taskDie == n 10 1 && x.preState != .suspended && overlap x.cbase x.ccount (n 12 2) (n 14 2) then .inl (5, n 10 1)
    else match (List.range Config.dies).find? fun d => n 9 1 == 1 && s.grantFails ((c.drop 72).take 48) d with
      | some d => .inl (5, d)
      | none => .inr { s with ctxs := s.ctxs ++ [newCtx s.tick c], tick := s.tick + 1 }

/-- Whether a context has a launch in flight or a block resident or saved (R432). -/
def State.ctxInUse (s : State) (ctx : Nat) : Bool :=
  !(s.inFlight ctx).isEmpty || s.blocks.any fun b => b.ctx == ctx && (match b.phase with
    | .gone => false
    | .saved => true
    | .running => true
    | .prologue _ => true)

/-- What DESTROY frees and clears: no line of the context stays in a cache, so that none serves a later context of its
number or goes home over memory that is another's (R85, R432). -/
def State.destroy (s : State) (c : Ctx) : State :=
  let s := s.purge c.id
  let clear (d : Die) : Die :=
    { d with fired := d.fired.filter (fun x => x.1 != c.id), tlb := d.tlb.filter fun t => t.ctx != c.id }
  let s := s.clearCounters c
  { s with dies := s.dies.map clear, ctxs := s.ctxs.filter fun x => x.id != c.id,
           ctrOps := s.ctrOps.filter fun o => o.ctx != c.id,
           pageWalks := s.pageWalks.filter fun p => p.ctx != c.id,
           appended := s.appended.filter fun a => (s.blk a.blk).ctx != c.id }

/-- DESTROY (R432). -/
def execDestroy (die : Nat) (s : State) : Host.Outcome State Fault Refusal :=
  s.mailbox die (· == 2) fun s c =>
    if !mbZero c 9 then .inl (1, 0)
    else match s.ctx? (fieldAt c 8 1) with
      | none => .inl (3, 0)
      | some x => if s.ctxInUse x.id then .inl (4, 0) else .inr (s.destroy x)

/-- FENCE: an unfenced sub-array is suspect no longer; an MXTEST waits no longer for one that is fenced (R262, R272,
R433). -/
def execFenceCommand (die : Nat) (s : State) : Host.Outcome State Fault Refusal :=
  s.mailbox die (· == 3) fun s c =>
    let n (off : Nat) : Nat := fieldAt c off 1
    if !mbZero c 11 || Config.dies ≤ n 8 || Config.clusters ≤ n 9 || 15 < n 10 then .inl (1, 0)
    else if n 10 = 15 then .inl (7, 0)
    else
      let new := BitVec.ofNat 4 (n 10)
      let cl := clusterNo (n 8) (n 9)
      let drop (B : Block) : Block :=
        if B.clusterNo == cl && B.resident then { B with warps := B.warps.map fun W => W.mxtestGot new 0 } else B
      .inr ({ s with blocks := s.blocks.map drop }.updCluster cl fun k =>
        { k with fenced := new, suspect := k.suspect &&& ~~~(k.fenced &&& ~~~new) })

/-- LINK: a host module taken down or up (R39, R433). -/
def execLink (die : Nat) (s : State) : Host.Outcome State Fault Refusal :=
  s.mailbox die (· == 4) fun s c =>
    let n (off : Nat) : Nat := fieldAt c off 1
    if !mbZero c 11 || Config.dies ≤ n 8 || 1 < n 9 || 1 < n 10 then .inl (1, 0)
    else
      let bit : BitVec 2 := 1#2 <<< n 9
      let d := s.die (n 8)
      if n 10 = 1 then
        if d.hostFailed &&& bit != 0 then .inl (6, 0)
        else .inr (s.updDie (n 8) fun d => { d with hostUp := d.hostUp ||| bit })
      else if d.hostUp &&& ~~~bit == 0 then .inl (7, 0)
      else .inr (s.updDie (n 8) fun d => { d with hostUp := d.hostUp &&& ~~~bit })

/-- POWER: a die whose IDLEOK is taken away is ACTIVE (R437). -/
def execPower (die : Nat) (s : State) : Host.Outcome State Fault Refusal :=
  s.mailbox die (· == 5) fun s c =>
    let m := fieldAt c 8 1
    if !mbZero c 9 || 15 < m then .inl (1, 0)
    else
      let put (i : Nat) (d : Die) : Die := { d with idleOk := m.testBit i, idle := d.idle && m.testBit i }
      .inr { s with dies := s.dies.mapIdx put }

/-- ENTER_SERVICE (R436). -/
def execEnterService (die : Nat) (s : State) : Host.Outcome State Fault Refusal :=
  s.mailbox die (· == 6) fun s c =>
    if !mbZero c 8 then .inl (1, 0)
    else if s.dies.any (fun d => d.trained != 3) || s.launches.any (·.inFlight) || s.blocks.any (·.resident) then .inl (4, 0)
    else .inr { s with mode := .service }

/-! ### Links, host memory traffic, power (R39, R388, R434 to R437) -/

/-- HOST_CXL_MEM_WRITE: for each of its sectors delivered to the cores of the die whose memory it is (R388). -/
def execHostCxlMemWrite (pa : Nat) (bytes : List Byte) (s : State) : Host.Outcome State Fault Refusal :=
  if !s.powered || isHost pa || !paRangeOk pa bytes.length then .fault .notEnabled
  else
    let secs (d : Nat) : List Nat := (sectorsOf pa bytes.length).filter fun sec => homeDie (64 * sec) == d
    .next ((List.range Config.dies).foldl (fun s d => s.deliver (Sig.ofSectors (secs d)) 2 d 0 none) (s.writePa pa bytes))

/-- A snoop of a line of host memory: a die whose L2 holds it invalidates it and delivers the signature of its sectors
to the die's cores (R388). An L2 may have fetched the line unasked (assumption 20). -/
def State.snoop (s : State) (die line : Nat) (unasked : Bool) : State :=
  if (s.die die).hostLines.contains line || unasked then
    (s.updDie die fun d => { d with hostLines := d.hostLines.filter (· != line) }).publish [(line * 128, 128)] 2 die 0
  else s

/-- HOST_SNOOP: a host agent's write to host memory; the dies' L2s are snooped for its lines (R388). `held` names dies
whose L2 has fetched the lines unasked (assumption 20). An atomic that has read its word before does not see the write
(R38, R360). -/
def execHostSnoop (pa : Nat) (bytes : List Byte) (held : List Nat) (s : State) : Host.Outcome State Fault Refusal :=
  if !s.powered || !isHost pa || !paRangeOk pa bytes.length then .fault .notEnabled
  else
    let lines := (List.range ((pa + bytes.length - 1) / 128 - pa / 128 + 1)).map fun i => pa / 128 + i
    .next ((List.range Config.dies).foldl (fun s d =>
      lines.foldl (fun s n => s.snoop d n (held.contains d)) s) (s.hostWrite pa bytes))

/-- LINK_RETRY: logged, and delivered once (R39, R422). -/
def execLinkRetry (die : Nat) (s : State) : Host.Outcome State Fault Refusal :=
  if s.powered && die < Config.dies then .next (s.log die { kind := 3, die := some die }) else .fault .notEnabled

/-- MODULE_DOWN: one of a die's two modules fails training (R39). -/
def execModuleDown (die : Nat) (s : State) : Host.Outcome State Fault Refusal :=
  if !s.powered || Config.dies ≤ die || (s.die die).hostUp != 3 then .fault .notEnabled
  else
    let (second, s) := s.race
    let bit : BitVec 2 := if second then 2 else 1
    .next (s.updDie die fun d => { d with hostUp := d.hostUp &&& ~~~bit, hostFailed := d.hostFailed ||| bit })

/-- TRAINING_COMPLETE: near memory, or the links (R434, R435). -/
def execTrainingComplete (die : Nat) (link : Bool) (s : State) : Host.Outcome State Fault Refusal :=
  let bit : BitVec 2 := if link then 2 else 1
  if !s.powered || Config.dies ≤ die || (s.die die).trained &&& bit != 0 then .fault .notEnabled
  else .next (s.updDie die fun d => { d with trained := d.trained ||| bit })

/-- The device without power: only memory that the host holds keeps its contents (R437). The model's own fields go
on. -/
def State.unpowered (s : State) : State :=
  { State.reset with
    mode := .off, mem := s.mem.filter fun c => isHost c.1, poison := s.poison.filter fun p => isHost (64 * p.1),
    inputs := s.inputs, wire := s.wire, tick := s.tick, nextId := s.nextId }

/-- POWER_REMOVAL (R437). -/
def execPowerRemoval (s : State) : Host.Outcome State Fault Refusal :=
  if s.powered then .next s.unpowered else .fault .notEnabled

/-- POWER_ON: the device starts in Twilight mode (R435). -/
def execPowerOn (s : State) : Host.Outcome State Fault Refusal :=
  if s.powered then .fault .notEnabled else .next { s.unpowered with mode := .twilight }

/-- Whether a die has a resident block, an engine operation or a pending command (R437). -/
def State.dieBusy (s : State) (die : Nat) : Bool :=
  let on (b : Nat) : Bool := (s.blk b).die == die
  s.blocks.any (fun b => b.resident && b.die == die) || (List.range s.blocks.length).any (fun b => on b && s.enginesBusy b)
    || s.hostCopies.any (fun c => c.die == die) || !(s.die die).invalidating.isEmpty || s.doorbells.contains die
    || s.mbox.any (fun x => x.1 == die) || (s.die die).cmdqs.any fun q => q.flags.getLsbD 0 && !q.stopped
        && (q.prod != q.consumed || !q.open_.isEmpty || q.waiting.isSome)

/-- Cycles of the 100 µs before a die goes idle (R437). -/
def idleCycles : Nat := 100 * Config.usCycles

/-- IDLE_ENTRY (R437). -/
def execIdleEntry (die : Nat) (s : State) : Host.Outcome State Fault Refusal :=
  let d := s.die die
  if !s.answers? die || !d.idleOk || d.idle || s.dieBusy die || s.cycle < d.idleSince + idleCycles then .fault .notEnabled
  else .next (s.updDie die fun d => { d with idle := true })

/-- IDLE_EXIT: work, or a management access; a management read changes nothing else, so that one may come at any time
(R437; assumption 82). -/
def execIdleExit (die : Nat) (s : State) : Host.Outcome State Fault Refusal :=
  if !s.answers? die || !(s.die die).idle then .fault .notEnabled
  else .next (s.updDie die fun d => { d with idle := false, idleSince := s.cycle })

/-- A die with work notes that it has some (R437). -/
def State.noteIdle (s : State) (die : Nat) : State := if s.dieBusy die then s.touch die else s

/-! ### Memory errors (R422) -/

/-- ECC_CORRECTED: logged (R422). -/
def execEccCorrected (die : Nat) (addr : DWord) (s : State) : Host.Outcome State Fault Refusal :=
  if s.powered && die < Config.dies then .next (s.log die { kind := 1, die := some die, addr := addr.toNat })
  else .fault .notEnabled

/-- A lane's register with the poison mark (R269). -/
def Lane.mark (l : Lane) (n : Nat) : Lane := { l with poison := l.poison ||| (1#64 <<< n) }

/-- An element of a set register with the poison mark (R269). -/
def SetB.mark (x : SetB) (n e : Nat) : SetB :=
  { x with g := x.g.modify n fun es => es.modify e fun y => { y with poison := true } }

/-- UNCORRECTABLE_ERROR: a sector of memory, or a word of scratchpad or a lane or set register of a block on the die, is
poisoned, and the error logged (R81, R422; assumption 58). -/
def execUncorrectableError (die : Nat) (at_ : EccTarget) (s : State) : Host.Outcome State Fault Refusal :=
  let entry (addr : Nat) : LogRec := { kind := 2, die := some die, addr := addr }
  let on (b : Nat) : Bool := b < s.blocks.length && (s.blk b).resident && (s.blk b).die == die
  if !s.powered || Config.dies ≤ die then .fault .notEnabled
  else match at_ with
    | .sector pa => .next ((s.poisonSector pa).log die (entry pa))
    | .compressed pa =>
      if 0x20_0000_0000 ≤ pa then .fault .notEnabled
      else .next (((List.range 4).foldl (fun s i => s.poisonSector (pa / 256 * 256 + 64 * i)) s).log die (entry pa))
    | .spWord b off =>
      if on b && off < (s.blk b).spSize then
        .next ((s.updBlk b fun B => B.poisonWord off).logBlk b none (entry off))
      else .fault .notEnabled
    | .vreg b w l n =>
      if on b && (s.lane b w l).live && n < 64 then
        .next ((s.updLane b w l fun x => x.mark n).logBlk b (some w) (entry 0))
      else .fault .notEnabled
    | .greg b i n e =>
      if on b && e < (((s.blk b).set i).g.getD n []).length then
        .next ((s.updBlk b fun B => B.updSet i fun x => x.mark n e).logBlk b none (entry 0))
      else .fault .notEnabled

end Sys2Proof.Machine
end

