-- ==== Sys2Proof/Decode.lean ====
section
/-! DEFINITION. The decoder of one 32-bit word (R87, R90, R112), total and rejecting by answering
`none`, and after it the encoder. The decoder settles the rows of R113 that the word alone decides:
the major, the scope bits that the opcode map fixes, the function code and the zero fields. Register
codes, trap bits and prefixes are checked when the word executes. `noncomputable` below only says that
the compiled runtime has no constructor tags above 244; the kernel evaluates every definition here. -/

namespace Sys2Proof

/-- Bits `lo + n - 1` down to `lo` of a word. -/
def bits (w : Word) (lo n : Nat) : BitVec n := w.extractLsb' lo n

/-- One bit of a word. -/
def bit (w : Word) (i : Nat) : Bool := w.getLsbD i

/-- Major 0x01 of the opcode map (R112). -/
def decode01 (w : Word) : Option Instr :=
  match (bits w 0 4).toNat with
  | 0 => some (.iadd ⟨bits w 24 2, bits w 18 6, bits w 12 6, bits w 6 6, bit w 5, bit w 4⟩)
  | 1 => some (.isub ⟨bits w 24 2, bits w 18 6, bits w 12 6, bits w 6 6, bit w 5, bit w 4⟩)
  | 2 => some (.imul ⟨bits w 24 2, bits w 18 6, bits w 12 6, bits w 6 6, bit w 5, bit w 4⟩)
  | 3 => some (.imulhS ⟨bits w 24 2, bits w 18 6, bits w 12 6, bits w 6 6, bit w 5, bit w 4⟩)
  | 4 => some (.imulhN ⟨bits w 24 2, bits w 18 6, bits w 12 6, bits w 6 6, bit w 5, bit w 4⟩)
  | 5 => some (.iminS ⟨bits w 24 2, bits w 18 6, bits w 12 6, bits w 6 6, bit w 5, bit w 4⟩)
  | 6 => some (.iminN ⟨bits w 24 2, bits w 18 6, bits w 12 6, bits w 6 6, bit w 5, bit w 4⟩)
  | 7 => some (.imaxS ⟨bits w 24 2, bits w 18 6, bits w 12 6, bits w 6 6, bit w 5, bit w 4⟩)
  | 8 => some (.imaxN ⟨bits w 24 2, bits w 18 6, bits w 12 6, bits w 6 6, bit w 5, bit w 4⟩)
  | 9 => some (.iabsd ⟨bits w 24 2, bits w 18 6, bits w 12 6, bits w 6 6, bit w 5, bit w 4⟩)
  | 10 => some (.iaddsS ⟨bits w 24 2, bits w 18 6, bits w 12 6, bits w 6 6, bit w 5, bit w 4⟩)
  | 11 => some (.isubsS ⟨bits w 24 2, bits w 18 6, bits w 12 6, bits w 6 6, bit w 5, bit w 4⟩)
  | _ => none

/-- Major 0x02 of the opcode map (R112). -/
def decode02 (w : Word) : Option Instr :=
  match (bits w 0 4).toNat with
  | 0 => some (.andB ⟨bits w 24 2, bits w 18 6, bits w 12 6, bits w 6 6, bit w 5, bit w 4⟩)
  | 1 => some (.orB ⟨bits w 24 2, bits w 18 6, bits w 12 6, bits w 6 6, bit w 5, bit w 4⟩)
  | 2 => some (.xorB ⟨bits w 24 2, bits w 18 6, bits w 12 6, bits w 6 6, bit w 5, bit w 4⟩)
  | 3 => some (.andn ⟨bits w 24 2, bits w 18 6, bits w 12 6, bits w 6 6, bit w 5, bit w 4⟩)
  | 4 => some (.orn ⟨bits w 24 2, bits w 18 6, bits w 12 6, bits w 6 6, bit w 5, bit w 4⟩)
  | 5 => some (.shl ⟨bits w 24 2, bits w 18 6, bits w 12 6, bits w 6 6, bit w 5, bit w 4⟩)
  | 6 => some (.shr ⟨bits w 24 2, bits w 18 6, bits w 12 6, bits w 6 6, bit w 5, bit w 4⟩)
  | 7 => some (.sar ⟨bits w 24 2, bits w 18 6, bits w 12 6, bits w 6 6, bit w 5, bit w 4⟩)
  | 8 => some (.rotl ⟨bits w 24 2, bits w 18 6, bits w 12 6, bits w 6 6, bit w 5, bit w 4⟩)
  | 9 => some (.rotr ⟨bits w 24 2, bits w 18 6, bits w 12 6, bits w 6 6, bit w 5, bit w 4⟩)
  | 10 => if w &&& 0x00000FD0#32 = 0x00000000#32 then some (.popc ⟨bits w 24 2, bits w 18 6, bits w 12 6, bit w 5⟩) else none
  | 11 => if w &&& 0x00000FD0#32 = 0x00000000#32 then some (.clz ⟨bits w 24 2, bits w 18 6, bits w 12 6, bit w 5⟩) else none
  | 12 => if w &&& 0x00000FD0#32 = 0x00000000#32 then some (.brev ⟨bits w 24 2, bits w 18 6, bits w 12 6, bit w 5⟩) else none
  | 13 => some (.bfxN ⟨bits w 24 2, bits w 18 6, bits w 12 6, bits w 6 6, bit w 5, bit w 4⟩)
  | 14 => some (.bfxS ⟨bits w 24 2, bits w 18 6, bits w 12 6, bits w 6 6, bit w 5, bit w 4⟩)
  | 15 => some (.bfi ⟨bits w 24 2, bits w 18 6, bits w 12 6, bits w 6 6, bit w 5, bit w 4⟩)
  | _ => none

/-- Major 0x03 of the opcode map (R112). -/
def decode03 (w : Word) : Option Instr :=
  match (bits w 0 4).toNat with
  | 0 => some (.imad ⟨bits w 24 2, bits w 18 6, bits w 12 6, bits w 6 6, bit w 5, bit w 4⟩)
  | 1 => some (.imadhS ⟨bits w 24 2, bits w 18 6, bits w 12 6, bits w 6 6, bit w 5, bit w 4⟩)
  | 2 => some (.imadhN ⟨bits w 24 2, bits w 18 6, bits w 12 6, bits w 6 6, bit w 5, bit w 4⟩)
  | 3 => some (.imadwS ⟨bits w 24 2, bits w 18 6, bits w 12 6, bits w 6 6, bit w 5, bit w 4⟩)
  | 4 => some (.imadwN ⟨bits w 24 2, bits w 18 6, bits w 12 6, bits w 6 6, bit w 5, bit w 4⟩)
  | 5 => some (.idot4S8 ⟨bits w 24 2, bits w 18 6, bits w 12 6, bits w 6 6, bit w 5, bit w 4⟩)
  | 6 => some (.idot4N8 ⟨bits w 24 2, bits w 18 6, bits w 12 6, bits w 6 6, bit w 5, bit w 4⟩)
  | 7 => some (.idot8S4 ⟨bits w 24 2, bits w 18 6, bits w 12 6, bits w 6 6, bit w 5, bit w 4⟩)
  | 8 => some (.idot8N4 ⟨bits w 24 2, bits w 18 6, bits w 12 6, bits w 6 6, bit w 5, bit w 4⟩)
  | _ => none

/-- Major 0x04 of the opcode map (R112). -/
def decode04 (w : Word) : Option Instr :=
  some (.iaddi ⟨bits w 24 2, bits w 18 6, bits w 12 6, bit w 11, bits w 0 11⟩)

/-- Major 0x05 of the opcode map (R112). -/
def decode05 (w : Word) : Option Instr :=
  match (bits w 8 3).toNat with
  | 0 => if w &&& 0x000000E0#32 = 0x00000000#32 then some (.shli ⟨bits w 24 2, bits w 18 6, bits w 12 6, bit w 11, bits w 0 5⟩) else none
  | 1 => if w &&& 0x000000E0#32 = 0x00000000#32 then some (.shri ⟨bits w 24 2, bits w 18 6, bits w 12 6, bit w 11, bits w 0 5⟩) else none
  | 2 => if w &&& 0x000000E0#32 = 0x00000000#32 then some (.sari ⟨bits w 24 2, bits w 18 6, bits w 12 6, bit w 11, bits w 0 5⟩) else none
  | 3 => if w &&& 0x000000E0#32 = 0x00000000#32 then some (.rotli ⟨bits w 24 2, bits w 18 6, bits w 12 6, bit w 11, bits w 0 5⟩) else none
  | 4 => some (.andi ⟨bits w 24 2, bits w 18 6, bits w 12 6, bit w 11, bits w 0 8⟩)
  | 5 => some (.ori ⟨bits w 24 2, bits w 18 6, bits w 12 6, bit w 11, bits w 0 8⟩)
  | 6 => some (.xori ⟨bits w 24 2, bits w 18 6, bits w 12 6, bit w 11, bits w 0 8⟩)
  | 7 => some (.imuli ⟨bits w 24 2, bits w 18 6, bits w 12 6, bit w 11, bits w 0 8⟩)
  | _ => none

/-- Major 0x06 of the opcode map (R112). -/
def decode06 (w : Word) : Option Instr :=
  some (.movi ⟨bits w 24 2, bits w 18 6, bits w 0 18⟩)

/-- Major 0x07 of the opcode map (R112). -/
def decode07 (w : Word) : Option Instr :=
  match (bits w 0 5).toNat with
  | 0 => some (.icmpEq ⟨bits w 24 2, bits w 21 3, bits w 19 2, bits w 13 6, bits w 7 6, bit w 6, bit w 5⟩)
  | 1 => some (.icmpNe ⟨bits w 24 2, bits w 21 3, bits w 19 2, bits w 13 6, bits w 7 6, bit w 6, bit w 5⟩)
  | 2 => some (.icmpLtS ⟨bits w 24 2, bits w 21 3, bits w 19 2, bits w 13 6, bits w 7 6, bit w 6, bit w 5⟩)
  | 3 => some (.icmpLeS ⟨bits w 24 2, bits w 21 3, bits w 19 2, bits w 13 6, bits w 7 6, bit w 6, bit w 5⟩)
  | 4 => some (.icmpGtS ⟨bits w 24 2, bits w 21 3, bits w 19 2, bits w 13 6, bits w 7 6, bit w 6, bit w 5⟩)
  | 5 => some (.icmpGeS ⟨bits w 24 2, bits w 21 3, bits w 19 2, bits w 13 6, bits w 7 6, bit w 6, bit w 5⟩)
  | 6 => some (.icmpLtN ⟨bits w 24 2, bits w 21 3, bits w 19 2, bits w 13 6, bits w 7 6, bit w 6, bit w 5⟩)
  | 7 => some (.icmpLeN ⟨bits w 24 2, bits w 21 3, bits w 19 2, bits w 13 6, bits w 7 6, bit w 6, bit w 5⟩)
  | 8 => some (.icmpGtN ⟨bits w 24 2, bits w 21 3, bits w 19 2, bits w 13 6, bits w 7 6, bit w 6, bit w 5⟩)
  | 9 => some (.icmpGeN ⟨bits w 24 2, bits w 21 3, bits w 19 2, bits w 13 6, bits w 7 6, bit w 6, bit w 5⟩)
  | 10 => some (.icmpTstz ⟨bits w 24 2, bits w 21 3, bits w 19 2, bits w 13 6, bits w 7 6, bit w 6, bit w 5⟩)
  | 11 => some (.icmpTstnz ⟨bits w 24 2, bits w 21 3, bits w 19 2, bits w 13 6, bits w 7 6, bit w 6, bit w 5⟩)
  | _ => none

/-- Major 0x08 of the opcode map (R112). -/
def decode08 (w : Word) : Option Instr :=
  match (bits w 8 4).toNat with
  | 0 => some (.icmpiEq ⟨bits w 24 2, bits w 21 3, bits w 19 2, bits w 13 6, bit w 12, bits w 0 8⟩)
  | 1 => some (.icmpiNe ⟨bits w 24 2, bits w 21 3, bits w 19 2, bits w 13 6, bit w 12, bits w 0 8⟩)
  | 2 => some (.icmpiLtS ⟨bits w 24 2, bits w 21 3, bits w 19 2, bits w 13 6, bit w 12, bits w 0 8⟩)
  | 3 => some (.icmpiLeS ⟨bits w 24 2, bits w 21 3, bits w 19 2, bits w 13 6, bit w 12, bits w 0 8⟩)
  | 4 => some (.icmpiGtS ⟨bits w 24 2, bits w 21 3, bits w 19 2, bits w 13 6, bit w 12, bits w 0 8⟩)
  | 5 => some (.icmpiGeS ⟨bits w 24 2, bits w 21 3, bits w 19 2, bits w 13 6, bit w 12, bits w 0 8⟩)
  | 6 => some (.icmpiLtN ⟨bits w 24 2, bits w 21 3, bits w 19 2, bits w 13 6, bit w 12, bits w 0 8⟩)
  | 7 => some (.icmpiLeN ⟨bits w 24 2, bits w 21 3, bits w 19 2, bits w 13 6, bit w 12, bits w 0 8⟩)
  | 8 => some (.icmpiGtN ⟨bits w 24 2, bits w 21 3, bits w 19 2, bits w 13 6, bit w 12, bits w 0 8⟩)
  | 9 => some (.icmpiGeN ⟨bits w 24 2, bits w 21 3, bits w 19 2, bits w 13 6, bit w 12, bits w 0 8⟩)
  | 10 => some (.icmpiTstz ⟨bits w 24 2, bits w 21 3, bits w 19 2, bits w 13 6, bit w 12, bits w 0 8⟩)
  | 11 => some (.icmpiTstnz ⟨bits w 24 2, bits w 21 3, bits w 19 2, bits w 13 6, bit w 12, bits w 0 8⟩)
  | _ => none

/-- Major 0x09 of the opcode map (R112). -/
def decode09 (w : Word) : Option Instr :=
  some (.sel ⟨bits w 24 2, bit w 23, bits w 20 3, bits w 14 6, bits w 8 6, bits w 2 6, bit w 1, bit w 0⟩)

/-- Major 0x0A of the opcode map (R112). -/
def decode0A (w : Word) : Option Instr :=
  match (bits w 0 4).toNat with
  | 0 => some (.prmb ⟨bits w 24 2, bits w 18 6, bits w 12 6, bits w 6 6, bit w 5, bit w 4⟩)
  | 1 => some (.prmn ⟨bits w 24 2, bits w 18 6, bits w 12 6, bits w 6 6, bit w 5, bit w 4⟩)
  | 2 => some (.prmnSx ⟨bits w 24 2, bits w 18 6, bits w 12 6, bits w 6 6, bit w 5, bit w 4⟩)
  | 3 => some (.prmnZx ⟨bits w 24 2, bits w 18 6, bits w 12 6, bits w 6 6, bit w 5, bit w 4⟩)
  | 4 => some (.pack2 ⟨bits w 24 2, bits w 18 6, bits w 12 6, bits w 6 6, bit w 5, bit w 4⟩)
  | _ => none

/-- Major 0x0B of the opcode map (R112). -/
def decode0B (w : Word) : Option Instr :=
  some (.conv ⟨bits w 24 2, bits w 18 6, bits w 12 6, bit w 11, bits w 6 5, bits w 1 5, bit w 0⟩)

/-- Major 0x0C of the opcode map (R112). -/
def decode0C (w : Word) : Option Instr :=
  match (bits w 0 4).toNat with
  | 0 => some (.fadd ⟨bits w 24 2, bits w 18 6, bits w 12 6, bits w 6 6, bit w 5, bit w 4⟩)
  | 1 => some (.fsub ⟨bits w 24 2, bits w 18 6, bits w 12 6, bits w 6 6, bit w 5, bit w 4⟩)
  | 2 => some (.fmul ⟨bits w 24 2, bits w 18 6, bits w 12 6, bits w 6 6, bit w 5, bit w 4⟩)
  | 3 => some (.fmin ⟨bits w 24 2, bits w 18 6, bits w 12 6, bits w 6 6, bit w 5, bit w 4⟩)
  | 4 => some (.fmax ⟨bits w 24 2, bits w 18 6, bits w 12 6, bits w 6 6, bit w 5, bit w 4⟩)
  | 5 => some (.fminnm ⟨bits w 24 2, bits w 18 6, bits w 12 6, bits w 6 6, bit w 5, bit w 4⟩)
  | 6 => some (.fmaxnm ⟨bits w 24 2, bits w 18 6, bits w 12 6, bits w 6 6, bit w 5, bit w 4⟩)
  | 7 => if w &&& 0x00000FD0#32 = 0x00000000#32 then some (.fabs ⟨bits w 24 2, bits w 18 6, bits w 12 6, bit w 5⟩) else none
  | 8 => if w &&& 0x00000FD0#32 = 0x00000000#32 then some (.fneg ⟨bits w 24 2, bits w 18 6, bits w 12 6, bit w 5⟩) else none
  | 9 => some (.fcpys ⟨bits w 24 2, bits w 18 6, bits w 12 6, bits w 6 6, bit w 5, bit w 4⟩)
  | 10 => some (.fscale ⟨bits w 24 2, bits w 18 6, bits w 12 6, bits w 6 6, bit w 5, bit w 4⟩)
  | 11 => if w &&& 0x00000FD0#32 = 0x00000000#32 then some (.frint ⟨bits w 24 2, bits w 18 6, bits w 12 6, bit w 5⟩) else none
  | 12 => if w &&& 0x00000FD0#32 = 0x00000000#32 then some (.fclass ⟨bits w 24 2, bits w 18 6, bits w 12 6, bit w 5⟩) else none
  | _ => none

/-- Major 0x0D of the opcode map (R112). -/
def decode0D (w : Word) : Option Instr :=
  match (bits w 0 4).toNat with
  | 0 => some (.ffma ⟨bits w 24 2, bits w 18 6, bits w 12 6, bits w 6 6, bit w 5, bit w 4⟩)
  | 1 => some (.ffms ⟨bits w 24 2, bits w 18 6, bits w 12 6, bits w 6 6, bit w 5, bit w 4⟩)
  | 2 => some (.ffnma ⟨bits w 24 2, bits w 18 6, bits w 12 6, bits w 6 6, bit w 5, bit w 4⟩)
  | 3 => some (.ffnms ⟨bits w 24 2, bits w 18 6, bits w 12 6, bits w 6 6, bit w 5, bit w 4⟩)
  | 4 => some (.hfma2 ⟨bits w 24 2, bits w 18 6, bits w 12 6, bits w 6 6, bit w 5, bit w 4⟩)
  | 5 => some (.bfma2 ⟨bits w 24 2, bits w 18 6, bits w 12 6, bits w 6 6, bit w 5, bit w 4⟩)
  | 6 => some (.hdot2 ⟨bits w 24 2, bits w 18 6, bits w 12 6, bits w 6 6, bit w 5, bit w 4⟩)
  | 7 => some (.bdot2 ⟨bits w 24 2, bits w 18 6, bits w 12 6, bits w 6 6, bit w 5, bit w 4⟩)
  | _ => none

/-- Major 0x0E of the opcode map (R112). -/
def decode0E (w : Word) : Option Instr :=
  match (bits w 0 4).toNat with
  | 0 => some (.hadd2 ⟨bits w 24 2, bits w 18 6, bits w 12 6, bits w 6 6, bit w 5, bit w 4⟩)
  | 1 => some (.hmul2 ⟨bits w 24 2, bits w 18 6, bits w 12 6, bits w 6 6, bit w 5, bit w 4⟩)
  | 2 => some (.hmin2 ⟨bits w 24 2, bits w 18 6, bits w 12 6, bits w 6 6, bit w 5, bit w 4⟩)
  | 3 => some (.hmax2 ⟨bits w 24 2, bits w 18 6, bits w 12 6, bits w 6 6, bit w 5, bit w 4⟩)
  | 4 => some (.badd2 ⟨bits w 24 2, bits w 18 6, bits w 12 6, bits w 6 6, bit w 5, bit w 4⟩)
  | 5 => some (.bmul2 ⟨bits w 24 2, bits w 18 6, bits w 12 6, bits w 6 6, bit w 5, bit w 4⟩)
  | 6 => some (.bmin2 ⟨bits w 24 2, bits w 18 6, bits w 12 6, bits w 6 6, bit w 5, bit w 4⟩)
  | 7 => some (.bmax2 ⟨bits w 24 2, bits w 18 6, bits w 12 6, bits w 6 6, bit w 5, bit w 4⟩)
  | _ => none

/-- Major 0x0F of the opcode map (R112). -/
def decode0F (w : Word) : Option Instr :=
  match (bits w 0 5).toNat with
  | 0 => some (.fcmpEq ⟨bits w 24 2, bits w 21 3, bits w 19 2, bits w 13 6, bits w 7 6, bit w 6, bit w 5⟩)
  | 1 => some (.fcmpNe ⟨bits w 24 2, bits w 21 3, bits w 19 2, bits w 13 6, bits w 7 6, bit w 6, bit w 5⟩)
  | 2 => some (.fcmpLt ⟨bits w 24 2, bits w 21 3, bits w 19 2, bits w 13 6, bits w 7 6, bit w 6, bit w 5⟩)
  | 3 => some (.fcmpLe ⟨bits w 24 2, bits w 21 3, bits w 19 2, bits w 13 6, bits w 7 6, bit w 6, bit w 5⟩)
  | 4 => some (.fcmpGt ⟨bits w 24 2, bits w 21 3, bits w 19 2, bits w 13 6, bits w 7 6, bit w 6, bit w 5⟩)
  | 5 => some (.fcmpGe ⟨bits w 24 2, bits w 21 3, bits w 19 2, bits w 13 6, bits w 7 6, bit w 6, bit w 5⟩)
  | 6 => some (.fcmpUn ⟨bits w 24 2, bits w 21 3, bits w 19 2, bits w 13 6, bits w 7 6, bit w 6, bit w 5⟩)
  | 7 => some (.fcmpNum ⟨bits w 24 2, bits w 21 3, bits w 19 2, bits w 13 6, bits w 7 6, bit w 6, bit w 5⟩)
  | _ => none

/-- Major 0x10 of the opcode map (R112). -/
def decode10 (w : Word) : Option Instr :=
  match (bits w 0 4).toNat with
  | 0 => if w &&& 0x00000FD0#32 = 0x00000000#32 then some (.rcp ⟨bits w 24 2, bits w 18 6, bits w 12 6, bit w 5⟩) else none
  | 1 => if w &&& 0x00000FD0#32 = 0x00000000#32 then some (.rsq ⟨bits w 24 2, bits w 18 6, bits w 12 6, bit w 5⟩) else none
  | 2 => if w &&& 0x00000FD0#32 = 0x00000000#32 then some (.sqrt ⟨bits w 24 2, bits w 18 6, bits w 12 6, bit w 5⟩) else none
  | 3 => if w &&& 0x00000FD0#32 = 0x00000000#32 then some (.exp2 ⟨bits w 24 2, bits w 18 6, bits w 12 6, bit w 5⟩) else none
  | 4 => if w &&& 0x00000FD0#32 = 0x00000000#32 then some (.log2 ⟨bits w 24 2, bits w 18 6, bits w 12 6, bit w 5⟩) else none
  | 5 => if w &&& 0x00000FD0#32 = 0x00000000#32 then some (.sinp ⟨bits w 24 2, bits w 18 6, bits w 12 6, bit w 5⟩) else none
  | 6 => if w &&& 0x00000FD0#32 = 0x00000000#32 then some (.cosp ⟨bits w 24 2, bits w 18 6, bits w 12 6, bit w 5⟩) else none
  | 7 => if w &&& 0x00000FD0#32 = 0x00000000#32 then some (.tanh ⟨bits w 24 2, bits w 18 6, bits w 12 6, bit w 5⟩) else none
  | 8 => if w &&& 0x00000FD0#32 = 0x00000000#32 then some (.sigm ⟨bits w 24 2, bits w 18 6, bits w 12 6, bit w 5⟩) else none
  | 9 => some (.rndh ⟨bits w 24 2, bits w 18 6, bits w 12 6, bits w 6 6, bit w 5, bit w 4⟩)
  | _ => none

/-- Major 0x11 of the opcode map (R112). -/
def decode11 (w : Word) : Option Instr :=
  match (bits w 0 4).toNat with
  | 0 => some (.smxm ⟨bits w 24 2, bits w 18 6, bits w 12 6, bits w 6 6, bit w 5, bit w 4⟩)
  | 1 => if w &&& 0x00000FD0#32 = 0x00000000#32 then some (.smxs ⟨bits w 24 2, bits w 18 6, bits w 12 6, bit w 5⟩) else none
  | 2 => some (.smxf ⟨bits w 24 2, bits w 18 6, bits w 12 6, bits w 6 6, bit w 5, bit w 4⟩)
  | 3 => if w &&& 0x00000FD0#32 = 0x00000000#32 then some (.smxc ⟨bits w 24 2, bits w 18 6, bits w 12 6, bit w 5⟩) else none
  | _ => none

/-- Major 0x12 of the opcode map (R112). -/
def decode12 (w : Word) : Option Instr :=
  match (bits w 0 2).toNat with
  | 0 => if w &&& 0x03000000#32 = 0x01000000#32 then some (.perm ⟨bits w 18 6, bits w 12 6, bits w 6 6, bits w 2 4⟩) else none
  | 1 => if w &&& 0x03000000#32 = 0x01000000#32 then some (.permx ⟨bits w 18 6, bits w 12 6, bits w 6 6, bits w 2 4⟩) else none
  | 2 => if w &&& 0x03000000#32 = 0x01000000#32 then some (.permu ⟨bits w 18 6, bits w 12 6, bits w 6 6, bits w 2 4⟩) else none
  | 3 => if w &&& 0x03000000#32 = 0x01000000#32 then some (.permd ⟨bits w 18 6, bits w 12 6, bits w 6 6, bits w 2 4⟩) else none
  | _ => none

/-- Major 0x13 of the opcode map (R112). -/
def decode13 (w : Word) : Option Instr :=
  match (bits w 0 2).toNat with
  | 0 => if w &&& 0x03038FC0#32 = 0x01000000#32 then some (.ballot ⟨bits w 18 6, bits w 12 3, bits w 2 4⟩) else none
  | 1 => if w &&& 0x03038FC0#32 = 0x01000000#32 then some (.vall ⟨bits w 18 6, bits w 12 3, bits w 2 4⟩) else none
  | 2 => if w &&& 0x03038FC0#32 = 0x01000000#32 then some (.vany ⟨bits w 18 6, bits w 12 3, bits w 2 4⟩) else none
  | 3 => if w &&& 0x03000FC0#32 = 0x01000000#32 then some (.matchB ⟨bits w 18 6, bits w 12 6, bits w 2 4⟩) else none
  | _ => none

/-- Major 0x14 of the opcode map (R112). -/
def decode14 (w : Word) : Option Instr :=
  match (bits w 0 2).toNat with
  | 0 => if w &&& 0x03000FC0#32 = 0x01000000#32 then some (.redadd ⟨bits w 18 6, bits w 12 6, bits w 2 4⟩) else none
  | 1 => if w &&& 0x03000FC0#32 = 0x01000000#32 then some (.redmin ⟨bits w 18 6, bits w 12 6, bits w 2 4⟩) else none
  | 2 => if w &&& 0x03000FC0#32 = 0x01000000#32 then some (.redmax ⟨bits w 18 6, bits w 12 6, bits w 2 4⟩) else none
  | 3 => if w &&& 0x03000FC0#32 = 0x01000000#32 then some (.scanadd ⟨bits w 18 6, bits w 12 6, bits w 2 4⟩) else none
  | _ => none

/-- Major 0x15 of the opcode map (R112). -/
def decode15 (w : Word) : Option Instr :=
  match (bits w 0 4).toNat with
  | 0 => if w &&& 0x00000FD0#32 = 0x00000000#32 then some (.movv ⟨bits w 24 2, bits w 18 6, bits w 12 6, bit w 5⟩) else none
  | 1 => if w &&& 0x01000FF0#32 = 0x00000000#32 then some (.bcastw ⟨bit w 25, bits w 18 6, bits w 12 6⟩) else none
  | 2 => if w &&& 0x03000010#32 = 0x01000000#32 then some (.readl ⟨bits w 18 6, bits w 12 6, bits w 6 6, bit w 5⟩) else none
  | 3 => if w &&& 0x03000010#32 = 0x00000000#32 then some (.gslr ⟨bits w 18 6, bits w 12 6, bits w 6 6, bit w 5⟩) else none
  | 4 => if w &&& 0x03000010#32 = 0x00000000#32 then some (.gslw ⟨bits w 18 6, bits w 12 6, bits w 6 6, bit w 5⟩) else none
  | 5 => if w &&& 0x03000FF0#32 = 0x01000000#32 then some (.ktow ⟨bits w 18 6, bits w 12 6⟩) else none
  | 6 => if w &&& 0x03000FF0#32 = 0x01000000#32 then some (.wtok ⟨bits w 18 6, bits w 12 6⟩) else none
  | 7 => if w &&& 0x00020FF0#32 = 0x00000000#32 then some (.movs ⟨bits w 24 2, bits w 18 6, bits w 12 5⟩) else none
  | 8 => if w &&& 0x01038FF0#32 = 0x00000000#32 then some (.ptov ⟨bit w 25, bits w 18 6, bits w 12 3⟩) else none
  | 9 => if w &&& 0x01E00FD0#32 = 0x00000000#32 then some (.vtop ⟨bit w 25, bits w 18 3, bits w 12 6, bit w 5⟩) else none
  | _ => none

/-- Major 0x16 of the opcode map (R112). -/
def decode16 (w : Word) : Option Instr :=
  match (bits w 0 4).toNat with
  | 0 => some (.lea0 ⟨bits w 24 2, bits w 18 6, bits w 12 6, bits w 6 6, bit w 5, bit w 4⟩)
  | 1 => some (.lea1 ⟨bits w 24 2, bits w 18 6, bits w 12 6, bits w 6 6, bit w 5, bit w 4⟩)
  | 2 => some (.lea2 ⟨bits w 24 2, bits w 18 6, bits w 12 6, bits w 6 6, bit w 5, bit w 4⟩)
  | 3 => some (.lea3 ⟨bits w 24 2, bits w 18 6, bits w 12 6, bits w 6 6, bit w 5, bit w 4⟩)
  | 4 => some (.lea4 ⟨bits w 24 2, bits w 18 6, bits w 12 6, bits w 6 6, bit w 5, bit w 4⟩)
  | 5 => some (.add64 ⟨bits w 24 2, bits w 18 6, bits w 12 6, bits w 6 6, bit w 5, bit w 4⟩)
  | 6 => some (.sub64 ⟨bits w 24 2, bits w 18 6, bits w 12 6, bits w 6 6, bit w 5, bit w 4⟩)
  | _ => none

/-- Major 0x17 of the opcode map (R112). -/
def decode17 (w : Word) : Option Instr :=
  if w &&& 0x02000000#32 = 0x00000000#32 then some (.bra ⟨bit w 24, bit w 23, bits w 20 3, bits w 16 4, bits w 0 16⟩) else none

/-- Major 0x18 of the opcode map (R112). -/
def decode18 (w : Word) : Option Instr :=
  if w &&& 0x030F0000#32 = 0x000F0000#32 then some (.call ⟨bit w 23, bits w 20 3, bits w 0 16⟩) else none

/-- Major 0x19 of the opcode map (R112). -/
def decode19 (w : Word) : Option Instr :=
  match (bits w 12 2).toNat with
  | 0 => if w &&& 0x03000FFF#32 = 0x00000000#32 then some (.jmp ⟨bit w 23, bits w 20 3, bits w 14 6⟩) else none
  | 1 => if w &&& 0x03000FFF#32 = 0x00000000#32 then some (.ret ⟨bit w 23, bits w 20 3, bits w 14 6⟩) else none
  | 2 => if w &&& 0x03000FFF#32 = 0x00000000#32 then some (.callx ⟨bit w 23, bits w 20 3, bits w 14 6⟩) else none
  | _ => none

/-- Major 0x1A of the opcode map (R112). -/
def decode1A (w : Word) : Option Instr :=
  match (bits w 20 4).toNat with
  | 0 => if w &&& 0x0200FFFF#32 = 0x00000000#32 then some (.join ⟨bit w 24, bits w 16 4⟩) else none
  | 1 => if w &&& 0x0200FFFF#32 = 0x00000000#32 then some (.leave ⟨bit w 24, bits w 16 4⟩) else none
  | 2 => if w &&& 0x0300FFFF#32 = 0x00000000#32 then some (.wait ⟨bits w 16 4⟩) else none
  | 3 => if w &&& 0x020000FF#32 = 0x00000000#32 then some (.kand ⟨bit w 24, bits w 16 4, bits w 12 4, bits w 8 4⟩) else none
  | 4 => if w &&& 0x020000FF#32 = 0x00000000#32 then some (.kor ⟨bit w 24, bits w 16 4, bits w 12 4, bits w 8 4⟩) else none
  | 5 => if w &&& 0x020000FF#32 = 0x00000000#32 then some (.kandn ⟨bit w 24, bits w 16 4, bits w 12 4, bits w 8 4⟩) else none
  | 6 => if w &&& 0x020000FF#32 = 0x00000000#32 then some (.kxor ⟨bit w 24, bits w 16 4, bits w 12 4, bits w 8 4⟩) else none
  | 7 => if w &&& 0x0200FF07#32 = 0x00000000#32 then some (.ksetl ⟨bit w 24, bits w 16 4, bits w 3 5⟩) else none
  | 8 => if w &&& 0x0200FFFF#32 = 0x00000000#32 then some (.kclr ⟨bit w 24, bits w 16 4⟩) else none
  | 9 => if w &&& 0x020F0F07#32 = 0x00000000#32 then some (.kpopc ⟨bit w 24, bits w 12 4, bits w 3 5⟩) else none
  | 10 => if w &&& 0x0200FF07#32 = 0x00000000#32 then some (.kfromw ⟨bit w 24, bits w 16 4, bits w 3 5⟩) else none
  | _ => none

/-- Major 0x1B of the opcode map (R112). -/
def decode1B (w : Word) : Option Instr :=
  match (bits w 0 6).toNat with
  | 0 => if w &&& 0x00FFFFC0#32 = 0x00000000#32 then some (.bar ⟨bits w 24 2⟩) else none
  | 1 => if w &&& 0x03000000#32 = 0x01000000#32 then some (.bara ⟨bits w 18 6, bits w 12 6, bits w 6 6⟩) else none
  | 2 => if w &&& 0x03FC0000#32 = 0x01000000#32 then some (.barw ⟨bits w 12 6, bits w 6 6⟩) else none
  | 3 => if w &&& 0x0303F000#32 = 0x01000000#32 then some (.barc ⟨bits w 18 6, bits w 6 6⟩) else none
  | 4 => if w &&& 0x03000FC0#32 = 0x03000000#32 then some (.carve ⟨bits w 18 6, bits w 12 6⟩) else none
  | _ => none

/-- Major 0x1C of the opcode map (R112). -/
def decode1C (w : Word) : Option Instr :=
  match (bits w 0 6).toNat with
  | 0 => if w &&& 0x03FFFFC0#32 = 0x00000000#32 then some (.exitB) else none
  | 1 => if w &&& 0x03FFFFC0#32 = 0x00000000#32 then some (.yield) else none
  | 2 => if w &&& 0x00FFFFC0#32 = 0x00000000#32 then some (.nop ⟨bits w 24 2⟩) else none
  | 3 => if w &&& 0x03FC0FC0#32 = 0x00000000#32 then some (.sleep ⟨bits w 12 6⟩) else none
  | 4 => if w &&& 0x03000FC0#32 = 0x03000000#32 then some (.spawn ⟨bits w 18 6, bits w 12 6⟩) else none
  | 5 => if w &&& 0x0303F000#32 = 0x01000000#32 then some (.groupq ⟨bits w 18 6, bits w 6 6⟩) else none
  | _ => none

/-- Major 0x1D of the opcode map (R112). -/
def decode1D (w : Word) : Option Instr :=
  match (bits w 0 6).toNat with
  | 0 => if w &&& 0x03FC0FC0#32 = 0x00000000#32 then some (.trap ⟨bits w 12 6⟩) else none
  | 1 => if w &&& 0x03FFFF80#32 = 0x01000000#32 then some (.rte ⟨bit w 6⟩) else none
  | 2 => if w &&& 0x03000000#32 = 0x01000000#32 then some (.sysc ⟨bits w 18 6, bits w 12 6, bits w 6 6⟩) else none
  | 3 => if w &&& 0x03000FC0#32 = 0x01000000#32 then some (.fpxr ⟨bits w 18 6, bits w 12 6⟩) else none
  | 4 => if w &&& 0x03000FC0#32 = 0x01000000#32 then some (.fpxc ⟨bits w 18 6, bits w 12 6⟩) else none
  | 5 => if w &&& 0x03FFFFC0#32 = 0x00000000#32 then some (.bkpt) else none
  | _ => none

/-- Major 0x1E of the opcode map (R112). -/
def decode1E (w : Word) : Option Instr :=
  some (.ld ⟨bits w 24 2, bits w 18 6, bits w 12 6, bit w 11, bits w 9 2, bits w 7 2, bits w 0 7⟩)

/-- Major 0x1F of the opcode map (R112). -/
def decode1F (w : Word) : Option Instr :=
  if w &&& 0x00000180#32 = 0x00000000#32 then some (.lds ⟨bits w 24 2, bits w 18 6, bits w 12 6, bit w 11, bits w 9 2, bits w 0 7⟩) else none

/-- Major 0x20 of the opcode map (R112). -/
def decode20 (w : Word) : Option Instr :=
  some (.ldp ⟨bits w 24 2, bits w 18 6, bits w 12 6, bit w 11, bits w 9 2, bits w 5 4, bits w 0 5⟩)

/-- Major 0x21 of the opcode map (R112). -/
def decode21 (w : Word) : Option Instr :=
  some (.st ⟨bits w 24 2, bit w 23, bits w 20 3, bits w 14 6, bits w 8 6, bits w 6 2, bits w 0 6⟩)

/-- Major 0x22 of the opcode map (R112). -/
def decode22 (w : Word) : Option Instr :=
  some (.sts ⟨bits w 24 2, bit w 23, bits w 20 3, bits w 14 6, bits w 8 6, bits w 6 2, bits w 0 6⟩)

/-- Major 0x23 of the opcode map (R112). -/
def decode23 (w : Word) : Option Instr :=
  match (bits w 0 2).toNat with
  | 0 => if w &&& 0x02000000#32 = 0x00000000#32 then some (.atomAdd ⟨bit w 24, bit w 23, bits w 20 3, bits w 14 6, bits w 8 6, bits w 2 6⟩) else none
  | 1 => if w &&& 0x02000000#32 = 0x00000000#32 then some (.atomExch ⟨bit w 24, bit w 23, bits w 20 3, bits w 14 6, bits w 8 6, bits w 2 6⟩) else none
  | 2 => if w &&& 0x02000000#32 = 0x00000000#32 then some (.atomMins ⟨bit w 24, bit w 23, bits w 20 3, bits w 14 6, bits w 8 6, bits w 2 6⟩) else none
  | 3 => if w &&& 0x02000000#32 = 0x00000000#32 then some (.atomMaxs ⟨bit w 24, bit w 23, bits w 20 3, bits w 14 6, bits w 8 6, bits w 2 6⟩) else none
  | _ => none

/-- Major 0x24 of the opcode map (R112). -/
def decode24 (w : Word) : Option Instr :=
  match (bits w 0 2).toNat with
  | 0 => if w &&& 0x02000000#32 = 0x00000000#32 then some (.atombAnd ⟨bit w 24, bit w 23, bits w 20 3, bits w 14 6, bits w 8 6, bits w 2 6⟩) else none
  | 1 => if w &&& 0x02000000#32 = 0x00000000#32 then some (.atombOr ⟨bit w 24, bit w 23, bits w 20 3, bits w 14 6, bits w 8 6, bits w 2 6⟩) else none
  | 2 => if w &&& 0x02000000#32 = 0x00000000#32 then some (.atombXor ⟨bit w 24, bit w 23, bits w 20 3, bits w 14 6, bits w 8 6, bits w 2 6⟩) else none
  | 3 => if w &&& 0x02000000#32 = 0x00000000#32 then some (.atombCas ⟨bit w 24, bit w 23, bits w 20 3, bits w 14 6, bits w 8 6, bits w 2 6⟩) else none
  | _ => none

/-- Major 0x25 of the opcode map (R112). -/
def decode25 (w : Word) : Option Instr :=
  match (bits w 0 2).toNat with
  | 0 => if w &&& 0x02000000#32 = 0x00000000#32 then some (.atomfFadd ⟨bit w 24, bit w 23, bits w 20 3, bits w 14 6, bits w 8 6, bits w 2 6⟩) else none
  | 1 => if w &&& 0x02000000#32 = 0x00000000#32 then some (.atomfFmin ⟨bit w 24, bit w 23, bits w 20 3, bits w 14 6, bits w 8 6, bits w 2 6⟩) else none
  | 2 => if w &&& 0x02000000#32 = 0x00000000#32 then some (.atomfFmax ⟨bit w 24, bit w 23, bits w 20 3, bits w 14 6, bits w 8 6, bits w 2 6⟩) else none
  | 3 => if w &&& 0x02000000#32 = 0x00000000#32 then some (.atomfIncw ⟨bit w 24, bit w 23, bits w 20 3, bits w 14 6, bits w 8 6, bits w 2 6⟩) else none
  | _ => none

/-- Major 0x26 of the opcode map (R112). -/
def decode26 (w : Word) : Option Instr :=
  match (bits w 0 2).toNat with
  | 0 => if w &&& 0x02000000#32 = 0x00000000#32 then some (.atomsAdd ⟨bit w 24, bit w 23, bits w 20 3, bits w 14 6, bits w 8 6, bits w 2 6⟩) else none
  | 1 => if w &&& 0x02000000#32 = 0x00000000#32 then some (.atomsExch ⟨bit w 24, bit w 23, bits w 20 3, bits w 14 6, bits w 8 6, bits w 2 6⟩) else none
  | 2 => if w &&& 0x02000000#32 = 0x00000000#32 then some (.atomsCas ⟨bit w 24, bit w 23, bits w 20 3, bits w 14 6, bits w 8 6, bits w 2 6⟩) else none
  | 3 => if w &&& 0x02000000#32 = 0x00000000#32 then some (.atomsMaxn ⟨bit w 24, bit w 23, bits w 20 3, bits w 14 6, bits w 8 6, bits w 2 6⟩) else none
  | _ => none

/-- Major 0x27 of the opcode map (R112). -/
def decode27 (w : Word) : Option Instr :=
  match (bits w 14 6).toNat with
  | 0 => if w &&& 0x02000002#32 = 0x00000000#32 then some (.redAdd ⟨bit w 24, bit w 23, bits w 20 3, bits w 8 6, bits w 2 6, bit w 0⟩) else none
  | 1 => if w &&& 0x02000002#32 = 0x00000000#32 then some (.redMins ⟨bit w 24, bit w 23, bits w 20 3, bits w 8 6, bits w 2 6, bit w 0⟩) else none
  | 2 => if w &&& 0x02000002#32 = 0x00000000#32 then some (.redMaxs ⟨bit w 24, bit w 23, bits w 20 3, bits w 8 6, bits w 2 6, bit w 0⟩) else none
  | 3 => if w &&& 0x02000002#32 = 0x00000000#32 then some (.redAnd ⟨bit w 24, bit w 23, bits w 20 3, bits w 8 6, bits w 2 6, bit w 0⟩) else none
  | 4 => if w &&& 0x02000002#32 = 0x00000000#32 then some (.redOr ⟨bit w 24, bit w 23, bits w 20 3, bits w 8 6, bits w 2 6, bit w 0⟩) else none
  | 5 => if w &&& 0x02000002#32 = 0x00000000#32 then some (.redXor ⟨bit w 24, bit w 23, bits w 20 3, bits w 8 6, bits w 2 6, bit w 0⟩) else none
  | 6 => if w &&& 0x02000002#32 = 0x00000000#32 then some (.redFadd ⟨bit w 24, bit w 23, bits w 20 3, bits w 8 6, bits w 2 6, bit w 0⟩) else none
  | 7 => if w &&& 0x02000002#32 = 0x00000000#32 then some (.redHadd2 ⟨bit w 24, bit w 23, bits w 20 3, bits w 8 6, bits w 2 6, bit w 0⟩) else none
  | 8 => if w &&& 0x02000002#32 = 0x00000000#32 then some (.redBadd2 ⟨bit w 24, bit w 23, bits w 20 3, bits w 8 6, bits w 2 6, bit w 0⟩) else none
  | _ => none

/-- Major 0x28 of the opcode map (R112). -/
def decode28 (w : Word) : Option Instr :=
  match (bits w 0 6).toNat with
  | 0 => if w &&& 0x02FFFFC0#32 = 0x00000000#32 then some (.fence ⟨bit w 24⟩) else none
  | 1 => if w &&& 0x02000F80#32 = 0x00000000#32 then some (.pin ⟨bit w 24, bits w 18 6, bits w 12 6, bit w 6⟩) else none
  | 2 => if w &&& 0x02FC0F80#32 = 0x00000000#32 then some (.unpin ⟨bit w 24, bits w 12 6, bit w 6⟩) else none
  | 3 => if w &&& 0x02FC0F80#32 = 0x00000000#32 then some (.invl1 ⟨bit w 24, bits w 12 6, bit w 6⟩) else none
  | 4 => if w &&& 0x02FC0F80#32 = 0x00000000#32 then some (.wbl2 ⟨bit w 24, bits w 12 6, bit w 6⟩) else none
  | 5 => if w &&& 0x02FC0F80#32 = 0x00000000#32 then some (.pref ⟨bit w 24, bits w 12 6, bit w 6⟩) else none
  | 6 => if w &&& 0x0303FFC0#32 = 0x01000000#32 then some (.sigq ⟨bits w 18 6⟩) else none
  | _ => none

/-- Major 0x29 of the opcode map (R112). -/
def decode29 (w : Word) : Option Instr :=
  match (bits w 0 6).toNat with
  | 0 => if w &&& 0x03000FC0#32 = 0x01000000#32 then some (.cplin ⟨bits w 18 6, bits w 12 6⟩) else none
  | 1 => if w &&& 0x03000000#32 = 0x01000000#32 then some (.cpidx ⟨bits w 18 6, bits w 12 6, bits w 6 6⟩) else none
  | 2 => if w &&& 0x03FC0FC0#32 = 0x01000000#32 then some (.cpqf ⟨bits w 12 6⟩) else none
  | 3 => if w &&& 0x03000FC0#32 = 0x01000000#32 then some (.cpstat ⟨bits w 18 6, bits w 12 6⟩) else none
  | 4 => if w &&& 0x03000FC0#32 = 0x01000000#32 then some (.cpmc ⟨bits w 18 6, bits w 12 6⟩) else none
  | _ => none

/-- Major 0x2A of the opcode map (R112). -/
def decode2A (w : Word) : Option Instr :=
  match (bits w 0 6).toNat with
  | 0 => if w &&& 0x03FC0000#32 = 0x01000000#32 then some (.swarm ⟨bits w 12 6, bits w 6 6⟩) else none
  | 1 => if w &&& 0x03000000#32 = 0x01000000#32 then some (.swwait ⟨bits w 18 6, bits w 12 6, bits w 6 6⟩) else none
  | 2 => if w &&& 0x03FC0000#32 = 0x01000000#32 then some (.swadd ⟨bits w 12 6, bits w 6 6⟩) else none
  | 3 => if w &&& 0x03000FC0#32 = 0x01000000#32 then some (.swrd ⟨bits w 18 6, bits w 12 6⟩) else none
  | _ => none

/-- Major 0x2B of the opcode map (R112). -/
def decode2B (w : Word) : Option Instr :=
  match (bits w 0 6).toNat with
  | 0 => if w &&& 0x03FC0000#32 = 0x01000000#32 then some (.push ⟨bits w 12 6, bits w 6 6⟩) else none
  | 1 => if w &&& 0x03000000#32 = 0x01000000#32 then some (.pusht ⟨bits w 18 6, bits w 12 6, bits w 6 6⟩) else none
  | 2 => if w &&& 0x0303F000#32 = 0x01000000#32 then some (.pop ⟨bits w 18 6, bits w 6 6⟩) else none
  | 3 => if w &&& 0x0303F000#32 = 0x01000000#32 then some (.popt ⟨bits w 18 6, bits w 6 6⟩) else none
  | 4 => if w &&& 0x0303F000#32 = 0x01000000#32 then some (.pipeq ⟨bits w 18 6, bits w 6 6⟩) else none
  | _ => none

/-- Major 0x2C of the opcode map (R112). -/
noncomputable def decode2C (w : Word) : Option Instr :=
  match (bits w 0 6).toNat with
  | 0 => if w &&& 0x0303F000#32 = 0x00000000#32 then some (.deq ⟨bits w 18 6, bits w 6 6⟩) else none
  | 1 => if w &&& 0x02FC0000#32 = 0x00000000#32 then some (.done ⟨bit w 24, bits w 12 6, bits w 6 6⟩) else none
  | 2 => if w &&& 0x02FC0000#32 = 0x00000000#32 then some (.depadd ⟨bit w 24, bits w 12 6, bits w 6 6⟩) else none
  | 3 => if w &&& 0x02FC0FC0#32 = 0x00000000#32 then some (.cancel ⟨bit w 24, bits w 12 6⟩) else none
  | 4 => if w &&& 0x0303F000#32 = 0x01000000#32 then some (.tqstat ⟨bits w 18 6, bits w 6 6⟩) else none
  | _ => none

/-- Major 0x2D of the opcode map (R112). -/
noncomputable def decode2D (w : Word) : Option Instr :=
  match (bits w 0 8).toNat with
  | 0 => if w &&& 0x02000000#32 = 0x00000000#32 then some (.enq ⟨bit w 24, bit w 23, bits w 20 3, bits w 14 6, bits w 8 6⟩) else none
  | 1 => if w &&& 0x03000000#32 = 0x01000000#32 then some (.enqCmp ⟨bit w 23, bits w 20 3, bits w 14 6, bits w 8 6⟩) else none
  | _ => none

/-- Major 0x2E of the opcode map (R112). -/
noncomputable def decode2E (w : Word) : Option Instr :=
  match (bits w 0 6).toNat with
  | 0 => if w &&& 0x03000FC0#32 = 0x01000000#32 then some (.put ⟨bits w 18 6, bits w 12 6⟩) else none
  | 1 => if w &&& 0x03000FC0#32 = 0x01000000#32 then some (.putsig ⟨bits w 18 6, bits w 12 6⟩) else none
  | 2 => if w &&& 0x03000FC0#32 = 0x01000000#32 then some (.winrd ⟨bits w 18 6, bits w 12 6⟩) else none
  | 3 => if w &&& 0x03000000#32 = 0x01000000#32 then some (.winwait ⟨bits w 18 6, bits w 12 6, bits w 6 6⟩) else none
  | _ => none

/-- Major 0x2F of the opcode map (R112). -/
noncomputable def decode2F (w : Word) : Option Instr :=
  match (bits w 0 6).toNat with
  | 0 => if w &&& 0x03000FC0#32 = 0x03000000#32 then some (.mxres ⟨bits w 18 6, bits w 12 6⟩) else none
  | 1 => if w &&& 0x03FFFFC0#32 = 0x03000000#32 then some (.mxrel) else none
  | 2 => if w &&& 0x03FC0000#32 = 0x01000000#32 then some (.mxzero ⟨bits w 12 6, bits w 6 6⟩) else none
  | 3 => if w &&& 0x01000000#32 = 0x01000000#32 then some (.mxstat ⟨bit w 25, bits w 18 6, bits w 12 6, bits w 6 6⟩) else none
  | 4 => if w &&& 0x0303FFC0#32 = 0x01000000#32 then some (.mxtest ⟨bits w 18 6⟩) else none
  | 5 => if w &&& 0x03FC0FC0#32 = 0x01000000#32 then some (.mxpri ⟨bits w 12 6⟩) else none
  | _ => none

/-- Major 0x30 of the opcode map (R112). -/
noncomputable def decode30 (w : Word) : Option Instr :=
  some (.mma ⟨bits w 24 2, bits w 18 6, bits w 12 6, bits w 7 5, bits w 5 2, bits w 0 5⟩)

/-- Major 0x31 of the opcode map (R112). -/
noncomputable def decode31 (w : Word) : Option Instr :=
  match (bits w 0 6).toNat with
  | 0 => if w &&& 0x03FC0000#32 = 0x01000000#32 then some (.mxds ⟨bits w 12 6, bits w 6 6⟩) else none
  | 1 => if w &&& 0x03000000#32 = 0x01000000#32 then some (.mxdv ⟨bits w 18 6, bits w 12 6, bits w 6 6⟩) else none
  | 2 => if w &&& 0x03FC0FC0#32 = 0x01000000#32 then some (.req ⟨bits w 12 6⟩) else none
  | 3 => if w &&& 0x03FC0000#32 = 0x01000000#32 then some (.mxld ⟨bits w 12 6, bits w 6 6⟩) else none
  | _ => none

/-- Major 0x32 of the opcode map (R112). -/
noncomputable def decode32 (w : Word) : Option Instr :=
  match (bits w 0 6).toNat with
  | 0 => if w &&& 0x03000FC0#32 = 0x01000000#32 then some (.wstart ⟨bits w 18 6, bits w 12 6⟩) else none
  | 1 => if w &&& 0x03000000#32 = 0x01000000#32 then some (.wjoin ⟨bits w 18 6, bits w 12 6, bits w 6 6⟩) else none
  | 2 => if w &&& 0x03000000#32 = 0x01000000#32 then some (.wleave ⟨bits w 18 6, bits w 12 6, bits w 6 6⟩) else none
  | 3 => if w &&& 0x03000FC0#32 = 0x01000000#32 then some (.wwait ⟨bits w 18 6, bits w 12 6⟩) else none
  | 4 => if w &&& 0x03000000#32 = 0x01000000#32 then some (.wstat ⟨bits w 18 6, bits w 12 6, bits w 6 6⟩) else none
  | 5 => if w &&& 0x03000FC0#32 = 0x01000000#32 then some (.kvapp ⟨bits w 18 6, bits w 12 6⟩) else none
  | 6 => if w &&& 0x03000000#32 = 0x01000000#32 then some (.wretire ⟨bits w 18 6, bits w 12 6, bits w 6 6⟩) else none
  | _ => none

/-- Major 0x33 of the opcode map (R112). -/
noncomputable def decode33 (w : Word) : Option Instr :=
  match (bits w 0 6).toNat with
  | 0 => if w &&& 0x03000FC0#32 = 0x01000000#32 then some (.sopen ⟨bits w 18 6, bits w 12 6⟩) else none
  | 1 => if w &&& 0x03000000#32 = 0x01000000#32 then some (.ssig ⟨bits w 18 6, bits w 12 6, bits w 6 6⟩) else none
  | 2 => if w &&& 0x03000000#32 = 0x01000000#32 then some (.scommit ⟨bits w 18 6, bits w 12 6, bits w 6 6⟩) else none
  | 3 => if w &&& 0x03000000#32 = 0x01000000#32 then some (.smap ⟨bits w 18 6, bits w 12 6, bits w 6 6⟩) else none
  | 4 => if w &&& 0x03000FC0#32 = 0x01000000#32 then some (.sclose ⟨bits w 18 6, bits w 12 6⟩) else none
  | _ => none

/-- Major 0x34 of the opcode map (R112). -/
noncomputable def decode34 (w : Word) : Option Instr :=
  match (bits w 0 6).toNat with
  | 0 => if w &&& 0x03000FC0#32 = 0x01000000#32 then some (.mapbind ⟨bits w 18 6, bits w 12 6⟩) else none
  | 1 => if w &&& 0x03000000#32 = 0x01000000#32 then some (.mapcomp ⟨bits w 18 6, bits w 12 6, bits w 6 6⟩) else none
  | 2 => if w &&& 0x03000000#32 = 0x01000000#32 then some (.mapapply ⟨bits w 18 6, bits w 12 6, bits w 6 6⟩) else none
  | 3 => if w &&& 0x03000000#32 = 0x01000000#32 then some (.mapmask ⟨bits w 18 6, bits w 12 6, bits w 6 6⟩) else none
  | 4 => if w &&& 0x03000FC0#32 = 0x01000000#32 then some (.mapstat ⟨bits w 18 6, bits w 12 6⟩) else none
  | _ => none

/-- Major 0x35 of the opcode map (R112). -/
noncomputable def decode35 (w : Word) : Option Instr :=
  match (bits w 0 6).toNat with
  | 0 => if w &&& 0x03000FC0#32 = 0x01000000#32 then some (.dsub ⟨bits w 18 6, bits w 12 6⟩) else none
  | 1 => if w &&& 0x03000FC0#32 = 0x01000000#32 then some (.dstat ⟨bits w 18 6, bits w 12 6⟩) else none
  | 2 => if w &&& 0x03000FC0#32 = 0x01000000#32 then some (.dwait ⟨bits w 18 6, bits w 12 6⟩) else none
  | _ => none

/-- Major 0x36 of the opcode map (R112). -/
noncomputable def decode36 (w : Word) : Option Instr :=
  match (bits w 0 6).toNat with
  | 0 => if w &&& 0x03000FC0#32 = 0x01000000#32 then some (.tksel ⟨bits w 18 6, bits w 12 6⟩) else none
  | 1 => if w &&& 0x03000FC0#32 = 0x01000000#32 then some (.tkmrg ⟨bits w 18 6, bits w 12 6⟩) else none
  | 2 => if w &&& 0x03000FC0#32 = 0x01000000#32 then some (.tkwait ⟨bits w 18 6, bits w 12 6⟩) else none
  | _ => none

/-- Major 0x3F of the opcode map (R112). -/
noncomputable def decode3F (w : Word) : Option Instr :=
  match (bits w 22 4).toNat with
  | 0 => some (.xwImm ⟨bits w 0 22⟩)
  | 1 => if w &&& 0x00000001#32 = 0x00000000#32 then some (.xwMod ⟨bits w 18 4, bits w 15 3, bit w 14, bits w 8 6, bit w 7, bit w 6, bits w 4 2, bit w 3, bit w 2, bit w 1⟩) else none
  | 2 => if w &&& 0x0001FFFF#32 = 0x00000000#32 then some (.xwOrd ⟨bits w 20 2, bits w 17 3⟩) else none
  | 3 => some (.xwFmt ⟨bits w 17 5, bits w 11 6, bits w 5 6, bits w 3 2, bits w 0 3⟩)
  | 4 => if w &&& 0x00003FFF#32 = 0x00000000#32 then some (.xwSched ⟨bit w 21, bits w 19 2, bits w 14 5⟩) else none
  | _ => none

/-- The instruction that a 32-bit word holds (R87, R112), or `none` for a word that R113 makes
illegal whatever the registers and prefixes. Total on every word. -/
noncomputable def decodeWord (w : Word) : Option Instr :=
  match (bits w 26 6).toNat with
  | 0x01 => decode01 w
  | 0x02 => decode02 w
  | 0x03 => decode03 w
  | 0x04 => decode04 w
  | 0x05 => decode05 w
  | 0x06 => decode06 w
  | 0x07 => decode07 w
  | 0x08 => decode08 w
  | 0x09 => decode09 w
  | 0x0A => decode0A w
  | 0x0B => decode0B w
  | 0x0C => decode0C w
  | 0x0D => decode0D w
  | 0x0E => decode0E w
  | 0x0F => decode0F w
  | 0x10 => decode10 w
  | 0x11 => decode11 w
  | 0x12 => decode12 w
  | 0x13 => decode13 w
  | 0x14 => decode14 w
  | 0x15 => decode15 w
  | 0x16 => decode16 w
  | 0x17 => decode17 w
  | 0x18 => decode18 w
  | 0x19 => decode19 w
  | 0x1A => decode1A w
  | 0x1B => decode1B w
  | 0x1C => decode1C w
  | 0x1D => decode1D w
  | 0x1E => decode1E w
  | 0x1F => decode1F w
  | 0x20 => decode20 w
  | 0x21 => decode21 w
  | 0x22 => decode22 w
  | 0x23 => decode23 w
  | 0x24 => decode24 w
  | 0x25 => decode25 w
  | 0x26 => decode26 w
  | 0x27 => decode27 w
  | 0x28 => decode28 w
  | 0x29 => decode29 w
  | 0x2A => decode2A w
  | 0x2B => decode2B w
  | 0x2C => decode2C w
  | 0x2D => decode2D w
  | 0x2E => decode2E w
  | 0x2F => decode2F w
  | 0x30 => decode30 w
  | 0x31 => decode31 w
  | 0x32 => decode32 w
  | 0x33 => decode33 w
  | 0x34 => decode34 w
  | 0x35 => decode35 w
  | 0x36 => decode36 w
  | 0x3F => decode3F w
  | _ => none

/-- The word stored little-endian in four bytes (R5, R87). -/
def wordOfBytes (b0 b1 b2 b3 : Byte) : Word := b3 ++ b2 ++ b1 ++ b0

/-- The four bytes of a word, the lowest address first (R5). -/
def bytesOfWord (w : Word) : List Byte :=
  [w.extractLsb' 0 8, w.extractLsb' 8 8, w.extractLsb' 16 8, w.extractLsb' 24 8]

/-- Decode the first instruction word of a byte string and give the bytes that follow it. -/
noncomputable def decodeBytes : List Byte → Option (Instr × List Byte)
  | b0 :: b1 :: b2 :: b3 :: rest => (decodeWord (wordOfBytes b0 b1 b2 b3)).map (·, rest)
  | _ => none

/-- The instruction read from a word whose bits are numbered as the opcode table numbers them: laid
out as the hardware stores it, and given to the decoder. -/
noncomputable def decodeTableWord (nbits w : Nat) : Option Instr :=
  if nbits ≤ 32 ∧ w < 2 ^ nbits then
    (decodeBytes (bytesOfWord (BitVec.ofNat 32 w))).map (·.1)
  else none

/-- The flag bit of an encoded word. -/
def fl (b : Bool) : BitVec 1 := BitVec.ofBool b

/-- The word of an encoded instruction, its fields placed from bit 31 downward as R90 and R112 lay
them out. The steps of the device that have no encoding have no word. -/
def encode : Instr → Option Word
  | .iadd f => some (1#6 ++ f.sc ++ f.d ++ f.a ++ f.b ++ fl f.ta ++ fl f.tb ++ 0#4)
  | .isub f => some (1#6 ++ f.sc ++ f.d ++ f.a ++ f.b ++ fl f.ta ++ fl f.tb ++ 1#4)
  | .imul f => some (1#6 ++ f.sc ++ f.d ++ f.a ++ f.b ++ fl f.ta ++ fl f.tb ++ 2#4)
  | .imulhS f => some (1#6 ++ f.sc ++ f.d ++ f.a ++ f.b ++ fl f.ta ++ fl f.tb ++ 3#4)
  | .imulhN f => some (1#6 ++ f.sc ++ f.d ++ f.a ++ f.b ++ fl f.ta ++ fl f.tb ++ 4#4)
  | .iminS f => some (1#6 ++ f.sc ++ f.d ++ f.a ++ f.b ++ fl f.ta ++ fl f.tb ++ 5#4)
  | .iminN f => some (1#6 ++ f.sc ++ f.d ++ f.a ++ f.b ++ fl f.ta ++ fl f.tb ++ 6#4)
  | .imaxS f => some (1#6 ++ f.sc ++ f.d ++ f.a ++ f.b ++ fl f.ta ++ fl f.tb ++ 7#4)
  | .imaxN f => some (1#6 ++ f.sc ++ f.d ++ f.a ++ f.b ++ fl f.ta ++ fl f.tb ++ 8#4)
  | .iabsd f => some (1#6 ++ f.sc ++ f.d ++ f.a ++ f.b ++ fl f.ta ++ fl f.tb ++ 9#4)
  | .iaddsS f => some (1#6 ++ f.sc ++ f.d ++ f.a ++ f.b ++ fl f.ta ++ fl f.tb ++ 10#4)
  | .isubsS f => some (1#6 ++ f.sc ++ f.d ++ f.a ++ f.b ++ fl f.ta ++ fl f.tb ++ 11#4)
  | .andB f => some (2#6 ++ f.sc ++ f.d ++ f.a ++ f.b ++ fl f.ta ++ fl f.tb ++ 0#4)
  | .orB f => some (2#6 ++ f.sc ++ f.d ++ f.a ++ f.b ++ fl f.ta ++ fl f.tb ++ 1#4)
  | .xorB f => some (2#6 ++ f.sc ++ f.d ++ f.a ++ f.b ++ fl f.ta ++ fl f.tb ++ 2#4)
  | .andn f => some (2#6 ++ f.sc ++ f.d ++ f.a ++ f.b ++ fl f.ta ++ fl f.tb ++ 3#4)
  | .orn f => some (2#6 ++ f.sc ++ f.d ++ f.a ++ f.b ++ fl f.ta ++ fl f.tb ++ 4#4)
  | .shl f => some (2#6 ++ f.sc ++ f.d ++ f.a ++ f.b ++ fl f.ta ++ fl f.tb ++ 5#4)
  | .shr f => some (2#6 ++ f.sc ++ f.d ++ f.a ++ f.b ++ fl f.ta ++ fl f.tb ++ 6#4)
  | .sar f => some (2#6 ++ f.sc ++ f.d ++ f.a ++ f.b ++ fl f.ta ++ fl f.tb ++ 7#4)
  | .rotl f => some (2#6 ++ f.sc ++ f.d ++ f.a ++ f.b ++ fl f.ta ++ fl f.tb ++ 8#4)
  | .rotr f => some (2#6 ++ f.sc ++ f.d ++ f.a ++ f.b ++ fl f.ta ++ fl f.tb ++ 9#4)
  | .popc f => some (2#6 ++ f.sc ++ f.d ++ f.a ++ 0#6 ++ fl f.ta ++ 10#5)
  | .clz f => some (2#6 ++ f.sc ++ f.d ++ f.a ++ 0#6 ++ fl f.ta ++ 11#5)
  | .brev f => some (2#6 ++ f.sc ++ f.d ++ f.a ++ 0#6 ++ fl f.ta ++ 12#5)
  | .bfxN f => some (2#6 ++ f.sc ++ f.d ++ f.a ++ f.b ++ fl f.ta ++ fl f.tb ++ 13#4)
  | .bfxS f => some (2#6 ++ f.sc ++ f.d ++ f.a ++ f.b ++ fl f.ta ++ fl f.tb ++ 14#4)
  | .bfi f => some (2#6 ++ f.sc ++ f.d ++ f.a ++ f.b ++ fl f.ta ++ fl f.tb ++ 15#4)
  | .imad f => some (3#6 ++ f.sc ++ f.d ++ f.a ++ f.b ++ fl f.ta ++ fl f.tb ++ 0#4)
  | .imadhS f => some (3#6 ++ f.sc ++ f.d ++ f.a ++ f.b ++ fl f.ta ++ fl f.tb ++ 1#4)
  | .imadhN f => some (3#6 ++ f.sc ++ f.d ++ f.a ++ f.b ++ fl f.ta ++ fl f.tb ++ 2#4)
  | .imadwS f => some (3#6 ++ f.sc ++ f.d ++ f.a ++ f.b ++ fl f.ta ++ fl f.tb ++ 3#4)
  | .imadwN f => some (3#6 ++ f.sc ++ f.d ++ f.a ++ f.b ++ fl f.ta ++ fl f.tb ++ 4#4)
  | .idot4S8 f => some (3#6 ++ f.sc ++ f.d ++ f.a ++ f.b ++ fl f.ta ++ fl f.tb ++ 5#4)
  | .idot4N8 f => some (3#6 ++ f.sc ++ f.d ++ f.a ++ f.b ++ fl f.ta ++ fl f.tb ++ 6#4)
  | .idot8S4 f => some (3#6 ++ f.sc ++ f.d ++ f.a ++ f.b ++ fl f.ta ++ fl f.tb ++ 7#4)
  | .idot8N4 f => some (3#6 ++ f.sc ++ f.d ++ f.a ++ f.b ++ fl f.ta ++ fl f.tb ++ 8#4)
  | .iaddi f => some (4#6 ++ f.sc ++ f.d ++ f.a ++ fl f.ta ++ f.imm)
  | .shli f => some (5#6 ++ f.sc ++ f.d ++ f.a ++ fl f.ta ++ 0#6 ++ f.imm)
  | .shri f => some (5#6 ++ f.sc ++ f.d ++ f.a ++ fl f.ta ++ 8#6 ++ f.imm)
  | .sari f => some (5#6 ++ f.sc ++ f.d ++ f.a ++ fl f.ta ++ 16#6 ++ f.imm)
  | .rotli f => some (5#6 ++ f.sc ++ f.d ++ f.a ++ fl f.ta ++ 24#6 ++ f.imm)
  | .andi f => some (5#6 ++ f.sc ++ f.d ++ f.a ++ fl f.ta ++ 4#3 ++ f.imm)
  | .ori f => some (5#6 ++ f.sc ++ f.d ++ f.a ++ fl f.ta ++ 5#3 ++ f.imm)
  | .xori f => some (5#6 ++ f.sc ++ f.d ++ f.a ++ fl f.ta ++ 6#3 ++ f.imm)
  | .imuli f => some (5#6 ++ f.sc ++ f.d ++ f.a ++ fl f.ta ++ 7#3 ++ f.imm)
  | .movi f => some (6#6 ++ f.sc ++ f.d ++ f.imm)
  | .icmpEq f => some (7#6 ++ f.sc ++ f.pd ++ f.cb ++ f.a ++ f.b ++ fl f.ta ++ fl f.tb ++ 0#5)
  | .icmpNe f => some (7#6 ++ f.sc ++ f.pd ++ f.cb ++ f.a ++ f.b ++ fl f.ta ++ fl f.tb ++ 1#5)
  | .icmpLtS f => some (7#6 ++ f.sc ++ f.pd ++ f.cb ++ f.a ++ f.b ++ fl f.ta ++ fl f.tb ++ 2#5)
  | .icmpLeS f => some (7#6 ++ f.sc ++ f.pd ++ f.cb ++ f.a ++ f.b ++ fl f.ta ++ fl f.tb ++ 3#5)
  | .icmpGtS f => some (7#6 ++ f.sc ++ f.pd ++ f.cb ++ f.a ++ f.b ++ fl f.ta ++ fl f.tb ++ 4#5)
  | .icmpGeS f => some (7#6 ++ f.sc ++ f.pd ++ f.cb ++ f.a ++ f.b ++ fl f.ta ++ fl f.tb ++ 5#5)
  | .icmpLtN f => some (7#6 ++ f.sc ++ f.pd ++ f.cb ++ f.a ++ f.b ++ fl f.ta ++ fl f.tb ++ 6#5)
  | .icmpLeN f => some (7#6 ++ f.sc ++ f.pd ++ f.cb ++ f.a ++ f.b ++ fl f.ta ++ fl f.tb ++ 7#5)
  | .icmpGtN f => some (7#6 ++ f.sc ++ f.pd ++ f.cb ++ f.a ++ f.b ++ fl f.ta ++ fl f.tb ++ 8#5)
  | .icmpGeN f => some (7#6 ++ f.sc ++ f.pd ++ f.cb ++ f.a ++ f.b ++ fl f.ta ++ fl f.tb ++ 9#5)
  | .icmpTstz f => some (7#6 ++ f.sc ++ f.pd ++ f.cb ++ f.a ++ f.b ++ fl f.ta ++ fl f.tb ++ 10#5)
  | .icmpTstnz f => some (7#6 ++ f.sc ++ f.pd ++ f.cb ++ f.a ++ f.b ++ fl f.ta ++ fl f.tb ++ 11#5)
  | .icmpiEq f => some (8#6 ++ f.sc ++ f.pd ++ f.cb ++ f.a ++ fl f.ta ++ 0#4 ++ f.imm)
  | .icmpiNe f => some (8#6 ++ f.sc ++ f.pd ++ f.cb ++ f.a ++ fl f.ta ++ 1#4 ++ f.imm)
  | .icmpiLtS f => some (8#6 ++ f.sc ++ f.pd ++ f.cb ++ f.a ++ fl f.ta ++ 2#4 ++ f.imm)
  | .icmpiLeS f => some (8#6 ++ f.sc ++ f.pd ++ f.cb ++ f.a ++ fl f.ta ++ 3#4 ++ f.imm)
  | .icmpiGtS f => some (8#6 ++ f.sc ++ f.pd ++ f.cb ++ f.a ++ fl f.ta ++ 4#4 ++ f.imm)
  | .icmpiGeS f => some (8#6 ++ f.sc ++ f.pd ++ f.cb ++ f.a ++ fl f.ta ++ 5#4 ++ f.imm)
  | .icmpiLtN f => some (8#6 ++ f.sc ++ f.pd ++ f.cb ++ f.a ++ fl f.ta ++ 6#4 ++ f.imm)
  | .icmpiLeN f => some (8#6 ++ f.sc ++ f.pd ++ f.cb ++ f.a ++ fl f.ta ++ 7#4 ++ f.imm)
  | .icmpiGtN f => some (8#6 ++ f.sc ++ f.pd ++ f.cb ++ f.a ++ fl f.ta ++ 8#4 ++ f.imm)
  | .icmpiGeN f => some (8#6 ++ f.sc ++ f.pd ++ f.cb ++ f.a ++ fl f.ta ++ 9#4 ++ f.imm)
  | .icmpiTstz f => some (8#6 ++ f.sc ++ f.pd ++ f.cb ++ f.a ++ fl f.ta ++ 10#4 ++ f.imm)
  | .icmpiTstnz f => some (8#6 ++ f.sc ++ f.pd ++ f.cb ++ f.a ++ fl f.ta ++ 11#4 ++ f.imm)
  | .sel f => some (9#6 ++ f.sc ++ fl f.gn ++ f.gp ++ f.d ++ f.a ++ f.b ++ fl f.ta ++ fl f.tb)
  | .prmb f => some (10#6 ++ f.sc ++ f.d ++ f.a ++ f.b ++ fl f.ta ++ fl f.tb ++ 0#4)
  | .prmn f => some (10#6 ++ f.sc ++ f.d ++ f.a ++ f.b ++ fl f.ta ++ fl f.tb ++ 1#4)
  | .prmnSx f => some (10#6 ++ f.sc ++ f.d ++ f.a ++ f.b ++ fl f.ta ++ fl f.tb ++ 2#4)
  | .prmnZx f => some (10#6 ++ f.sc ++ f.d ++ f.a ++ f.b ++ fl f.ta ++ fl f.tb ++ 3#4)
  | .pack2 f => some (10#6 ++ f.sc ++ f.d ++ f.a ++ f.b ++ fl f.ta ++ fl f.tb ++ 4#4)
  | .conv f => some (11#6 ++ f.sc ++ f.d ++ f.a ++ fl f.ta ++ f.sf ++ f.df ++ fl f.sat)
  | .fadd f => some (12#6 ++ f.sc ++ f.d ++ f.a ++ f.b ++ fl f.ta ++ fl f.tb ++ 0#4)
  | .fsub f => some (12#6 ++ f.sc ++ f.d ++ f.a ++ f.b ++ fl f.ta ++ fl f.tb ++ 1#4)
  | .fmul f => some (12#6 ++ f.sc ++ f.d ++ f.a ++ f.b ++ fl f.ta ++ fl f.tb ++ 2#4)
  | .fmin f => some (12#6 ++ f.sc ++ f.d ++ f.a ++ f.b ++ fl f.ta ++ fl f.tb ++ 3#4)
  | .fmax f => some (12#6 ++ f.sc ++ f.d ++ f.a ++ f.b ++ fl f.ta ++ fl f.tb ++ 4#4)
  | .fminnm f => some (12#6 ++ f.sc ++ f.d ++ f.a ++ f.b ++ fl f.ta ++ fl f.tb ++ 5#4)
  | .fmaxnm f => some (12#6 ++ f.sc ++ f.d ++ f.a ++ f.b ++ fl f.ta ++ fl f.tb ++ 6#4)
  | .fabs f => some (12#6 ++ f.sc ++ f.d ++ f.a ++ 0#6 ++ fl f.ta ++ 7#5)
  | .fneg f => some (12#6 ++ f.sc ++ f.d ++ f.a ++ 0#6 ++ fl f.ta ++ 8#5)
  | .fcpys f => some (12#6 ++ f.sc ++ f.d ++ f.a ++ f.b ++ fl f.ta ++ fl f.tb ++ 9#4)
  | .fscale f => some (12#6 ++ f.sc ++ f.d ++ f.a ++ f.b ++ fl f.ta ++ fl f.tb ++ 10#4)
  | .frint f => some (12#6 ++ f.sc ++ f.d ++ f.a ++ 0#6 ++ fl f.ta ++ 11#5)
  | .fclass f => some (12#6 ++ f.sc ++ f.d ++ f.a ++ 0#6 ++ fl f.ta ++ 12#5)
  | .ffma f => some (13#6 ++ f.sc ++ f.d ++ f.a ++ f.b ++ fl f.ta ++ fl f.tb ++ 0#4)
  | .ffms f => some (13#6 ++ f.sc ++ f.d ++ f.a ++ f.b ++ fl f.ta ++ fl f.tb ++ 1#4)
  | .ffnma f => some (13#6 ++ f.sc ++ f.d ++ f.a ++ f.b ++ fl f.ta ++ fl f.tb ++ 2#4)
  | .ffnms f => some (13#6 ++ f.sc ++ f.d ++ f.a ++ f.b ++ fl f.ta ++ fl f.tb ++ 3#4)
  | .hfma2 f => some (13#6 ++ f.sc ++ f.d ++ f.a ++ f.b ++ fl f.ta ++ fl f.tb ++ 4#4)
  | .bfma2 f => some (13#6 ++ f.sc ++ f.d ++ f.a ++ f.b ++ fl f.ta ++ fl f.tb ++ 5#4)
  | .hdot2 f => some (13#6 ++ f.sc ++ f.d ++ f.a ++ f.b ++ fl f.ta ++ fl f.tb ++ 6#4)
  | .bdot2 f => some (13#6 ++ f.sc ++ f.d ++ f.a ++ f.b ++ fl f.ta ++ fl f.tb ++ 7#4)
  | .hadd2 f => some (14#6 ++ f.sc ++ f.d ++ f.a ++ f.b ++ fl f.ta ++ fl f.tb ++ 0#4)
  | .hmul2 f => some (14#6 ++ f.sc ++ f.d ++ f.a ++ f.b ++ fl f.ta ++ fl f.tb ++ 1#4)
  | .hmin2 f => some (14#6 ++ f.sc ++ f.d ++ f.a ++ f.b ++ fl f.ta ++ fl f.tb ++ 2#4)
  | .hmax2 f => some (14#6 ++ f.sc ++ f.d ++ f.a ++ f.b ++ fl f.ta ++ fl f.tb ++ 3#4)
  | .badd2 f => some (14#6 ++ f.sc ++ f.d ++ f.a ++ f.b ++ fl f.ta ++ fl f.tb ++ 4#4)
  | .bmul2 f => some (14#6 ++ f.sc ++ f.d ++ f.a ++ f.b ++ fl f.ta ++ fl f.tb ++ 5#4)
  | .bmin2 f => some (14#6 ++ f.sc ++ f.d ++ f.a ++ f.b ++ fl f.ta ++ fl f.tb ++ 6#4)
  | .bmax2 f => some (14#6 ++ f.sc ++ f.d ++ f.a ++ f.b ++ fl f.ta ++ fl f.tb ++ 7#4)
  | .fcmpEq f => some (15#6 ++ f.sc ++ f.pd ++ f.cb ++ f.a ++ f.b ++ fl f.ta ++ fl f.tb ++ 0#5)
  | .fcmpNe f => some (15#6 ++ f.sc ++ f.pd ++ f.cb ++ f.a ++ f.b ++ fl f.ta ++ fl f.tb ++ 1#5)
  | .fcmpLt f => some (15#6 ++ f.sc ++ f.pd ++ f.cb ++ f.a ++ f.b ++ fl f.ta ++ fl f.tb ++ 2#5)
  | .fcmpLe f => some (15#6 ++ f.sc ++ f.pd ++ f.cb ++ f.a ++ f.b ++ fl f.ta ++ fl f.tb ++ 3#5)
  | .fcmpGt f => some (15#6 ++ f.sc ++ f.pd ++ f.cb ++ f.a ++ f.b ++ fl f.ta ++ fl f.tb ++ 4#5)
  | .fcmpGe f => some (15#6 ++ f.sc ++ f.pd ++ f.cb ++ f.a ++ f.b ++ fl f.ta ++ fl f.tb ++ 5#5)
  | .fcmpUn f => some (15#6 ++ f.sc ++ f.pd ++ f.cb ++ f.a ++ f.b ++ fl f.ta ++ fl f.tb ++ 6#5)
  | .fcmpNum f => some (15#6 ++ f.sc ++ f.pd ++ f.cb ++ f.a ++ f.b ++ fl f.ta ++ fl f.tb ++ 7#5)
  | .rcp f => some (16#6 ++ f.sc ++ f.d ++ f.a ++ 0#6 ++ fl f.ta ++ 0#5)
  | .rsq f => some (16#6 ++ f.sc ++ f.d ++ f.a ++ 0#6 ++ fl f.ta ++ 1#5)
  | .sqrt f => some (16#6 ++ f.sc ++ f.d ++ f.a ++ 0#6 ++ fl f.ta ++ 2#5)
  | .exp2 f => some (16#6 ++ f.sc ++ f.d ++ f.a ++ 0#6 ++ fl f.ta ++ 3#5)
  | .log2 f => some (16#6 ++ f.sc ++ f.d ++ f.a ++ 0#6 ++ fl f.ta ++ 4#5)
  | .sinp f => some (16#6 ++ f.sc ++ f.d ++ f.a ++ 0#6 ++ fl f.ta ++ 5#5)
  | .cosp f => some (16#6 ++ f.sc ++ f.d ++ f.a ++ 0#6 ++ fl f.ta ++ 6#5)
  | .tanh f => some (16#6 ++ f.sc ++ f.d ++ f.a ++ 0#6 ++ fl f.ta ++ 7#5)
  | .sigm f => some (16#6 ++ f.sc ++ f.d ++ f.a ++ 0#6 ++ fl f.ta ++ 8#5)
  | .rndh f => some (16#6 ++ f.sc ++ f.d ++ f.a ++ f.b ++ fl f.ta ++ fl f.tb ++ 9#4)
  | .smxm f => some (17#6 ++ f.sc ++ f.d ++ f.a ++ f.b ++ fl f.ta ++ fl f.tb ++ 0#4)
  | .smxs f => some (17#6 ++ f.sc ++ f.d ++ f.a ++ 0#6 ++ fl f.ta ++ 1#5)
  | .smxf f => some (17#6 ++ f.sc ++ f.d ++ f.a ++ f.b ++ fl f.ta ++ fl f.tb ++ 2#4)
  | .smxc f => some (17#6 ++ f.sc ++ f.d ++ f.a ++ 0#6 ++ fl f.ta ++ 3#5)
  | .perm f => some (73#8 ++ f.d ++ f.a ++ f.b ++ f.k ++ 0#2)
  | .permx f => some (73#8 ++ f.d ++ f.a ++ f.b ++ f.k ++ 1#2)
  | .permu f => some (73#8 ++ f.d ++ f.a ++ f.b ++ f.k ++ 2#2)
  | .permd f => some (73#8 ++ f.d ++ f.a ++ f.b ++ f.k ++ 3#2)
  | .ballot f => some (77#8 ++ f.d ++ 0#3 ++ f.p ++ 0#6 ++ f.k ++ 0#2)
  | .vall f => some (77#8 ++ f.d ++ 0#3 ++ f.p ++ 0#6 ++ f.k ++ 1#2)
  | .vany f => some (77#8 ++ f.d ++ 0#3 ++ f.p ++ 0#6 ++ f.k ++ 2#2)
  | .matchB f => some (77#8 ++ f.d ++ f.a ++ 0#6 ++ f.k ++ 3#2)
  | .redadd f => some (81#8 ++ f.d ++ f.a ++ 0#6 ++ f.k ++ 0#2)
  | .redmin f => some (81#8 ++ f.d ++ f.a ++ 0#6 ++ f.k ++ 1#2)
  | .redmax f => some (81#8 ++ f.d ++ f.a ++ 0#6 ++ f.k ++ 2#2)
  | .scanadd f => some (81#8 ++ f.d ++ f.a ++ 0#6 ++ f.k ++ 3#2)
  | .movv f => some (21#6 ++ f.sc ++ f.d ++ f.a ++ 0#6 ++ fl f.ta ++ 0#5)
  | .bcastw f => some (21#6 ++ fl f.set ++ 0#1 ++ f.d ++ f.a ++ 1#12)
  | .readl f => some (85#8 ++ f.d ++ f.a ++ f.b ++ fl f.ta ++ 2#5)
  | .gslr f => some (84#8 ++ f.d ++ f.a ++ f.b ++ fl f.ta ++ 3#5)
  | .gslw f => some (84#8 ++ f.d ++ f.a ++ f.b ++ fl f.ta ++ 4#5)
  | .ktow f => some (85#8 ++ f.d ++ f.a ++ 5#12)
  | .wtok f => some (85#8 ++ f.d ++ f.a ++ 6#12)
  | .movs f => some (21#6 ++ f.sc ++ f.d ++ 0#1 ++ f.n ++ 7#12)
  | .ptov f => some (21#6 ++ fl f.set ++ 0#1 ++ f.d ++ 0#3 ++ f.p ++ 8#12)
  | .vtop f => some (21#6 ++ fl f.set ++ 0#4 ++ f.pd ++ f.a ++ 0#6 ++ fl f.ta ++ 9#5)
  | .lea0 f => some (22#6 ++ f.sc ++ f.d ++ f.a ++ f.b ++ fl f.ta ++ fl f.tb ++ 0#4)
  | .lea1 f => some (22#6 ++ f.sc ++ f.d ++ f.a ++ f.b ++ fl f.ta ++ fl f.tb ++ 1#4)
  | .lea2 f => some (22#6 ++ f.sc ++ f.d ++ f.a ++ f.b ++ fl f.ta ++ fl f.tb ++ 2#4)
  | .lea3 f => some (22#6 ++ f.sc ++ f.d ++ f.a ++ f.b ++ fl f.ta ++ fl f.tb ++ 3#4)
  | .lea4 f => some (22#6 ++ f.sc ++ f.d ++ f.a ++ f.b ++ fl f.ta ++ fl f.tb ++ 4#4)
  | .add64 f => some (22#6 ++ f.sc ++ f.d ++ f.a ++ f.b ++ fl f.ta ++ fl f.tb ++ 5#4)
  | .sub64 f => some (22#6 ++ f.sc ++ f.d ++ f.a ++ f.b ++ fl f.ta ++ fl f.tb ++ 6#4)
  | .bra f => some (46#7 ++ fl f.warp ++ fl f.gn ++ f.gp ++ f.k ++ f.off)
  | .call f => some (96#8 ++ fl f.gn ++ f.gp ++ 15#4 ++ f.off)
  | .jmp f => some (100#8 ++ fl f.gn ++ f.gp ++ f.a ++ 0#14)
  | .ret f => some (100#8 ++ fl f.gn ++ f.gp ++ f.a ++ 4096#14)
  | .callx f => some (100#8 ++ fl f.gn ++ f.gp ++ f.a ++ 8192#14)
  | .join f => some (52#7 ++ fl f.warp ++ 0#4 ++ f.kd ++ 0#16)
  | .leave f => some (52#7 ++ fl f.warp ++ 1#4 ++ f.kd ++ 0#16)
  | .wait f => some (1666#12 ++ f.kd ++ 0#16)
  | .kand f => some (52#7 ++ fl f.warp ++ 3#4 ++ f.kd ++ f.ka ++ f.kb ++ 0#8)
  | .kor f => some (52#7 ++ fl f.warp ++ 4#4 ++ f.kd ++ f.ka ++ f.kb ++ 0#8)
  | .kandn f => some (52#7 ++ fl f.warp ++ 5#4 ++ f.kd ++ f.ka ++ f.kb ++ 0#8)
  | .kxor f => some (52#7 ++ fl f.warp ++ 6#4 ++ f.kd ++ f.ka ++ f.kb ++ 0#8)
  | .ksetl f => some (52#7 ++ fl f.warp ++ 7#4 ++ f.kd ++ 0#8 ++ f.lane ++ 0#3)
  | .kclr f => some (52#7 ++ fl f.warp ++ 8#4 ++ f.kd ++ 0#16)
  | .kpopc f => some (52#7 ++ fl f.warp ++ 144#8 ++ f.ka ++ 0#4 ++ f.wf ++ 0#3)
  | .kfromw f => some (52#7 ++ fl f.warp ++ 10#4 ++ f.kd ++ 0#8 ++ f.wf ++ 0#3)
  | .bar f => some (27#6 ++ f.sc ++ 0#24)
  | .bara f => some (109#8 ++ f.d ++ f.a ++ f.b ++ 1#6)
  | .barw f => some (6976#14 ++ f.a ++ f.b ++ 2#6)
  | .barc f => some (109#8 ++ f.d ++ 0#6 ++ f.b ++ 3#6)
  | .carve f => some (111#8 ++ f.d ++ f.a ++ 4#12)
  | .exitB => some (1879048192#32)
  | .yield => some (1879048193#32)
  | .nop f => some (28#6 ++ f.sc ++ 2#24)
  | .sleep f => some (7168#14 ++ f.a ++ 3#12)
  | .spawn f => some (115#8 ++ f.d ++ f.a ++ 4#12)
  | .groupq f => some (113#8 ++ f.d ++ 0#6 ++ f.b ++ 5#6)
  | .trap f => some (7424#14 ++ f.a ++ 0#12)
  | .rte f => some (15335424#25 ++ fl f.skip ++ 1#6)
  | .sysc f => some (117#8 ++ f.d ++ f.a ++ f.b ++ 2#6)
  | .fpxr f => some (117#8 ++ f.d ++ f.a ++ 3#12)
  | .fpxc f => some (117#8 ++ f.d ++ f.a ++ 4#12)
  | .bkpt => some (1946157061#32)
  | .ld f => some (30#6 ++ f.sc ++ f.d ++ f.a ++ fl f.ta ++ f.sz ++ f.h ++ f.off)
  | .lds f => some (31#6 ++ f.sc ++ f.d ++ f.a ++ fl f.ta ++ f.sz ++ 0#2 ++ f.off)
  | .ldp f => some (32#6 ++ f.sc ++ f.d ++ f.a ++ fl f.ta ++ f.sz ++ f.win ++ f.off)
  | .st f => some (33#6 ++ f.sc ++ fl f.gn ++ f.gp ++ f.a ++ f.b ++ f.sz ++ f.off)
  | .sts f => some (34#6 ++ f.sc ++ fl f.gn ++ f.gp ++ f.a ++ f.b ++ f.sz ++ f.off)
  | .atomAdd f => some (70#7 ++ fl f.warp ++ fl f.gn ++ f.gp ++ f.d ++ f.a ++ f.b ++ 0#2)
  | .atomExch f => some (70#7 ++ fl f.warp ++ fl f.gn ++ f.gp ++ f.d ++ f.a ++ f.b ++ 1#2)
  | .atomMins f => some (70#7 ++ fl f.warp ++ fl f.gn ++ f.gp ++ f.d ++ f.a ++ f.b ++ 2#2)
  | .atomMaxs f => some (70#7 ++ fl f.warp ++ fl f.gn ++ f.gp ++ f.d ++ f.a ++ f.b ++ 3#2)
  | .atombAnd f => some (72#7 ++ fl f.warp ++ fl f.gn ++ f.gp ++ f.d ++ f.a ++ f.b ++ 0#2)
  | .atombOr f => some (72#7 ++ fl f.warp ++ fl f.gn ++ f.gp ++ f.d ++ f.a ++ f.b ++ 1#2)
  | .atombXor f => some (72#7 ++ fl f.warp ++ fl f.gn ++ f.gp ++ f.d ++ f.a ++ f.b ++ 2#2)
  | .atombCas f => some (72#7 ++ fl f.warp ++ fl f.gn ++ f.gp ++ f.d ++ f.a ++ f.b ++ 3#2)
  | .atomfFadd f => some (74#7 ++ fl f.warp ++ fl f.gn ++ f.gp ++ f.d ++ f.a ++ f.b ++ 0#2)
  | .atomfFmin f => some (74#7 ++ fl f.warp ++ fl f.gn ++ f.gp ++ f.d ++ f.a ++ f.b ++ 1#2)
  | .atomfFmax f => some (74#7 ++ fl f.warp ++ fl f.gn ++ f.gp ++ f.d ++ f.a ++ f.b ++ 2#2)
  | .atomfIncw f => some (74#7 ++ fl f.warp ++ fl f.gn ++ f.gp ++ f.d ++ f.a ++ f.b ++ 3#2)
  | .atomsAdd f => some (76#7 ++ fl f.warp ++ fl f.gn ++ f.gp ++ f.d ++ f.a ++ f.b ++ 0#2)
  | .atomsExch f => some (76#7 ++ fl f.warp ++ fl f.gn ++ f.gp ++ f.d ++ f.a ++ f.b ++ 1#2)
  | .atomsCas f => some (76#7 ++ fl f.warp ++ fl f.gn ++ f.gp ++ f.d ++ f.a ++ f.b ++ 2#2)
  | .atomsMaxn f => some (76#7 ++ fl f.warp ++ fl f.gn ++ f.gp ++ f.d ++ f.a ++ f.b ++ 3#2)
  | .redAdd f => some (78#7 ++ fl f.warp ++ fl f.gn ++ f.gp ++ 0#6 ++ f.a ++ f.b ++ 0#1 ++ fl f.sp)
  | .redMins f => some (78#7 ++ fl f.warp ++ fl f.gn ++ f.gp ++ 1#6 ++ f.a ++ f.b ++ 0#1 ++ fl f.sp)
  | .redMaxs f => some (78#7 ++ fl f.warp ++ fl f.gn ++ f.gp ++ 2#6 ++ f.a ++ f.b ++ 0#1 ++ fl f.sp)
  | .redAnd f => some (78#7 ++ fl f.warp ++ fl f.gn ++ f.gp ++ 3#6 ++ f.a ++ f.b ++ 0#1 ++ fl f.sp)
  | .redOr f => some (78#7 ++ fl f.warp ++ fl f.gn ++ f.gp ++ 4#6 ++ f.a ++ f.b ++ 0#1 ++ fl f.sp)
  | .redXor f => some (78#7 ++ fl f.warp ++ fl f.gn ++ f.gp ++ 5#6 ++ f.a ++ f.b ++ 0#1 ++ fl f.sp)
  | .redFadd f => some (78#7 ++ fl f.warp ++ fl f.gn ++ f.gp ++ 6#6 ++ f.a ++ f.b ++ 0#1 ++ fl f.sp)
  | .redHadd2 f => some (78#7 ++ fl f.warp ++ fl f.gn ++ f.gp ++ 7#6 ++ f.a ++ f.b ++ 0#1 ++ fl f.sp)
  | .redBadd2 f => some (78#7 ++ fl f.warp ++ fl f.gn ++ f.gp ++ 8#6 ++ f.a ++ f.b ++ 0#1 ++ fl f.sp)
  | .fence f => some (80#7 ++ fl f.warp ++ 0#24)
  | .pin f => some (80#7 ++ fl f.warp ++ f.d ++ f.a ++ 0#5 ++ fl f.lvl ++ 1#6)
  | .unpin f => some (80#7 ++ fl f.warp ++ 0#6 ++ f.a ++ 0#5 ++ fl f.lvl ++ 2#6)
  | .invl1 f => some (80#7 ++ fl f.warp ++ 0#6 ++ f.a ++ 0#5 ++ fl f.lvl ++ 3#6)
  | .wbl2 f => some (80#7 ++ fl f.warp ++ 0#6 ++ f.a ++ 0#5 ++ fl f.lvl ++ 4#6)
  | .pref f => some (80#7 ++ fl f.warp ++ 0#6 ++ f.a ++ 0#5 ++ fl f.lvl ++ 5#6)
  | .sigq f => some (161#8 ++ f.d ++ 6#18)
  | .cplin f => some (165#8 ++ f.d ++ f.a ++ 0#12)
  | .cpidx f => some (165#8 ++ f.d ++ f.a ++ f.b ++ 1#6)
  | .cpqf f => some (10560#14 ++ f.a ++ 2#12)
  | .cpstat f => some (165#8 ++ f.d ++ f.a ++ 3#12)
  | .cpmc f => some (165#8 ++ f.d ++ f.a ++ 4#12)
  | .swarm f => some (10816#14 ++ f.a ++ f.b ++ 0#6)
  | .swwait f => some (169#8 ++ f.d ++ f.a ++ f.b ++ 1#6)
  | .swadd f => some (10816#14 ++ f.a ++ f.b ++ 2#6)
  | .swrd f => some (169#8 ++ f.d ++ f.a ++ 3#12)
  | .push f => some (11072#14 ++ f.a ++ f.b ++ 0#6)
  | .pusht f => some (173#8 ++ f.d ++ f.a ++ f.b ++ 1#6)
  | .pop f => some (173#8 ++ f.d ++ 0#6 ++ f.b ++ 2#6)
  | .popt f => some (173#8 ++ f.d ++ 0#6 ++ f.b ++ 3#6)
  | .pipeq f => some (173#8 ++ f.d ++ 0#6 ++ f.b ++ 4#6)
  | .deq f => some (176#8 ++ f.d ++ 0#6 ++ f.b ++ 0#6)
  | .done f => some (88#7 ++ fl f.warp ++ 0#6 ++ f.a ++ f.b ++ 1#6)
  | .depadd f => some (88#7 ++ fl f.warp ++ 0#6 ++ f.a ++ f.b ++ 2#6)
  | .cancel f => some (88#7 ++ fl f.warp ++ 0#6 ++ f.a ++ 3#12)
  | .tqstat f => some (177#8 ++ f.d ++ 0#6 ++ f.b ++ 4#6)
  | .enq f => some (90#7 ++ fl f.warp ++ fl f.gn ++ f.gp ++ f.q ++ f.b ++ 0#8)
  | .enqCmp f => some (181#8 ++ fl f.gn ++ f.gp ++ f.q ++ f.b ++ 1#8)
  | .put f => some (185#8 ++ f.d ++ f.a ++ 0#12)
  | .putsig f => some (185#8 ++ f.d ++ f.a ++ 1#12)
  | .winrd f => some (185#8 ++ f.d ++ f.a ++ 2#12)
  | .winwait f => some (185#8 ++ f.d ++ f.a ++ f.b ++ 3#6)
  | .mxres f => some (191#8 ++ f.d ++ f.a ++ 0#12)
  | .mxrel => some (3204448257#32)
  | .mxzero f => some (12096#14 ++ f.a ++ f.b ++ 2#6)
  | .mxstat f => some (47#6 ++ fl f.blk ++ 1#1 ++ f.d ++ f.a ++ f.b ++ 3#6)
  | .mxtest f => some (189#8 ++ f.d ++ 4#18)
  | .mxpri f => some (12096#14 ++ f.a ++ 5#12)
  | .mma f => some (48#6 ++ f.sc ++ f.acc ++ f.ix ++ f.bd ++ f.sb ++ f.fmt)
  | .mxds f => some (12608#14 ++ f.a ++ f.b ++ 0#6)
  | .mxdv f => some (197#8 ++ f.d ++ f.a ++ f.b ++ 1#6)
  | .req f => some (12608#14 ++ f.a ++ 2#12)
  | .mxld f => some (12608#14 ++ f.a ++ f.b ++ 3#6)
  | .wstart f => some (201#8 ++ f.d ++ f.a ++ 0#12)
  | .wjoin f => some (201#8 ++ f.d ++ f.a ++ f.b ++ 1#6)
  | .wleave f => some (201#8 ++ f.d ++ f.a ++ f.b ++ 2#6)
  | .wwait f => some (201#8 ++ f.d ++ f.a ++ 3#12)
  | .wstat f => some (201#8 ++ f.d ++ f.a ++ f.b ++ 4#6)
  | .kvapp f => some (201#8 ++ f.d ++ f.a ++ 5#12)
  | .wretire f => some (201#8 ++ f.d ++ f.a ++ f.b ++ 6#6)
  | .sopen f => some (205#8 ++ f.d ++ f.a ++ 0#12)
  | .ssig f => some (205#8 ++ f.d ++ f.a ++ f.b ++ 1#6)
  | .scommit f => some (205#8 ++ f.d ++ f.a ++ f.b ++ 2#6)
  | .smap f => some (205#8 ++ f.d ++ f.a ++ f.b ++ 3#6)
  | .sclose f => some (205#8 ++ f.d ++ f.a ++ 4#12)
  | .mapbind f => some (209#8 ++ f.d ++ f.a ++ 0#12)
  | .mapcomp f => some (209#8 ++ f.d ++ f.a ++ f.b ++ 1#6)
  | .mapapply f => some (209#8 ++ f.d ++ f.a ++ f.b ++ 2#6)
  | .mapmask f => some (209#8 ++ f.d ++ f.a ++ f.b ++ 3#6)
  | .mapstat f => some (209#8 ++ f.d ++ f.a ++ 4#12)
  | .dsub f => some (213#8 ++ f.d ++ f.a ++ 0#12)
  | .dstat f => some (213#8 ++ f.d ++ f.a ++ 1#12)
  | .dwait f => some (213#8 ++ f.d ++ f.a ++ 2#12)
  | .tksel f => some (217#8 ++ f.d ++ f.a ++ 0#12)
  | .tkmrg f => some (217#8 ++ f.d ++ f.a ++ 1#12)
  | .tkwait f => some (217#8 ++ f.d ++ f.a ++ 2#12)
  | .xwImm f => some (1008#10 ++ f.pay)
  | .xwMod f => some (1009#10 ++ f.k ++ f.rm ++ fl f.mz ++ f.c ++ fl f.tc ++ fl f.ub ++ f.ss ++ fl f.hi ++ fl f.sx ++ fl f.wq ++ 0#1)
  | .xwOrd f => some (1010#10 ++ f.sem ++ f.ms ++ 0#17)
  | .xwFmt f => some (1011#10 ++ f.bf ++ f.sra ++ f.srb ++ f.sf ++ f.gs)
  | .xwSched f => some (1012#10 ++ fl f.yld ++ f.pri ++ f.stl ++ 0#14)
  | .qprodWrite _ _ _ => none
  | .qflagsWrite _ _ _ => none
  | .launch _ _ => none
  | .signal _ _ => none
  | .waitCommand _ _ => none
  | .waitConditionHolds _ _ => none
  | .copy _ _ => none
  | .commandCopyComplete _ => none
  | .preempt _ _ => none
  | .invalidationGo _ => none
  | .invalidationComplete _ => none
  | .counterArm _ _ _ _ => none
  | .svcreplyWrite _ _ => none
  | .resume _ => none
  | .create _ => none
  | .destroy _ => none
  | .fenceCommand _ => none
  | .link _ => none
  | .power _ => none
  | .enterService _ => none
  | .managementWrite _ _ _ _ => none
  | .hostCxlMemWrite _ _ => none
  | .hostSnoop _ _ _ => none
  | .linkRetry _ => none
  | .moduleDown _ => none
  | .powerOn => none
  | .trainingComplete _ _ => none
  | .powerRemoval => none
  | .idleEntry _ => none
  | .idleExit _ => none
  | .eccCorrected _ _ => none
  | .uncorrectableError _ _ => none
  | .blockPlace _ _ => none
  | .dispatchWaitExpiry _ => none
  | .transformBinding _ => none
  | .blockStart _ => none
  | .blockExit _ => none
  | .launchComplete _ => none
  | .parentResume _ _ => none
  | .counterOperation _ => none
  | .templateEnqueue _ => none
  | .deqFill _ => none
  | .rendezvousComplete _ _ => none
  | .loadFill _ => none
  | .aswRequest _ => none
  | .atomicReply _ => none
  | .sleepEnd _ _ _ => none
  | .stlEnd _ _ _ => none
  | .siblingStop _ _ => none
  | .handlerEntry _ => none
  | .saving _ => none
  | .forcedReset _ => none
  | .queueStall _ => none
  | .copyArrival _ => none
  | .copyComplete _ => none
  | .swwaitRelease _ _ => none
  | .barwRelease _ _ => none
  | .popRelease _ _ => none
  | .pass _ => none
  | .mxzeroServe _ => none
  | .mxdsServe _ => none
  | .mxdvServe _ => none
  | .mxldServe _ => none
  | .reqServe _ => none
  | .mxstatReturn _ _ => none
  | .selfTest _ _ _ => none
  | .walkValidate _ => none
  | .nodeVisit _ => none
  | .revisit _ => none
  | .catchup _ => none
  | .walkComplete _ => none
  | .wjoinPerformed _ => none
  | .wleavePerformed _ => none
  | .wretirePerformed _ => none
  | .kvappComplete _ => none
  | .wwaitRelease _ _ => none
  | .mapmaskComplete _ => none
  | .topkComplete _ => none
  | .tkwaitRelease _ _ => none
  | .chunkCommit _ => none
  | .jobComplete _ => none
  | .dwaitRelease _ _ => none
  | .data _ => none
  | .dataSignal _ => none
  | .ack _ => none
  | .nack _ => none
  | .retryTimeout _ => none
  | .winwaitRelease _ _ => none
  | .storePerformed _ => none
  | .translationWalkComplete _ => none
  | .sequencerOperation _ => none
  | .mapcompComplete _ => none
  | .mapapplyFill _ => none
  | .ringSlotFree _ => none

end Sys2Proof
end

