-- ==== Sys2Proof/Machine/Prefixes.lean ====
section
/-! DEFINITION. The prefix words (R101, R102, R108): each is kept by its lanes until the word that it precedes
executes. -/

namespace Sys2Proof.Machine

/-- A lane executes a prefix word: it joins the lane's run, whose first word's address is kept (R102, R108). -/
def Lane.prefixed (l : Lane) (p : Prefix) : Lane :=
  { l with pc := l.pc + 4, run := l.run ++ [p], runStart := if l.run.isEmpty then l.pc else l.runStart }

/-- The lanes of the group execute a prefix word. -/
def Ex.prefixWord (x : Ex) (p : Prefix) : State :=
  x.s.updWarp x.is.blk x.is.warp fun W => W.mapLanes x.is.lanes fun _ l => l.prefixed p

/-- XW.IMM (R101, R103). -/
def execXwImm (f : PrImm) (s : State) : Host.Outcome State Fault Refusal := issuing s fun x => x.prefixWord (.imm f)

/-- XW.MOD (R101, R104). -/
def execXwMod (f : PrMod) (s : State) : Host.Outcome State Fault Refusal := issuing s fun x => x.prefixWord (.mod f)

/-- XW.ORD (R101, R105). -/
def execXwOrd (f : PrOrd) (s : State) : Host.Outcome State Fault Refusal := issuing s fun x => x.prefixWord (.ord f)

/-- XW.FMT (R101, R106). -/
def execXwFmt (f : PrFmt) (s : State) : Host.Outcome State Fault Refusal := issuing s fun x => x.prefixWord (.fmt f)

/-- XW.SCHED (R101, R107). -/
def execXwSched (f : PrSched) (s : State) : Host.Outcome State Fault Refusal :=
  issuing s fun x => x.prefixWord (.sched f)

/-- A word of major 0x3F that R101 gives no meaning is kept as well; the run raises ILLEGAL_OP at its instruction
(R102). -/
def execXwBad (s : State) : Host.Outcome State Fault Refusal := issuing s fun x => x.prefixWord .bad

/-- Any other word without a meaning raises ILLEGAL_OP at the scope that it names, with the mask that MOD names or that a
word of form L names itself (R96, R113, R124). -/
def execIllegal (sc : Nat) (s : State) (k : Option Nat := none) : Host.Outcome State Fault Refusal :=
  issuing s fun x => x.illegal sc (k.getD x.pf.modOf.k.toNat)

end Sys2Proof.Machine
end

