-- ==== Sys2Proof/Machine/Dispatch.lean ====
section
/-! DEFINITION. One arm for each constructor of `Instr`, each a direct call of its meaning. -/

namespace Sys2Proof.Machine

def exec (i : Instr) (s : State) : Host.Outcome State Fault Refusal :=
  match i with
  | .iadd f => Sys2Proof.Machine.execIadd f s
  | .isub f => Sys2Proof.Machine.execIsub f s
  | .imul f => Sys2Proof.Machine.execImul f s
  | .imulhS f => Sys2Proof.Machine.execImulhS f s
  | .imulhN f => Sys2Proof.Machine.execImulhN f s
  | .iminS f => Sys2Proof.Machine.execIminS f s
  | .iminN f => Sys2Proof.Machine.execIminN f s
  | .imaxS f => Sys2Proof.Machine.execImaxS f s
  | .imaxN f => Sys2Proof.Machine.execImaxN f s
  | .iabsd f => Sys2Proof.Machine.execIabsd f s
  | .iaddsS f => Sys2Proof.Machine.execIaddsS f s
  | .isubsS f => Sys2Proof.Machine.execIsubsS f s
  | .andB f => Sys2Proof.Machine.execAndB f s
  | .orB f => Sys2Proof.Machine.execOrB f s
  | .xorB f => Sys2Proof.Machine.execXorB f s
  | .andn f => Sys2Proof.Machine.execAndn f s
  | .orn f => Sys2Proof.Machine.execOrn f s
  | .shl f => Sys2Proof.Machine.execShl f s
  | .shr f => Sys2Proof.Machine.execShr f s
  | .sar f => Sys2Proof.Machine.execSar f s
  | .rotl f => Sys2Proof.Machine.execRotl f s
  | .rotr f => Sys2Proof.Machine.execRotr f s
  | .popc f => Sys2Proof.Machine.execPopc f s
  | .clz f => Sys2Proof.Machine.execClz f s
  | .brev f => Sys2Proof.Machine.execBrev f s
  | .bfxN f => Sys2Proof.Machine.execBfxN f s
  | .bfxS f => Sys2Proof.Machine.execBfxS f s
  | .bfi f => Sys2Proof.Machine.execBfi f s
  | .imad f => Sys2Proof.Machine.execImad f s
  | .imadhS f => Sys2Proof.Machine.execImadhS f s
  | .imadhN f => Sys2Proof.Machine.execImadhN f s
  | .imadwS f => Sys2Proof.Machine.execImadwS f s
  | .imadwN f => Sys2Proof.Machine.execImadwN f s
  | .idot4S8 f => Sys2Proof.Machine.execIdot4S8 f s
  | .idot4N8 f => Sys2Proof.Machine.execIdot4N8 f s
  | .idot8S4 f => Sys2Proof.Machine.execIdot8S4 f s
  | .idot8N4 f => Sys2Proof.Machine.execIdot8N4 f s
  | .iaddi f => Sys2Proof.Machine.execIaddi f s
  | .shli f => Sys2Proof.Machine.execShli f s
  | .shri f => Sys2Proof.Machine.execShri f s
  | .sari f => Sys2Proof.Machine.execSari f s
  | .rotli f => Sys2Proof.Machine.execRotli f s
  | .andi f => Sys2Proof.Machine.execAndi f s
  | .ori f => Sys2Proof.Machine.execOri f s
  | .xori f => Sys2Proof.Machine.execXori f s
  | .imuli f => Sys2Proof.Machine.execImuli f s
  | .movi f => Sys2Proof.Machine.execMovi f s
  | .icmpEq f => Sys2Proof.Machine.execIcmpEq f s
  | .icmpNe f => Sys2Proof.Machine.execIcmpNe f s
  | .icmpLtS f => Sys2Proof.Machine.execIcmpLtS f s
  | .icmpLeS f => Sys2Proof.Machine.execIcmpLeS f s
  | .icmpGtS f => Sys2Proof.Machine.execIcmpGtS f s
  | .icmpGeS f => Sys2Proof.Machine.execIcmpGeS f s
  | .icmpLtN f => Sys2Proof.Machine.execIcmpLtN f s
  | .icmpLeN f => Sys2Proof.Machine.execIcmpLeN f s
  | .icmpGtN f => Sys2Proof.Machine.execIcmpGtN f s
  | .icmpGeN f => Sys2Proof.Machine.execIcmpGeN f s
  | .icmpTstz f => Sys2Proof.Machine.execIcmpTstz f s
  | .icmpTstnz f => Sys2Proof.Machine.execIcmpTstnz f s
  | .icmpiEq f => Sys2Proof.Machine.execIcmpiEq f s
  | .icmpiNe f => Sys2Proof.Machine.execIcmpiNe f s
  | .icmpiLtS f => Sys2Proof.Machine.execIcmpiLtS f s
  | .icmpiLeS f => Sys2Proof.Machine.execIcmpiLeS f s
  | .icmpiGtS f => Sys2Proof.Machine.execIcmpiGtS f s
  | .icmpiGeS f => Sys2Proof.Machine.execIcmpiGeS f s
  | .icmpiLtN f => Sys2Proof.Machine.execIcmpiLtN f s
  | .icmpiLeN f => Sys2Proof.Machine.execIcmpiLeN f s
  | .icmpiGtN f => Sys2Proof.Machine.execIcmpiGtN f s
  | .icmpiGeN f => Sys2Proof.Machine.execIcmpiGeN f s
  | .icmpiTstz f => Sys2Proof.Machine.execIcmpiTstz f s
  | .icmpiTstnz f => Sys2Proof.Machine.execIcmpiTstnz f s
  | .sel f => Sys2Proof.Machine.execSel f s
  | .prmb f => Sys2Proof.Machine.execPrmb f s
  | .prmn f => Sys2Proof.Machine.execPrmn f s
  | .prmnSx f => Sys2Proof.Machine.execPrmnSx f s
  | .prmnZx f => Sys2Proof.Machine.execPrmnZx f s
  | .pack2 f => Sys2Proof.Machine.execPack2 f s
  | .conv f => Sys2Proof.Machine.execConv f s
  | .fadd f => Sys2Proof.Machine.execFadd f s
  | .fsub f => Sys2Proof.Machine.execFsub f s
  | .fmul f => Sys2Proof.Machine.execFmul f s
  | .fmin f => Sys2Proof.Machine.execFmin f s
  | .fmax f => Sys2Proof.Machine.execFmax f s
  | .fminnm f => Sys2Proof.Machine.execFminnm f s
  | .fmaxnm f => Sys2Proof.Machine.execFmaxnm f s
  | .fabs f => Sys2Proof.Machine.execFabs f s
  | .fneg f => Sys2Proof.Machine.execFneg f s
  | .fcpys f => Sys2Proof.Machine.execFcpys f s
  | .fscale f => Sys2Proof.Machine.execFscale f s
  | .frint f => Sys2Proof.Machine.execFrint f s
  | .fclass f => Sys2Proof.Machine.execFclass f s
  | .ffma f => Sys2Proof.Machine.execFfma f s
  | .ffms f => Sys2Proof.Machine.execFfms f s
  | .ffnma f => Sys2Proof.Machine.execFfnma f s
  | .ffnms f => Sys2Proof.Machine.execFfnms f s
  | .hfma2 f => Sys2Proof.Machine.execHfma2 f s
  | .bfma2 f => Sys2Proof.Machine.execBfma2 f s
  | .hdot2 f => Sys2Proof.Machine.execHdot2 f s
  | .bdot2 f => Sys2Proof.Machine.execBdot2 f s
  | .hadd2 f => Sys2Proof.Machine.execHadd2 f s
  | .hmul2 f => Sys2Proof.Machine.execHmul2 f s
  | .hmin2 f => Sys2Proof.Machine.execHmin2 f s
  | .hmax2 f => Sys2Proof.Machine.execHmax2 f s
  | .badd2 f => Sys2Proof.Machine.execBadd2 f s
  | .bmul2 f => Sys2Proof.Machine.execBmul2 f s
  | .bmin2 f => Sys2Proof.Machine.execBmin2 f s
  | .bmax2 f => Sys2Proof.Machine.execBmax2 f s
  | .fcmpEq f => Sys2Proof.Machine.execFcmpEq f s
  | .fcmpNe f => Sys2Proof.Machine.execFcmpNe f s
  | .fcmpLt f => Sys2Proof.Machine.execFcmpLt f s
  | .fcmpLe f => Sys2Proof.Machine.execFcmpLe f s
  | .fcmpGt f => Sys2Proof.Machine.execFcmpGt f s
  | .fcmpGe f => Sys2Proof.Machine.execFcmpGe f s
  | .fcmpUn f => Sys2Proof.Machine.execFcmpUn f s
  | .fcmpNum f => Sys2Proof.Machine.execFcmpNum f s
  | .rcp f => Sys2Proof.Machine.execRcp f s
  | .rsq f => Sys2Proof.Machine.execRsq f s
  | .sqrt f => Sys2Proof.Machine.execSqrt f s
  | .exp2 f => Sys2Proof.Machine.execExp2 f s
  | .log2 f => Sys2Proof.Machine.execLog2 f s
  | .sinp f => Sys2Proof.Machine.execSinp f s
  | .cosp f => Sys2Proof.Machine.execCosp f s
  | .tanh f => Sys2Proof.Machine.execTanh f s
  | .sigm f => Sys2Proof.Machine.execSigm f s
  | .rndh f => Sys2Proof.Machine.execRndh f s
  | .smxm f => Sys2Proof.Machine.execSmxm f s
  | .smxs f => Sys2Proof.Machine.execSmxs f s
  | .smxf f => Sys2Proof.Machine.execSmxf f s
  | .smxc f => Sys2Proof.Machine.execSmxc f s
  | .perm f => Sys2Proof.Machine.execPerm f s
  | .permx f => Sys2Proof.Machine.execPermx f s
  | .permu f => Sys2Proof.Machine.execPermu f s
  | .permd f => Sys2Proof.Machine.execPermd f s
  | .ballot f => Sys2Proof.Machine.execBallot f s
  | .vall f => Sys2Proof.Machine.execVall f s
  | .vany f => Sys2Proof.Machine.execVany f s
  | .matchB f => Sys2Proof.Machine.execMatchB f s
  | .redadd f => Sys2Proof.Machine.execRedadd f s
  | .redmin f => Sys2Proof.Machine.execRedmin f s
  | .redmax f => Sys2Proof.Machine.execRedmax f s
  | .scanadd f => Sys2Proof.Machine.execScanadd f s
  | .movv f => Sys2Proof.Machine.execMovv f s
  | .bcastw f => Sys2Proof.Machine.execBcastw f s
  | .readl f => Sys2Proof.Machine.execReadl f s
  | .gslr f => Sys2Proof.Machine.execGslr f s
  | .gslw f => Sys2Proof.Machine.execGslw f s
  | .ktow f => Sys2Proof.Machine.execKtow f s
  | .wtok f => Sys2Proof.Machine.execWtok f s
  | .movs f => Sys2Proof.Machine.execMovs f s
  | .ptov f => Sys2Proof.Machine.execPtov f s
  | .vtop f => Sys2Proof.Machine.execVtop f s
  | .lea0 f => Sys2Proof.Machine.execLea0 f s
  | .lea1 f => Sys2Proof.Machine.execLea1 f s
  | .lea2 f => Sys2Proof.Machine.execLea2 f s
  | .lea3 f => Sys2Proof.Machine.execLea3 f s
  | .lea4 f => Sys2Proof.Machine.execLea4 f s
  | .add64 f => Sys2Proof.Machine.execAdd64 f s
  | .sub64 f => Sys2Proof.Machine.execSub64 f s
  | .bra f => Sys2Proof.Machine.execBra f s
  | .call f => Sys2Proof.Machine.execCall f s
  | .jmp f => Sys2Proof.Machine.execJmp f s
  | .ret f => Sys2Proof.Machine.execRet f s
  | .callx f => Sys2Proof.Machine.execCallx f s
  | .join f => Sys2Proof.Machine.execJoin f s
  | .leave f => Sys2Proof.Machine.execLeave f s
  | .wait f => Sys2Proof.Machine.execWait f s
  | .kand f => Sys2Proof.Machine.execKand f s
  | .kor f => Sys2Proof.Machine.execKor f s
  | .kandn f => Sys2Proof.Machine.execKandn f s
  | .kxor f => Sys2Proof.Machine.execKxor f s
  | .ksetl f => Sys2Proof.Machine.execKsetl f s
  | .kclr f => Sys2Proof.Machine.execKclr f s
  | .kpopc f => Sys2Proof.Machine.execKpopc f s
  | .kfromw f => Sys2Proof.Machine.execKfromw f s
  | .bar f => Sys2Proof.Machine.execBar f s
  | .bara f => Sys2Proof.Machine.execBara f s
  | .barw f => Sys2Proof.Machine.execBarw f s
  | .barc f => Sys2Proof.Machine.execBarc f s
  | .carve f => Sys2Proof.Machine.execCarve f s
  | .exitB => Sys2Proof.Machine.execExitB s
  | .yield => Sys2Proof.Machine.execYield s
  | .nop f => Sys2Proof.Machine.execNop f s
  | .sleep f => Sys2Proof.Machine.execSleep f s
  | .spawn f => Sys2Proof.Machine.execSpawn f s
  | .groupq f => Sys2Proof.Machine.execGroupq f s
  | .trap f => Sys2Proof.Machine.execTrap f s
  | .rte f => Sys2Proof.Machine.execRte f s
  | .sysc f => Sys2Proof.Machine.execSysc f s
  | .fpxr f => Sys2Proof.Machine.execFpxr f s
  | .fpxc f => Sys2Proof.Machine.execFpxc f s
  | .bkpt => Sys2Proof.Machine.execBkpt s
  | .ld f => Sys2Proof.Machine.execLd f s
  | .lds f => Sys2Proof.Machine.execLds f s
  | .ldp f => Sys2Proof.Machine.execLdp f s
  | .st f => Sys2Proof.Machine.execSt f s
  | .sts f => Sys2Proof.Machine.execSts f s
  | .atomAdd f => Sys2Proof.Machine.execAtomAdd f s
  | .atomExch f => Sys2Proof.Machine.execAtomExch f s
  | .atomMins f => Sys2Proof.Machine.execAtomMins f s
  | .atomMaxs f => Sys2Proof.Machine.execAtomMaxs f s
  | .atombAnd f => Sys2Proof.Machine.execAtombAnd f s
  | .atombOr f => Sys2Proof.Machine.execAtombOr f s
  | .atombXor f => Sys2Proof.Machine.execAtombXor f s
  | .atombCas f => Sys2Proof.Machine.execAtombCas f s
  | .atomfFadd f => Sys2Proof.Machine.execAtomfFadd f s
  | .atomfFmin f => Sys2Proof.Machine.execAtomfFmin f s
  | .atomfFmax f => Sys2Proof.Machine.execAtomfFmax f s
  | .atomfIncw f => Sys2Proof.Machine.execAtomfIncw f s
  | .atomsAdd f => Sys2Proof.Machine.execAtomsAdd f s
  | .atomsExch f => Sys2Proof.Machine.execAtomsExch f s
  | .atomsCas f => Sys2Proof.Machine.execAtomsCas f s
  | .atomsMaxn f => Sys2Proof.Machine.execAtomsMaxn f s
  | .redAdd f => Sys2Proof.Machine.execRedAdd f s
  | .redMins f => Sys2Proof.Machine.execRedMins f s
  | .redMaxs f => Sys2Proof.Machine.execRedMaxs f s
  | .redAnd f => Sys2Proof.Machine.execRedAnd f s
  | .redOr f => Sys2Proof.Machine.execRedOr f s
  | .redXor f => Sys2Proof.Machine.execRedXor f s
  | .redFadd f => Sys2Proof.Machine.execRedFadd f s
  | .redHadd2 f => Sys2Proof.Machine.execRedHadd2 f s
  | .redBadd2 f => Sys2Proof.Machine.execRedBadd2 f s
  | .fence f => Sys2Proof.Machine.execFence f s
  | .pin f => Sys2Proof.Machine.execPin f s
  | .unpin f => Sys2Proof.Machine.execUnpin f s
  | .invl1 f => Sys2Proof.Machine.execInvl1 f s
  | .wbl2 f => Sys2Proof.Machine.execWbl2 f s
  | .pref f => Sys2Proof.Machine.execPref f s
  | .sigq f => Sys2Proof.Machine.execSigq f s
  | .cplin f => Sys2Proof.Machine.execCplin f s
  | .cpidx f => Sys2Proof.Machine.execCpidx f s
  | .cpqf f => Sys2Proof.Machine.execCpqf f s
  | .cpstat f => Sys2Proof.Machine.execCpstat f s
  | .cpmc f => Sys2Proof.Machine.execCpmc f s
  | .swarm f => Sys2Proof.Machine.execSwarm f s
  | .swwait f => Sys2Proof.Machine.execSwwait f s
  | .swadd f => Sys2Proof.Machine.execSwadd f s
  | .swrd f => Sys2Proof.Machine.execSwrd f s
  | .push f => Sys2Proof.Machine.execPush f s
  | .pusht f => Sys2Proof.Machine.execPusht f s
  | .pop f => Sys2Proof.Machine.execPop f s
  | .popt f => Sys2Proof.Machine.execPopt f s
  | .pipeq f => Sys2Proof.Machine.execPipeq f s
  | .deq f => Sys2Proof.Machine.execDeq f s
  | .done f => Sys2Proof.Machine.execDone f s
  | .depadd f => Sys2Proof.Machine.execDepadd f s
  | .cancel f => Sys2Proof.Machine.execCancel f s
  | .tqstat f => Sys2Proof.Machine.execTqstat f s
  | .enq f => Sys2Proof.Machine.execEnq f s
  | .enqCmp f => Sys2Proof.Machine.execEnqCmp f s
  | .put f => Sys2Proof.Machine.execPut f s
  | .putsig f => Sys2Proof.Machine.execPutsig f s
  | .winrd f => Sys2Proof.Machine.execWinrd f s
  | .winwait f => Sys2Proof.Machine.execWinwait f s
  | .mxres f => Sys2Proof.Machine.execMxres f s
  | .mxrel => Sys2Proof.Machine.execMxrel s
  | .mxzero f => Sys2Proof.Machine.execMxzero f s
  | .mxstat f => Sys2Proof.Machine.execMxstat f s
  | .mxtest f => Sys2Proof.Machine.execMxtest f s
  | .mxpri f => Sys2Proof.Machine.execMxpri f s
  | .mma f => Sys2Proof.Machine.execMma f s
  | .mxds f => Sys2Proof.Machine.execMxds f s
  | .mxdv f => Sys2Proof.Machine.execMxdv f s
  | .req f => Sys2Proof.Machine.execReq f s
  | .mxld f => Sys2Proof.Machine.execMxld f s
  | .wstart f => Sys2Proof.Machine.execWstart f s
  | .wjoin f => Sys2Proof.Machine.execWjoin f s
  | .wleave f => Sys2Proof.Machine.execWleave f s
  | .wwait f => Sys2Proof.Machine.execWwait f s
  | .wstat f => Sys2Proof.Machine.execWstat f s
  | .kvapp f => Sys2Proof.Machine.execKvapp f s
  | .wretire f => Sys2Proof.Machine.execWretire f s
  | .sopen f => Sys2Proof.Machine.execSopen f s
  | .ssig f => Sys2Proof.Machine.execSsig f s
  | .scommit f => Sys2Proof.Machine.execScommit f s
  | .smap f => Sys2Proof.Machine.execSmap f s
  | .sclose f => Sys2Proof.Machine.execSclose f s
  | .mapbind f => Sys2Proof.Machine.execMapbind f s
  | .mapcomp f => Sys2Proof.Machine.execMapcomp f s
  | .mapapply f => Sys2Proof.Machine.execMapapply f s
  | .mapmask f => Sys2Proof.Machine.execMapmask f s
  | .mapstat f => Sys2Proof.Machine.execMapstat f s
  | .dsub f => Sys2Proof.Machine.execDsub f s
  | .dstat f => Sys2Proof.Machine.execDstat f s
  | .dwait f => Sys2Proof.Machine.execDwait f s
  | .tksel f => Sys2Proof.Machine.execTksel f s
  | .tkmrg f => Sys2Proof.Machine.execTkmrg f s
  | .tkwait f => Sys2Proof.Machine.execTkwait f s
  | .xwImm f => Sys2Proof.Machine.execXwImm f s
  | .xwMod f => Sys2Proof.Machine.execXwMod f s
  | .xwOrd f => Sys2Proof.Machine.execXwOrd f s
  | .xwFmt f => Sys2Proof.Machine.execXwFmt f s
  | .xwSched f => Sys2Proof.Machine.execXwSched f s
  | .qprodWrite die q v => Sys2Proof.Machine.execQprodWrite die q v s
  | .qflagsWrite die q v => Sys2Proof.Machine.execQflagsWrite die q v s
  | .launch die q => Sys2Proof.Machine.execLaunch die q s
  | .signal die q => Sys2Proof.Machine.execSignal die q s
  | .waitCommand die q => Sys2Proof.Machine.execWaitCommand die q s
  | .waitConditionHolds die q => Sys2Proof.Machine.execWaitConditionHolds die q s
  | .copy die q => Sys2Proof.Machine.execCopy die q s
  | .commandCopyComplete k => Sys2Proof.Machine.execCommandCopyComplete k s
  | .preempt die q => Sys2Proof.Machine.execPreempt die q s
  | .invalidationGo die => Sys2Proof.Machine.execInvalidationGo die s
  | .invalidationComplete die => Sys2Proof.Machine.execInvalidationComplete die s
  | .counterArm die off size v => Sys2Proof.Machine.execCounterArm die off size v s
  | .svcreplyWrite ctx n => Sys2Proof.Machine.execSvcreplyWrite ctx n s
  | .resume ctx => Sys2Proof.Machine.execResume ctx s
  | .create die => Sys2Proof.Machine.execCreate die s
  | .destroy die => Sys2Proof.Machine.execDestroy die s
  | .fenceCommand die => Sys2Proof.Machine.execFenceCommand die s
  | .link die => Sys2Proof.Machine.execLink die s
  | .power die => Sys2Proof.Machine.execPower die s
  | .enterService die => Sys2Proof.Machine.execEnterService die s
  | .managementWrite die off size v => Sys2Proof.Machine.execManagementWrite die off size v s
  | .hostCxlMemWrite pa bytes => Sys2Proof.Machine.execHostCxlMemWrite pa bytes s
  | .hostSnoop pa bytes held => Sys2Proof.Machine.execHostSnoop pa bytes held s
  | .linkRetry die => Sys2Proof.Machine.execLinkRetry die s
  | .moduleDown die => Sys2Proof.Machine.execModuleDown die s
  | .powerOn => Sys2Proof.Machine.execPowerOn s
  | .trainingComplete die link => Sys2Proof.Machine.execTrainingComplete die link s
  | .powerRemoval => Sys2Proof.Machine.execPowerRemoval s
  | .idleEntry die => Sys2Proof.Machine.execIdleEntry die s
  | .idleExit die => Sys2Proof.Machine.execIdleExit die s
  | .eccCorrected die addr => Sys2Proof.Machine.execEccCorrected die addr s
  | .uncorrectableError die at_ => Sys2Proof.Machine.execUncorrectableError die at_ s
  | .blockPlace die l => Sys2Proof.Machine.execBlockPlace die l s
  | .dispatchWaitExpiry die => Sys2Proof.Machine.execDispatchWaitExpiry die s
  | .transformBinding blk => Sys2Proof.Machine.execTransformBinding blk s
  | .blockStart blk => Sys2Proof.Machine.execBlockStart blk s
  | .blockExit blk => Sys2Proof.Machine.execBlockExit blk s
  | .launchComplete l => Sys2Proof.Machine.execLaunchComplete l s
  | .parentResume blk die => Sys2Proof.Machine.execParentResume blk die s
  | .counterOperation k => Sys2Proof.Machine.execCounterOperation k s
  | .templateEnqueue die => Sys2Proof.Machine.execTemplateEnqueue die s
  | .deqFill k => Sys2Proof.Machine.execDeqFill k s
  | .rendezvousComplete blk k => Sys2Proof.Machine.execRendezvousComplete blk k s
  | .loadFill k => Sys2Proof.Machine.execLoadFill k s
  | .aswRequest k => Sys2Proof.Machine.execAswRequest k s
  | .atomicReply k => Sys2Proof.Machine.execAtomicReply k s
  | .sleepEnd blk warp lane => Sys2Proof.Machine.execSleepEnd blk warp lane s
  | .stlEnd blk warp lane => Sys2Proof.Machine.execStlEnd blk warp lane s
  | .siblingStop blk warp => Sys2Proof.Machine.execSiblingStop blk warp s
  | .handlerEntry blk => Sys2Proof.Machine.execHandlerEntry blk s
  | .saving ctx => Sys2Proof.Machine.execSaving ctx s
  | .forcedReset ctx => Sys2Proof.Machine.execForcedReset ctx s
  | .queueStall k => Sys2Proof.Machine.execQueueStall k s
  | .copyArrival k => Sys2Proof.Machine.execCopyArrival k s
  | .copyComplete k => Sys2Proof.Machine.execCopyComplete k s
  | .swwaitRelease blk warp => Sys2Proof.Machine.execSwwaitRelease blk warp s
  | .barwRelease blk warp => Sys2Proof.Machine.execBarwRelease blk warp s
  | .popRelease blk warp => Sys2Proof.Machine.execPopRelease blk warp s
  | .pass k => Sys2Proof.Machine.execPass k s
  | .mxzeroServe k => Sys2Proof.Machine.execMxzeroServe k s
  | .mxdsServe k => Sys2Proof.Machine.execMxdsServe k s
  | .mxdvServe k => Sys2Proof.Machine.execMxdvServe k s
  | .mxldServe k => Sys2Proof.Machine.execMxldServe k s
  | .reqServe k => Sys2Proof.Machine.execReqServe k s
  | .mxstatReturn blk warp => Sys2Proof.Machine.execMxstatReturn blk warp s
  | .selfTest cl sub good => Sys2Proof.Machine.execSelfTest cl sub good s
  | .walkValidate w => Sys2Proof.Machine.execWalkValidate w s
  | .nodeVisit w => Sys2Proof.Machine.execNodeVisit w s
  | .revisit w => Sys2Proof.Machine.execRevisit w s
  | .catchup w => Sys2Proof.Machine.execCatchup w s
  | .walkComplete w => Sys2Proof.Machine.execWalkComplete w s
  | .wjoinPerformed k => Sys2Proof.Machine.execWjoinPerformed k s
  | .wleavePerformed k => Sys2Proof.Machine.execWleavePerformed k s
  | .wretirePerformed k => Sys2Proof.Machine.execWretirePerformed k s
  | .kvappComplete k => Sys2Proof.Machine.execKvappComplete k s
  | .wwaitRelease blk warp => Sys2Proof.Machine.execWwaitRelease blk warp s
  | .mapmaskComplete k => Sys2Proof.Machine.execMapmaskComplete k s
  | .topkComplete k => Sys2Proof.Machine.execTopkComplete k s
  | .tkwaitRelease blk warp => Sys2Proof.Machine.execTkwaitRelease blk warp s
  | .chunkCommit j => Sys2Proof.Machine.execChunkCommit j s
  | .jobComplete j => Sys2Proof.Machine.execJobComplete j s
  | .dwaitRelease blk warp => Sys2Proof.Machine.execDwaitRelease blk warp s
  | .data k => Sys2Proof.Machine.execData k s
  | .dataSignal k => Sys2Proof.Machine.execDataSignal k s
  | .ack k => Sys2Proof.Machine.execAck k s
  | .nack k => Sys2Proof.Machine.execNack k s
  | .retryTimeout k => Sys2Proof.Machine.execRetryTimeout k s
  | .winwaitRelease blk warp => Sys2Proof.Machine.execWinwaitRelease blk warp s
  | .storePerformed k => Sys2Proof.Machine.execStorePerformed k s
  | .translationWalkComplete k => Sys2Proof.Machine.execTranslationWalkComplete k s
  | .sequencerOperation k => Sys2Proof.Machine.execSequencerOperation k s
  | .mapcompComplete k => Sys2Proof.Machine.execMapcompComplete k s
  | .mapapplyFill k => Sys2Proof.Machine.execMapapplyFill k s
  | .ringSlotFree ctx => Sys2Proof.Machine.execRingSlotFree ctx s

end Sys2Proof.Machine
end

