-- ==== Sys2Proof/Machine/Sched.lean ====
section
/-! DEFINITION. What may happen next: the issue groups that are ready (R116, R404), the events that the device may
perform, the outside event that comes next, and the evictions of lines, translations and code; and how a step performs
each. `noncomputable` as in the decoder. -/

namespace Sys2Proof.Machine

/-! ### Issue groups (R116) -/

/-- Whether a warp of a block may issue: any while the block runs; while it is halted the faulting warp in its handler,
and before that the siblings within their skid (R404, R405). -/
def Block.warpIssues (b : Block) (w : Nat) : Bool :=
  (match b.phase with | .running => true | .prologue _ => false | .saved => false | .gone => false)
    && match b.halt with
      | none => true
      | some h =>
        !h.lost && if h.handler then w == h.trap.warp else !h.stopped.getD w true && h.skids.getD w 8 < 8

/-- Whether a lane stalls. -/
def Lane.isStalled (l : Lane) : Bool :=
  match l.status with
  | .stall _ => true
  | _ => false

/-- Whether a lane may join an issue group: where a lane of its warp stalls, the warp's issue slot is held (R58, R252,
R357). -/
def State.laneIssues (s : State) (b : Nat) (W : Warp) (l : Lane) : Bool :=
  match l.status with
  | .ready => W.wait.isNone && !W.lanes.any Lane.isStalled
  | .stall on => W.wait.isNone && s.stallOver b on
  | _ => false

/-- What the lanes of one group have equal: the address, the run, whether they replay, and the completed instance that
they are of (R116, R123, R411, R413). -/
def Block.groupKey (b : Block) (w l : Nat) : DWord × List Prefix × Bool × BitVec 2 × Option Nat :=
  let x := (b.warp w).lane l
  (x.pc, x.run, x.replay, x.watchSkip, b.doneInst w l)

/-- The groups of a warp: its lanes that may issue, by their keys. -/
def State.warpGroups (s : State) (b w : Nat) : List Issue :=
  let W := s.warp b w
  let ls := (List.range 32).filter fun l => s.laneIssues b W (W.lane l)
  let key (l : Nat) := (s.blk b).groupKey w l
  let keys := (ls.map key).eraseDups
  keys.map fun k => ⟨b, w, maskOf fun l => ls.contains l && key l == k, k.1⟩

/-- The issue groups of the device; a warp whose operation would fire a counter into a full buffer issues nothing (R49).
-/
def State.issues (s : State) : List Issue :=
  (List.range s.blocks.length).flatMap fun b =>
    (List.range (s.blk b).warps.length).flatMap fun w =>
      if (s.blk b).warpIssues w && (s.warp b w).hold.isNone && !s.firedStall b w then s.warpGroups b w else []

/-- The state in which a selected group executes: its lanes ready, its issue selected. -/
def State.selected (s : State) (is : Issue) : State :=
  let s := s.updBlk is.blk fun B =>
    (B.countSkid is.warp).updWarp is.warp fun W => W.mapLanes is.lanes fun _ l => { l with status := .ready }
  { s with cur := some is }

/-- Executes a word: its meaning; a prefix word without one joins the run; any other raises ILLEGAL_OP at the scope in
its bits [25:24], at lane scope for major 0, for the participants of their own K in form L (R87, R90, R102, R113). -/
noncomputable def State.execWord (s : State) (w : Word) : Host.Outcome State Fault Refusal :=
  match decodeWord w with
  | some i => exec i s
  | none =>
    if bits w 26 6 == 0x3F#6 then execXwBad s
    else if bits w 26 6 == 0#6 then execIllegal 0 s
    else if [0x12#6, 0x13#6, 0x14#6].contains (bits w 26 6) then
      execIllegal (bits w 24 2).toNat s (some (bits w 2 4).toNat)
    else execIllegal (bits w 24 2).toNat s

/-- The word of code at a physical address: the one that the core's instruction cache holds, else the one at the home.
-/
def State.codeWord (s : State) (n ctx pa : Nat) : Word :=
  match (s.core n).codeLine? ctx pa with
  | some x => wordOf ((x.bytes.drop (pa % 128)).take 4)
  | none => wordOf (s.readPa pa 4)

/-- The word that a group fetches at a physical address, and the state after it (R88, R89). -/
def State.codeOf (s : State) (is : Issue) (pa : Nat) : Word := s.codeWord (s.blk is.blk).coreNo (s.blk is.blk).ctx pa

def State.fetched (s : State) (is : Issue) (pa : Nat) : State := s.keepCode (s.blk is.blk).coreNo (s.blk is.blk).ctx pa

/-- The fetch of a group's word: the state after it and the word, or the fault (R88, R89, R413, R422). -/
def State.fetch (s : State) (is : Issue) : State × Sum Cause Word :=
  let skip := ((s.warp is.blk is.warp).lane (lowest is.lanes)).watchSkip.getLsbD 1
  match s.laneAccess is.blk is.pc 4 .fetch skip with
  | (s, .fault c) => (s, .inl c)
  | (s, .ok _ pa) => (s.fetched is pa, .inr (s.codeOf is pa))

/-- A group issues: it fetches the word at its address and executes it, or traps (R88). -/
noncomputable def State.issue (s : State) (is : Issue) : Host.Outcome State Fault Refusal :=
  match (s.selected is).fetch is with
  | (s, .inr w) => s.execWord w
  | (s, .inl c) => issuing s fun x =>
    x.s.trap is.blk { mkTrap is.warp c is.lanes is.lanes is.pc x.runLen with atFetch := true }

/-! ### Events of the device -/

/-- Commands of a queue that is enabled or has some taken. -/
noncomputable def queueEvents (die q : Nat) : List Instr :=
  [.launch die q, .signal die q, .waitCommand die q, .waitConditionHolds die q, .copy die q, .preempt die q]

/-- The events of a die. -/
noncomputable def State.dieEvents (s : State) (d : Nat) : List Instr :=
  let busy := (List.range 128).filter fun q =>
    let c := s.cmdq d q
    c.flags.getLsbD 0 || !c.signals.isEmpty || c.waiting.isSome
  List.flatten [
    busy.flatMap (queueEvents d),
    if s.mbox.any fun x => x.1 == d then
      [Instr.create d, Instr.destroy d, Instr.fenceCommand d, Instr.link d, Instr.power d, Instr.enterService d]
    else [],
    [Instr.invalidationComplete d, Instr.dispatchWaitExpiry d, Instr.templateEnqueue d, Instr.idleEntry d,
      Instr.idleExit d]]

/-- The events of a warp that waits. -/
noncomputable def waitEvents (b w : Nat) (q : WaitFor) : List Instr :=
  match q with
  | .sync _ _ _ => [.swwaitRelease b w]
  | .barrier _ _ _ _ => [.barwRelease b w]
  | .pop _ _ _ => [.popRelease b w]
  | .job _ _ => [.dwaitRelease b w]
  | .topk _ _ => [.tkwaitRelease b w]
  | .walk _ _ => [.wwaitRelease b w]
  | .window _ _ _ _ => [.winwaitRelease b w]
  | .mxstat _ _ _ _ _ _ => [.mxstatReturn b w]
  | .mxtest _ _ _ => []
  | .reply _ _ => []
  | .ring _ _ _ _ => []

/-- The events of a lane. -/
noncomputable def laneEvents (b w l : Nat) (x : Lane) : List Instr :=
  match x.status with
  | .sleep _ => [.sleepEnd b w l]
  | .stl _ => [.stlEnd b w l]
  | _ => []

/-- Whether a test of a sub-array may be due: for a tile of a block on its cluster, or for an MXTEST (R270). -/
def Block.testDue (B : Block) (sub : Nat) : Bool :=
  B.tiles.any (fun t => (List.range 4).any fun g => t.untested.getLsbD (4 * g + sub)) || B.warps.any fun W =>
    match W.wait with | some (.mxtest p _ _) => p.getLsbD sub | _ => false

/-- The good tests of the sub-arrays of a cluster, of those that have made a pass since their last one or are due for
another reason (R270); a failing test comes from outside. -/
noncomputable def State.testEvents (s : State) (cl : Nat) : List Instr :=
  let C := s.cluster cl
  let due (sub : Nat) : Bool := !C.fenced.getLsbD sub && (decide (0 < C.passes.getD sub 0)
    || s.blocks.any fun B => B.resident && B.clusterNo == cl && B.testDue sub)
  ((List.range 4).filter due).map fun sub => .selfTest cl sub true

/-- The events of a halted block. -/
noncomputable def Block.haltEvents (B : Block) (b : Nat) : List Instr :=
  if B.halt.isSome then .handlerEntry b :: (List.range B.warps.length).map fun w => Instr.siblingStop b w else []

/-- The events of a warp. -/
noncomputable def warpEvents (b : Nat) (x : Warp × Nat) : List Instr :=
  (match x.1.wait with | none => [] | some q => waitEvents b x.2 q)
    ++ x.1.lanes.zipIdx.flatMap fun (y, l) => laneEvents b x.2 l y

/-- The events of a block. -/
noncomputable def State.blockEvents (s : State) (b : Nat) : List Instr :=
  let B := s.blk b
  let resumes : List Instr := match B.phase with
    | .saved => (List.range Config.dies).map fun d => Instr.parentResume b d
    | _ => []
  List.flatten [
    [Instr.transformBinding b, Instr.blockStart b, Instr.blockExit b],
    B.haltEvents b,
    resumes,
    (List.range B.insts.length).map fun k => Instr.rendezvousComplete b k,
    B.warps.zipIdx.flatMap (warpEvents b)]

/-- The events of a context. -/
noncomputable def ctxEvents (c : Nat) : List Instr := [.saving c, .forcedReset c, .ringSlotFree c]

/-- The events of an entry of a reservation table. -/
noncomputable def mxEvents (e : MxEntry) : List Instr :=
  match e.kind with
  | .pass _ _ _ _ _ _ _ _ _ _ _ _ => [.pass e.id]
  | .zero _ _ => [.mxzeroServe e.id]
  | .drain _ _ => [.mxdsServe e.id]
  | .drainV _ _ _ _ _ => [.mxdvServe e.id]
  | .load _ _ => [.mxldServe e.id]
  | .req _ => [.reqServe e.id]
  | .walk _ => []

/-- The events of a walker's request. -/
noncomputable def reqEvents (r : WalkReq) : List Instr :=
  match r.kind with
  | .join _ _ => [.wjoinPerformed r.id]
  | .leave _ _ => [.wleavePerformed r.id]
  | .retire _ => [.wretirePerformed r.id]
  | .append _ _ => [.kvappComplete r.id]

/-- The events of an operation of a map engine. -/
noncomputable def mapEvents (o : MapOp) : List Instr :=
  match o.kind with
  | .comp _ => [.mapcompComplete o.id]
  | .apply _ _ _ => [.mapapplyFill o.id]
  | .mask _ => [.mapmaskComplete o.id]
  | .last _ => [.mapmaskComplete o.id]

/-- The events of operations on their way. -/
noncomputable def State.accessEvents (s : State) : List Instr :=
  List.flatten [
    s.hostCopies.map fun c => Instr.commandCopyComplete c.n,
    s.loads.map fun x => Instr.loadFill x.id,
    s.atoms.map fun x => Instr.aswRequest x.id,
    s.replies.map fun x => Instr.atomicReply x.id,
    s.stores.map fun x => Instr.storePerformed x.id,
    (List.range s.pageWalks.length).map fun k => Instr.translationWalkComplete k,
    (List.range s.ctrOps.length).map fun k => Instr.counterOperation k,
    (List.range s.deqWaits.length).map fun k => Instr.deqFill k,
    (List.range s.stalls.length).map fun k => Instr.queueStall k]

/-- The events of a copy operation, a job, a walk, a frame, an answer. -/
noncomputable def copyEvents (x : CopyOp) : List Instr := [.copyArrival x.id, .copyComplete x.id]

noncomputable def jobEvents (x : Job) : List Instr := if x.done then [] else [.chunkCommit x.id, .jobComplete x.id]

noncomputable def walkEvents (k : Nat) : List Instr :=
  [.walkValidate k, .nodeVisit k, .revisit k, .catchup k, .walkComplete k]

noncomputable def frameEvents (f : Frame) : List Instr :=
  [if f.signal then .dataSignal f.id else .data f.id, .retryTimeout f.id]

/-- The frame that another package has sent, by the kind that its header names (R378). -/
noncomputable def wireEvents (x : WireFrame) : List Instr :=
  match fieldAt x.header 1 1 with
  | 0 => [.data x.id]
  | 1 => [.dataSignal x.id]
  | _ => []

noncomputable def answerEvent (x : Nat × Bool) : Instr := if x.2 then .ack x.1 else .nack x.1

/-- The events of engines at work. -/
noncomputable def State.engineEvents (s : State) : List Instr :=
  List.flatten [
    s.copies.flatMap copyEvents,
    s.mrt.flatMap mxEvents,
    (List.range s.walks.length).flatMap walkEvents,
    s.walkReqs.flatMap reqEvents,
    s.mapOps.flatMap mapEvents,
    s.topkOps.map fun x => Instr.topkComplete x.id,
    s.seqOps.map fun x => Instr.sequencerOperation x.id,
    s.jobs.flatMap jobEvents,
    s.frames.flatMap frameEvents,
    s.wire.flatMap wireEvents,
    s.answers.map answerEvent]

/-- The events of a launch. -/
noncomputable def State.launchEvents (s : State) (l : Nat) : List Instr :=
  .launchComplete l :: (List.range s.dies.length).map fun d => Instr.blockPlace d l

/-- The events of the device, enabled or not. -/
noncomputable def State.events (s : State) : List Instr :=
  List.flatten [
    (List.range s.dies.length).flatMap s.dieEvents,
    s.ctxs.flatMap fun c => ctxEvents c.id,
    (List.range s.clusters.length).flatMap s.testEvents,
    (List.range s.launches.length).flatMap s.launchEvents,
    (List.range s.blocks.length).flatMap s.blockEvents,
    s.accessEvents,
    s.engineEvents]

/-! ### Moves -/

/-- Something that may happen next: an outside event, an event of the device, an issue, the release of a FENCE, what a
cache or a buffer does unasked, the start of a job, bytes that a job or a binding reads, one word of a frame, an atomic
of host memory that reads its word ahead, and a mailbox whose command is read. -/
inductive Move where
  | outside (i : Instr)
  | event (i : Instr)
  | issue (is : Issue)
  | fence (x : FenceOp)
  | evict (core : Nat) (x : L1Line)
  | clean (core : Nat) (x : L1Line) (sector : Nat)
  | refresh (core : Nat) (x : L1Line)
  | forget (die k : Nat)
  | dropLine (core k : Nat)
  | dropHost (die line : Nat)
  | startJob (id : Nat)
  | rereadJob (id : Nat)
  | rereadLaunch (l : Nat)
  | land (f : Frame) (word : Nat)
  | early (x : AtomOp)
  | mail

/-- Whether a line may be replaced: no pin holds it, and where its set has lines brought in as streaming, it is one
(R66, R77, R214). -/
def State.mayEvict (s : State) (n : Nat) (x : L1Line) : Bool :=
  x.pins.isEmpty && (x.stream || !(s.core n).l1.any fun y =>
    y.stream && y.pins.isEmpty && s.l1SetOf n y.line == s.l1SetOf n x.line)

/-- What an L1 may do with a line unasked: write a dirty sector of it back (R80, R387), replace it (R66), or, where a
pin keeps it and it is valid, bring it up to date (R77, R224, R387). -/
def State.lineMoves (s : State) (n : Nat) (x : L1Line) : List Move :=
  (if s.mayEvict n x then [Move.evict n x] else [])
    ++ (if x.pins.isEmpty || x.void then [] else [Move.refresh n x])
    ++ ([2 * x.line, 2 * x.line + 1].filter fun sec => x.dirty &&& sectorMask (· == sec) x.line != 0).map
      fun sec => .clean n x sec

def State.l1Moves (s : State) : List Move :=
  (List.range s.cores.length).flatMap fun n => (s.core n).l1.flatMap (s.lineMoves n)

/-- The translations that a die may drop (R75). -/
def State.forgets (s : State) : List Move :=
  (List.range s.dies.length).flatMap fun d => (List.range (s.die d).tlb.length).map fun k => .forget d k

/-- The lines that an instruction cache may drop (R89). -/
def State.codeDrops (s : State) : List Move :=
  (List.range s.cores.length).flatMap fun n => (List.range (s.core n).code.length).map fun k => .dropLine n k

/-- The lines of host memory that an L2 may drop: those that no pin holds (R70, R77). -/
def State.hostDrops (s : State) : List Move :=
  (List.range s.dies.length).flatMap fun d => 
    ((s.die d).hostLines.filter fun l => !s.l2Pinned d l).map fun l => .dropHost d l

/-- The jobs that may start (R341). -/
def State.jobStarts (s : State) : List Move :=
  (s.jobs.filter fun j => !j.done && j.snap.isNone && s.jobMayRun j).map fun j => .startJob j.id

/-- The reads of jobs under way and of the bindings of launches (R349, R354). -/
def State.rereads (s : State) : List Move :=
  ((s.jobs.filter fun j => !j.done && j.snap.isSome).map fun j => Move.rereadJob j.id)
    ++ (((List.range s.launches.length).filter fun l => (s.launch l).inFlight && !(s.launch l).rcd.bindings.isEmpty).map
      Move.rereadLaunch)

/-- The words of frames that may be written before their frame is answered (R375). -/
def State.wordLandings (s : State) : List Move :=
  (s.frames.filter s.mayLand).flatMap fun f => f.wordsLeft.map fun k => .land f k

/-- The atomics of host memory that may read their word ahead of the host's writes (R38, R360). -/
def State.earlyReads (s : State) : List Move :=
  (s.atoms.filter fun x => !x.scratch && isHost x.pa && x.early.isNone).map Move.early

/-- The FENCEs whose release may be performed (R222). -/
def State.fenceMoves (s : State) : List Move := (s.fences.filter fun x => s.isFirst x.pend).map Move.fence

/-- Everything that may be tried next. -/
noncomputable def State.moves (s : State) : List Move :=
  List.flatten [
    s.inputs.head?.toList.map Move.outside,
    s.events.map Move.event,
    s.issues.map Move.issue,
    s.fenceMoves,
    [Move.mail],
    s.l1Moves,
    s.forgets,
    s.codeDrops,
    s.hostDrops,
    s.jobStarts,
    s.rereads,
    s.wordLandings,
    s.earlyReads]

/-- What a move does. -/
noncomputable def State.perform (s : State) (m : Move) : Host.Outcome State Fault Refusal :=
  match m with
  | .outside i => exec i { s with inputs := s.inputs.tail }
  | .event i => exec i s
  | .issue is => s.issue is
  | .fence x => .next (s.performFence x)
  | .mail => s.takeMail
  | .evict n x => .next (s.evict n x)
  | .clean n x sec => .next (s.cleanPart n x (sectorMask (· == sec) x.line))
  | .refresh n x => .next (s.fetchLine n x.ctx x.line false)
  | .forget d k => .next (s.updDie d fun x => { x with tlb := x.tlb.eraseIdx k })
  | .dropLine n k => .next (s.updCore n fun c => { c with code := c.code.eraseIdx k })
  | .dropHost d line => .next (s.updDie d fun x => { x with hostLines := x.hostLines.filter (· != line) })
  | .startJob id => .next (s.startJob id)
  | .rereadJob id => .next (s.rereadJob id)
  | .rereadLaunch l => .next (s.rereadLaunch l)
  | .land f k => .next (s.landWord f k)
  | .early x => .next { s with atoms := s.atoms.map fun y =>
      if y.id == x.id then { y with early := some (wordOf (s.readPa x.pa 4)) } else y }

/-- The next state of an outcome, if it has one. -/
def nextOf (o : Host.Outcome State Fault Refusal) : Option State :=
  match o with
  | .next s => some s
  | .fault _ => none
  | .refused _ => none

/-- The states that may come next. -/
noncomputable def State.options (s : State) : List State := s.moves.filterMap fun m => nextOf (s.perform m)

/-- Time goes on by a cycle, and each die notes what it has to do (R45, R437). -/
def State.passTime (s : State) : State :=
  let s := { s with cycle := s.cycle + 1 }
  (List.range s.dies.length).foldl (fun s d => (s.noteWait d).noteIdle d) s

/-- The device goes on: nothing happens where nothing can, else one of the options (assumption 1). -/
noncomputable def State.advance (s : State) : State :=
  match s.options with
  | [] => s.passTime
  | [t] => t.passTime
  | t :: ts =>
    let i := Config.freeChoice s.tick % (ts.length + 1)
    ({ ((t :: ts).getD i t) with tick := ((t :: ts).getD i t).tick + 1 }).passTime

end Sys2Proof.Machine
end

