-- ==== Sys2Proof/Machine/Fetch.lean ====
section
/-! DEFINITION. A program loaded from outside (assumption 8): one context, its page tables, one launch of one warp
whose block has started, and an instruction word at its first address, in a device that has nothing else to do. -/

namespace Sys2Proof.Machine

/-- The virtual address at which the loaded program starts. -/
def loadVa : Nat := 0x10000

/-- The physical base of what is loaded: second-tier stack 0, which Twilight mode can reach (R71, R435). -/
def loadPa : Nat := 0x20_0000_0000

/-- The loaded page tables (R73): a root, two tables below it, and a leaf of 1 GiB at the base. -/
def loadTables (m : List Host.Cell) : List Host.Cell :=
  let entry (m : List Host.Cell) (at_ v : Nat) : List Host.Cell := Memory.writeBytes m at_ (leBytes 8 v)
  let m := entry m (loadPa + 0x1000) (loadPa + 0x2000 + 1)
  let m := entry m (loadPa + 0x2000) (loadPa + 0x3000 + 1)
  entry m (loadPa + 0x3000) (loadPa + 3)

/-- The loaded launch record (R10): one block of 32 threads with 64 lane registers and 16 set registers. -/
def loadRecord : Record :=
  { recordOf [] with code := BitVec.ofNat 64 loadVa, gridX := 1, gridY := 1, gridZ := 1, blkX := 32, blkY := 1, blkZ := 1,
                     lregs := 64, gregs := 16 }

/-- A die with nothing to do. -/
def Die.quiet (d : Die) : Die :=
  { d with cmdqs := d.cmdqs.map fun q => { q with flags := 0 }, invalidating := [], fired := [], tlb := [], idleOk := false,
           waits := [], hostLines := [], idle := false }

/-- A device with nothing to do but what is loaded, in Twilight mode where it was off (R435). -/
def State.quiet (s : State) : State :=
  { s with mode := (match s.mode with | .off => .twilight | .twilight => .twilight | .service => .service),
           poison := [], dies := s.dies.map Die.quiet, cores := s.cores.map fun c => { c with l1 := [], code := [] }, ctxs := [],
           launches := [], blocks := [], loads := [], stores := [], atoms := [], replies := [], hostCopies := [], copies := [],
           mrt := [], jobs := [], walks := [], walkReqs := [], appended := [], pageWalks := [], seqOps := [], binds := [], mapOps := [],
           topkOps := [], ctrOps := [], deqWaits := [], frames := [], puts := [], answers := [], doorbells := [], mbox := none,
           fences := [], stalls := [], cur := none, inputs := [], wire := [], clusters := s.clusters.map fun c => { c with passes := [0, 0, 0, 0] } }

/-- The loaded context: its page tables and a service ring of one slot (R431). -/
def loadCtx (tick : Nat) : Ctx :=
  { newCtx tick (List.replicate 128 0) with ringN := 1, root := BitVec.ofNat 64 (loadPa + 0x1000) }

/-- The loaded launch, its one block placed (R27, R44). -/
def loadLaunch : Launch := { newLaunch loadRecord 0 1 0 none 0 none .running with next := 1 }

/-- The loaded block, started (R63). -/
def loadBlock : Block := { Block.fresh loadLaunch 0 0 0 0 0 with phase := .running }

/-- The state with an instruction word of `nbits` bits, those above them zero, loaded and about to be fetched. -/
def State.loaded (s : State) (nbits w : Nat) : State :=
  let word := BitVec.ofNat 32 (w % 2 ^ nbits)
  let q := s.quiet
  { q with ctxs := [loadCtx s.tick], launches := [loadLaunch], blocks := [loadBlock],
           mem := Memory.writeBytes (loadTables s.mem) (loadPa + loadVa) (bytesOfWord word) }

end Sys2Proof.Machine
end

