-- ==== Sys2Proof/Machine/Step.lean ====
section
/-! DEFINITION. One step of the device, and a program put where the next step fetches. `noncomputable` as in the
decoder. -/

namespace Sys2Proof.Machine

/-- One step: one of the things that may happen next happens (assumption 1). -/
noncomputable def step (s : State) : Host.Outcome State Fault Refusal := .next s.advance

/-- The state with an instruction word loaded as a program that is about to run (assumption 8). -/
def State.withFetchWord (s : State) (nbits w : Nat) : State := s.loaded nbits w

end Sys2Proof.Machine
end

