-- ==== Sys2Proof/WellFormed.lean ====
section
/-! DEFINITION. Well-formed instructions: those that have a word, and whose word breaks none of the limits that the
spec puts on a field whatever the registers, the prefixes and the block (R95, R96, R143, R159). A word that breaks one
decodes all the same; executing it raises ILLEGAL_OP. -/

namespace Sys2Proof

/-- A predicate destination: 7 is none (R95). -/
def predDestOk (c : Nat) : Bool := c ≤ 6

/-- A mask source: a mask register, or 15 (R96). -/
def maskSrcOk (c : Nat) : Bool := c ≤ 11 || c == 15

/-- A mask destination: a mask register (R143). -/
def maskDestOk (c : Nat) : Bool := c ≤ 11

/-- A format code that is not reserved (R159). -/
def formatOk (c : Nat) : Bool := c ≤ 24

/-- The masks of a form K word by its function code: KD, and KA and KB where the function has them (R143). -/
def kFieldsOk (w : Word) : Bool :=
  let fn := (bits w 20 4).toNat
  let kd := (bits w 16 4).toNat
  let ka := (bits w 12 4).toNat
  let kb := (bits w 8 4).toNat
  if fn == 9 then maskSrcOk ka
  else maskDestOk kd && (!(decide (3 ≤ fn) && decide (fn ≤ 6)) || (maskSrcOk ka && maskSrcOk kb))

/-- The limits of R95, R96, R143 and R159 on a word of the opcode map, by its major. -/
def fieldsOk (w : Word) : Bool :=
  match (bits w 26 6).toNat with
  | 0x07 => predDestOk (bits w 21 3).toNat
  | 0x08 => predDestOk (bits w 21 3).toNat
  | 0x0B => formatOk (bits w 6 5).toNat && formatOk (bits w 1 5).toNat
  | 0x0F => predDestOk (bits w 21 3).toNat
  | 0x12 => maskSrcOk (bits w 2 4).toNat
  | 0x13 => maskSrcOk (bits w 2 4).toNat
  | 0x14 => maskSrcOk (bits w 2 4).toNat
  | 0x15 => (bits w 0 5).toNat != 9 || predDestOk (bits w 18 3).toNat
  | 0x17 => maskSrcOk (bits w 16 4).toNat
  | 0x1A => kFieldsOk w
  | 0x30 => formatOk (bits w 0 5).toNat
  | _ => true

/-- An instruction that a program can hold: it has a word, and the word's fields keep their limits. -/
def Instr.wf (i : Instr) : Bool :=
  match encode i with
  | none => false
  | some w => fieldsOk w

end Sys2Proof
end

