-- ==== Sys2Proof/Safety.lean ====
section
/-! DEFINITION. What claims say of states: canonical memory, the shape of the parts of the device, the group that
issues and whether its instruction may go on, and what an instruction on registers writes and keeps. -/

namespace Sys2Proof.Machine

/-! ### States -/

/-- Physical memory and every scratchpad are in canonical form, so that equal memories are equal data. -/
def State.memOk (s : State) : Prop :=
  Memory.wf s.mem = true ∧ ∀ b ∈ s.blocks, Memory.wf b.sp = true

/-- Every read of a byte of physical memory is the same in two states. -/
def State.sameMem (s t : State) : Prop := ∀ a, Memory.read t.mem a = Memory.read s.mem a

/-- A warp has its 32 lanes, 32 shared registers and 12 mask registers, and each lane its 64 registers (R9). -/
def Warp.formed (w : Warp) : Prop :=
  w.lanes.length = 32 ∧ w.w.length = 32 ∧ w.k.length = 12 ∧ ∀ l ∈ w.lanes, l.v.length = 64

/-- A set has its registers for the lanes of its members (R133). -/
def SetB.formed (gregs : Nat) (s : SetB) : Prop :=
  s.g.length = gregs ∧ ∀ es ∈ s.g, es.length = 32 * popcount s.members

/-- An instance speaks of the warps of its block, one of a set of its members alone (R124 to R126). -/
def Inst.formed (b : Block) (y : Inst) : Prop :=
  y.part.length = b.warps.length ∧ y.arrived.length = b.warps.length ∧
    (∀ i, y.u = .set i → ∀ w, y.part.getD w 0 ≠ 0 → (b.set i).members.getLsbD w = true) ∧
    ∀ w0, y.u = .warp w0 → ∀ w, w ≠ w0 → y.part.getD w 0 = 0

/-- The parts of a block have their sizes: its warps, sets, instances, split barriers (R146), pipes (R364) and copy
queues (R226). -/
def Block.formed (b : Block) : Prop :=
  b.bars.length = 16 ∧ b.pipes.length = 16 ∧ b.copyQ.length = 8 ∧ (∀ w ∈ b.warps, w.formed) ∧ (∀ st ∈ b.sets, st.formed b.gregs) ∧ ∀ y ∈ b.insts, y.formed b

/-- Whether the registers that a destination names are marked empty, or hold the warp's issue for an operation (R97). -/
def State.emptyAt (s : State) (b w id : Nat) (d : Dest) (n : Nat) : Prop :=
  match d with
  | .v lane first => ∀ i ∈ codes first n, (s.lane b w lane).full i = false
  | .w _ => (s.warp b w).hold = some id
  | .g i pos lane first => ∀ r ∈ codes first n, (((s.blk b).set i).elem r pos lane).full = false

/-- The registers that a destination names hold values, and are full. -/
def State.holds (s : State) (b w : Nat) (d : Dest) (vals : List Word) : Prop :=
  match d with
  | .v lane first => (codes first vals.length).map (s.lane b w lane).reg = vals ∧
      ∀ i ∈ codes first vals.length, (s.lane b w lane).full i = true
  | .w first => (codes first vals.length).map (s.warp b w).reg = vals
  | .g i pos lane first =>
      (codes first vals.length).map (fun r => ((s.blk b).set i).elem r pos lane) = vals.map fun v => ⟨v, true, false⟩

/-- A block has no access on its way, and no FENCE or DEQ that an access may have to follow. -/
def State.calm (s : State) (b : Nat) : Prop :=
  (∀ o ∈ s.loads, o.blk ≠ b) ∧ (∀ o ∈ s.stores, o.blk ≠ b) ∧ (∀ o ∈ s.atoms, o.blk ≠ b) ∧ (∀ o ∈ s.replies, o.blk ≠ b) ∧
    (∀ o ∈ s.fences, o.blk ≠ b) ∧ ∀ o ∈ s.deqWaits, o.blk ≠ b

/-- No DEQ of a block waits for its entry. -/
def State.noDeq (s : State) (b : Nat) : Prop := ∀ o ∈ s.deqWaits, o.blk ≠ b

/-- A core's L1 holds each line of a context once, and its lines and those of its instruction cache have their 128 bytes
(R66, R85). -/
def Core.formed (c : Core) : Prop :=
  (c.l1.map fun x => (x.ctx, x.line)).Nodup ∧ (∀ x ∈ c.l1, x.bytes.length = 128) ∧ ∀ x ∈ c.code, x.bytes.length = 128

/-- The parts of every block have their sizes, no core holds a line twice, and the atomics on their way have names that
have been given. -/
def State.sized (s : State) : Prop :=
  (∀ b ∈ s.blocks, b.formed) ∧ (∀ c ∈ s.cores, c.formed) ∧ ∀ o ∈ s.atoms, o.id < s.nextId

/-- A state whose parts have their sizes and whose memories are in canonical form. -/
def State.formed (s : State) : Prop := s.sized ∧ s.memOk

/-- The group is the selected one: ready lanes of a warp that there is (R116). -/
def State.selects (s : State) (is : Issue) : Prop :=
  s.cur = some is ∧ is.lanes ≠ 0 ∧ is.blk < s.blocks.length ∧ is.warp < (s.blk is.blk).warps.length ∧
    ∀ l ∈ lanesOf is.lanes, (s.lane is.blk is.warp l).status = .ready

/-! ### Instructions that reach further than registers -/

/-- The group's arrival completes the rendezvous of its scope, so that the instruction issues (R123 to R127). -/
def Ex.completes (x : Ex) (u : RdvUnit) (k : Nat) (s : State) (y : Inst) : Prop :=
  x.arrive u k = (s, some y) ∧ x.b.completes y = true

/-- The lanes of an instance stand past the instruction (R129). -/
def Ex.past (x : Ex) (y : Inst) (t : State) : Prop :=
  ∀ p ∈ Inst.lanes (x.b.needed y),
    (t.lane x.is.blk p.1 p.2).pc = ((x.b.warp p.1).lane p.2).pc + 4 ∧ (t.lane x.is.blk p.1 p.2).run = []

/-- The lanes of the group stand past the instruction (R117). -/
def Ex.stepped (x : Ex) (t : State) : Prop :=
  ∀ l ∈ lanesOf x.is.lanes,
    (t.lane x.is.blk x.is.warp l).pc = (x.w.lane l).pc + 4 ∧ (t.lane x.is.blk x.is.warp l).run = []

/-- The instruction may issue at its scope: at lane scope at once, at a wider one by an instance that completes; K is
the MOD field of the run. -/
def Ex.goes (x : Ex) (sc : Nat) (y : Inst) : Prop :=
  sc = 0 ∨ ∃ u s, x.unit sc = some u ∧ x.completes u x.pf.modOf.k.toNat s y

/-- The lanes of the instruction stand past it. -/
def Ex.moved (x : Ex) (sc : Nat) (y : Inst) (t : State) : Prop :=
  match sc with
  | 0 => x.stepped t
  | _ => x.past y t

/-- Nothing but the places of some lanes of each warp, and the block's instances, differs: its other lanes, registers,
masks, memory and everything outside the block are as they were. -/
def Ex.onlyPlaces (x : Ex) (m : Nat → Word) (t : State) : Prop :=
  t = { x.s with blocks := t.blocks, cur := none } ∧ (∀ b ≠ x.is.blk, t.blk b = x.s.blk b) ∧
  let B := t.blk x.is.blk
  B = { x.b with warps := B.warps, insts := B.insts } ∧ ∀ w, B.warp w = { x.b.warp w with lanes := (B.warp w).lanes } ∧
    ∀ l, let new := (B.warp w).lane l
      new = { (x.b.warp w).lane l with pc := new.pc, run := new.run, status := new.status, replay := new.replay,
                                       watchSkip := new.watchSkip } ∧
      ((m w).getLsbD l = false → new = (x.b.warp w).lane l)

/-- The lanes of each warp that an instruction moves: the group at lane scope, those of the instance at a wider one. -/
def Ex.movers (x : Ex) (sc : Nat) (y : Inst) (w : Nat) : Word :=
  if sc = 0 then (if w = x.is.warp then x.is.lanes else 0) else y.arrived.getD w 0

/-- One who makes an access: its warp, its lane (32 for an access of warp scope), the lane whose guard counts, and the
registers that it sees. -/
structure Party where
  warp : Nat
  lane : Nat
  self : Lane
  view : View

/-- Those who make the accesses of an instruction at its scope (R211, R218). -/
def Ex.parties (x : Ex) (sc : Nat) (y : Inst) : List Party :=
  match sc with
  | 0 => (lanesOf x.is.lanes).map fun l => ⟨x.is.warp, l, x.w.lane l, (x.w.lane l).view⟩
  | 1 => [⟨x.is.warp, 32, x.w.lane (lowest ((x.b.needed y).getD x.is.warp 0)), x.w.view⟩]
  | _ => match y.u with
    | .set i => (Inst.lanes (x.b.needed y)).map fun p =>
        ⟨p.1, p.2, (x.b.warp p.1).lane p.2, (x.b.set i).view ((x.b.set i).pos p.1) p.2 ((x.b.warp p.1).lane p.2)⟩
    | _ => []

/-- No element that MZ will zero at set scope waits for a fill (R99). -/
def Ex.zeroes (x : Ex) (y : Inst) (dst : List Nat) : Prop :=
  x.pf.modOf.mz = true → ∀ i, y.u = .set i → x.b.othersPend i (x.b.needed y) dst = false

/-- The sources of everyone let it issue, or its guard turns it away; no lane replays a part of its own (R98 to R100,
R411). -/
def Ex.allReady (x : Ex) (sc : Nat) (y : Inst) (gn : Bool) (gp : BitVec 3) (srcs : List Src) (dst : List Nat) : Prop :=
  (x.w.lane (lowest x.is.lanes)).replay = false ∧ (sc = 2 → x.zeroes y dst) ∧
  ∀ p ∈ x.parties sc y, p.self.guard gn gp = false ∨ sc = 1 ∨ readiness p.view srcs dst = .go

/-- A party that performs its part. -/
def Ex.acting (x : Ex) (sc : Nat) (y : Inst) (gn : Bool) (gp : BitVec 3) (p : Party) : Prop :=
  p ∈ x.parties sc y ∧ p.self.guard gn gp = true

/-- A core's buffer holds a translation under which an access passes the checks of R72, no watch range holds its bytes
and a read finds no poison: the page's entry and the physical address (R72, R75, R83, R413, R422). -/
def State.maps (s : State) (b : Nat) (va : DWord) (n : Nat) (k : Access) (e : DWord) (pa : Nat) : Prop :=
  let B := s.blk b
  let p := corePlace B.coreNo
  canonical va = true ∧ va.toNat % n = 0 ∧ pa % n = 0 ∧
    (∃ t, (s.die (placeDie p)).lookup p B.ctx va = some t ∧ t.entry = e) ∧
    pa = replicaPa e (s.pageOff p B.ctx va) (replicaDie (entryRepl e) (placeDie p)) ∧ paOk pa = true ∧
    s.reachable pa = true ∧
    (match k with
      | .load => s.poisoned pa n = false
      | .store => entryRo e = false
      | .atomic => entryRo e = false ∧ entryRepl e = 0
      | .fetch => entryNx e = false ∧ s.poisoned pa n = false) ∧
    ∀ kind, s.watched B.ctx kind va n = false

/-- An instruction that reaches memory or a queue, with its operands for one run: its scope, what it accepts of the run
(R102), its operands with their classes (R92, R93), its sources and destination registers, and its guard. -/
structure MemForm where
  sc : Nat
  acc : Acc
  ops : List Opd
  extra : Bool := true
  srcs : List Src
  dst : List Nat := []
  gn : Bool := false
  gp : BitVec 3 := 7

/-- The instruction may go on: its checks pass (R113), a wider scope's rendezvous completes, and its sources let
everyone issue. -/
def MemForm.issues (m : MemForm) (x : Ex) (y : Inst) : Prop :=
  m.sc ≤ 2 ∧ x.legal m.acc m.ops m.extra = true ∧ x.goes m.sc y ∧ x.allReady m.sc y m.gn m.gp m.srcs m.dst

/-- Those whose guard is true. -/
def MemForm.acting (m : MemForm) (x : Ex) (y : Inst) (p : Party) : Prop := x.acting m.sc y m.gn m.gp p

/-- Where a result of a party goes (R211). -/
def Ex.dest (x : Ex) (sc : Nat) (y : Inst) (p : Party) (first : Nat) : Dest :=
  match sc with
  | 0 => .v p.lane first
  | 1 => .w first
  | _ => match y.u with
    | .set i => .g i ((x.b.set i).pos p.warp) p.lane first
    | _ => .w first

/-- No two of those who act share a byte, each having `n` bytes from its address on. -/
def MemForm.apart (m : MemForm) (x : Ex) (y : Inst) (n : Nat) (at_ : Party → Nat) : Prop :=
  ∀ p q, m.acting x y p → m.acting x y q → (p.warp, p.lane) ≠ (q.warp, q.lane) → overlap (at_ p) n (at_ q) n = false

/-- What an access leaves as it was in registers and masks: all but its destination. -/
def MemForm.keepsRegs (m : MemForm) (x : Ex) (t : State) : Prop :=
  let B := t.blk x.is.blk
  ∀ w n, (B.warp w).k = (x.b.warp w).k ∧ (B.warp w).live = (x.b.warp w).live ∧
    (m.dst.contains n = false ∨ m.sc ≠ 1 ∨ w ≠ x.is.warp → (B.warp w).reg n = (x.b.warp w).reg n) ∧
    (∀ i, m.dst.contains n = false ∨ m.sc ≠ 2 → (B.set i).g.getD n [] = (x.b.set i).g.getD n []) ∧
    ∀ l, ((B.warp w).lane l).preds = ((x.b.warp w).lane l).preds ∧
      (m.dst.contains n = false ∨ m.sc ≠ 0 ∨ w ≠ x.is.warp ∨ x.is.lanes.getLsbD l = false →
        ((B.warp w).lane l).reg n = ((x.b.warp w).lane l).reg n ∧
          ((B.warp w).lane l).full n = ((x.b.warp w).lane l).full n)

/-- What an access leaves as it was in the blocks: other blocks, and in its own all but registers, instances and the
lanes' places. -/
def MemForm.keepsBlocks (m : MemForm) (x : Ex) (t : State) : Prop :=
  (∀ b ≠ x.is.blk, t.blk b = x.s.blk b) ∧
  t.blk x.is.blk = { x.b with warps := (t.blk x.is.blk).warps, sets := (t.blk x.is.blk).sets,
                              insts := (t.blk x.is.blk).insts } ∧ m.keepsRegs x t

/-- The byte of an address with a core's own dirty bytes over the home (R214, R390). -/
def State.newestByte (s : State) (n a : Nat) : Byte :=
  match ((s.core n).l1.filter fun z => z.line == lineNo a && z.dirty.getLsbD (a % 128)).getLast? with
  | none => Memory.read s.mem a
  | some z => z.bytes.getD (a % 128) 0

/-- The byte of an address with the dirty bytes of a context's own copy over the home (R85, R214). -/
def State.ownByte (s : State) (n ctx a : Nat) : Byte :=
  match (s.core n).line? ctx (lineNo a) with
  | none => Memory.read s.mem a
  | some z => if z.dirty.getLsbD (a % 128) then z.bytes.getD (a % 128) 0 else Memory.read s.mem a

/-- The bytes that a context's load under a hint has at its core, its launch taken in a cycle: from a line held there that
serves it, else the home with the line's dirty bytes over it (R214). -/
def State.loadBytes (s : State) (n ctx a size hint taken : Nat) : List Byte :=
  (List.range size).map fun i =>
    match (s.core n).line? ctx (lineNo a) with
    | some z => if z.serves hint taken = true then z.bytes.getD ((a + i) % 128) 0 else s.ownByte n ctx (a + i)
    | none => s.ownByte n ctx (a + i)

/-- The byte that a context's plain load under a hint has from a core's L1, if a line held there serves it (R85, R214,
R215). -/
def State.hitByte (s : State) (n ctx a hint taken : Nat) : Option Byte :=
  match (s.core n).line? ctx (lineNo a) with
  | none => none
  | some z => if z.serves hint taken = true then some (z.bytes.getD (a % 128) 0) else none

/-- Bytes of a list of optional bytes, none where one is absent. -/
def State.hitBytes (s : State) (n ctx a size hint taken : Nat) : Option (List Byte) :=
  (List.range size).mapM fun i => s.hitByte n ctx (a + i) hint taken

/-- What a plain load has done for one party (R213): a hit filled its registers, a miss left them empty with the load on
its way. -/
def State.tookLoad (t : State) (x : Ex) (m : MemForm) (y : Inst) (p : Party) (first regs pa size : Nat) (sx : Bool)
    (hint : Nat) : Prop :=
  let d := x.dest m.sc y p first
  match x.s.hitBytes x.b.coreNo x.b.ctx pa size hint (x.s.launch x.b.launch).taken with
  | some bs => t.holds x.is.blk p.warp d (loadWords bs sx)
  | none => ∃ id, t.emptyAt x.is.blk p.warp id d regs ∧
      ({ id := id, blk := x.is.blk, warp := p.warp, lane := p.lane, dest := d, pa := pa, size := size, sx := sx,
         hint := hint } : LoadOp) ∈ t.loads

/-- A warp-scope instruction on w registers issues: its checks pass and its rendezvous completes (R186, R211). -/
def Ex.uniformGoes (x : Ex) (acc : Acc) (ops : List Opd) (extra : Bool) (s : State) (y : Inst) : Prop :=
  x.legal { acc with mod := true, k := true } ops extra = true ∧ (x.w.lane (lowest x.is.lanes)).replay = false ∧
    x.completes (.warp x.is.warp) x.pf.modOf.k.toNat s y

/-! ### Instructions on registers -/

/-- An instruction on registers as its rule describes it: what it accepts of a run (R102), its operands with their
classes (R92, R93) and sources, its guard, where its result goes, and the result from the registers of the executing
lane's class and of its warp. -/
structure RegInstr where
  instr : Instr
  sc : Nat
  acc : Acc
  ops : Ex → List Opd
  extra : Ex → Bool := fun _ => true
  srcs : Ex → List Src
  gn : Bool := false
  gp : BitVec 3 := 7
  dst : Dst
  val : Ex → View → View → DWord

/-- The sources of a lane let it issue, or its guard turns it away (R98 to R100). -/
def RegInstr.readyIn (r : RegInstr) (x : Ex) (l : Lane) (v : View) : Prop :=
  l.guard r.gn r.gp = false ∨ readiness v (r.srcs x) r.dst.codes = .go

/-- The checks of R113 pass, the rendezvous of a wider scope completes, and the sources let every lane issue. -/
def RegInstr.ready (r : RegInstr) (x : Ex) : Prop :=
  x.legal r.acc (r.ops x) (r.extra x) = true ∧
  match r.sc with
  | 0 => ∀ l ∈ lanesOf x.is.lanes, r.readyIn x (x.w.lane l) (x.w.lane l).view
  | 2 => ∃ i s y, x.unit 2 = some (.set i) ∧ x.completes (.set i) x.pf.modOf.k.toNat s y ∧ x.zeroes y r.dst.codes ∧
      ∀ p ∈ Inst.lanes (x.b.needed y), r.readyIn x ((x.b.warp p.1).lane p.2)
        ((x.b.set i).view ((x.b.set i).pos p.1) p.2 ((x.b.warp p.1).lane p.2))
  | _ => ∃ u s y, x.unit r.sc = some u ∧ x.completes u x.pf.modOf.k.toNat s y

/-- What a destination of lane class holds after a value has gone there: registers, or a predicate combined under CB
(R91). -/
def Dst.inLane (d : Dst) (old new : Lane) (val : DWord) : Prop :=
  match d with
  | .reg c n => (Machine.codes c n).map new.reg = wordsOf n val ∧ ∀ i ∈ Machine.codes c n, new.full i = true ∧ new.poisoned i = false
  | .pred pd cb => new.pred pd = combine cb (old.pred pd) (val.getLsbD 0)

/-- What a destination of warp scope holds (R186). -/
def Dst.inWarp (d : Dst) (old new : Warp) (lanes : Word) (val : DWord) : Prop :=
  match d with
  | .reg c n => (Machine.codes c n).map new.reg = wordsOf n val
  | .pred _ _ => ∀ l ∈ lanesOf lanes, d.inLane (old.lane l) (new.lane l) val

/-- What a destination of set scope holds for one lane (R133). -/
def Dst.inSet (d : Dst) (st : SetB) (pos l : Nat) (old new : Lane) (val : DWord) : Prop :=
  match d with
  | .reg c n => (Machine.codes c n).map (fun i => st.elem i pos l) = (wordsOf n val).map fun w => (⟨w, true, false⟩ : Elem)
  | .pred _ _ => d.inLane old new val

/-- The results of an instruction on registers, at each scope; at set scope MZ zeroes the elements of the lanes outside
NEEDED, which else keep theirs (R117, R129, R133, R186). -/
def RegInstr.results (r : RegInstr) (x : Ex) (t : State) : Prop :=
  let b := x.is.blk
  match r.sc with
  | 0 => ∀ l ∈ lanesOf x.is.lanes,
      (t.lane b x.is.warp l).pc = (x.w.lane l).pc + 4 ∧ (t.lane b x.is.warp l).run = [] ∧
      ((x.w.lane l).guard r.gn r.gp = true →
        r.dst.inLane (x.w.lane l) (t.lane b x.is.warp l) (r.val x (x.w.lane l).view x.w.view))
  | 1 => ∀ s y, x.completes (.warp x.is.warp) x.pf.modOf.k.toNat s y → x.past y t ∧
      let n := (x.b.needed y).getD x.is.warp 0
      ((x.w.lane (lowest n)).guard r.gn r.gp = true →
        r.dst.inWarp x.w (t.warp b x.is.warp) n (r.val x x.w.view x.w.view))
  | 2 => ∀ i s y, x.unit 2 = some (.set i) → x.completes (.set i) x.pf.modOf.k.toNat s y → x.past y t ∧
      ∀ p ∈ Inst.lanes (x.b.needed y), ((x.b.warp p.1).lane p.2).guard r.gn r.gp = true →
        r.dst.inSet ((t.blk b).set i) ((x.b.set i).pos p.1) p.2 ((x.b.warp p.1).lane p.2) (t.lane b p.1 p.2)
          (r.val x ((x.b.set i).view ((x.b.set i).pos p.1) p.2 ((x.b.warp p.1).lane p.2)) (x.b.warp p.1).view) ∧
      ∀ p ∈ x.b.others i (x.b.needed y), ∀ c ∈ r.dst.codes, ((t.blk b).set i).elem c ((x.b.set i).pos p.1) p.2 =
        if x.pf.modOf.mz then ⟨0, true, false⟩ else (x.b.set i).elem c ((x.b.set i).pos p.1) p.2
  | _ => ∀ s y, x.completes .block x.pf.modOf.k.toNat s y → x.past y t ∧
      let w := x.b.warp x.b.firstLive
      ((w.lane (lowest w.live)).guard r.gn r.gp = true →
        ∀ i < x.b.warps.length, (x.b.warp i).live ≠ 0 →
          r.dst.inWarp (x.b.warp i) (t.warp b i) (x.b.warp i).live (r.val x w.view w.view))

/-- Where its conditions hold, the instruction answers a next state with its results. -/
def RegInstr.performs (r : RegInstr) : Prop :=
  ∀ s is, s.formed → s.selects is → r.ready (Ex.of s is) →
    ∃ t, exec r.instr s = .next t ∧ r.results (Ex.of s is) t

/-- Whether a destination covers a register code. -/
def Dst.covers (d : Dst) (n : Nat) : Bool := d.codes.contains n

/-- Whether a destination is a predicate. -/
def Dst.isPred (d : Dst) (p : Nat) : Bool := match d with | .reg _ _ => false | .pred pd _ => pd.toNat == p

/-- What an instruction on registers leaves as it was in its block: every register of the block but its destination,
masks, scratchpad and engines' state. -/
def RegInstr.keepsBlock (r : RegInstr) (x : Ex) (B : Block) : Prop :=
  B = { x.b with warps := B.warps, sets := B.sets, insts := B.insts, halt := B.halt } ∧
  (r.sc ≠ 2 → B.sets = x.b.sets) ∧
  (∀ i n, r.dst.covers n = false → (B.set i).g.getD n [] = (x.b.set i).g.getD n []) ∧
  ∀ w, (B.warp w).k = (x.b.warp w).k ∧ (B.warp w).live = (x.b.warp w).live ∧
    (∀ n, (r.sc = 0 ∨ r.sc = 2 ∨ r.dst.covers n = false ∨ (r.sc = 1 ∧ w ≠ x.is.warp)) →
      (B.warp w).reg n = (x.b.warp w).reg n) ∧
    ∀ l, (∀ n, (r.sc ≠ 0 ∨ r.dst.covers n = false ∨ w ≠ x.is.warp ∨ x.is.lanes.getLsbD l = false) →
        ((B.warp w).lane l).reg n = ((x.b.warp w).lane l).reg n ∧
        ((B.warp w).lane l).full n = ((x.b.warp w).lane l).full n) ∧
      ∀ p, r.dst.isPred p = false → ((B.warp w).lane l).preds.getLsbD p = ((x.b.warp w).lane l).preds.getLsbD p

/-- The frame of an instruction on registers that counts no events: everything outside its block is as it was, and in
its block all but its destination. -/
def RegInstr.keeps (r : RegInstr) : Prop :=
  ∀ s is t, s.selects is → exec r.instr s = .next t →
    t = { s with blocks := t.blocks, cur := none } ∧ (∀ b ≠ is.blk, t.blk b = s.blk b) ∧
      r.keepsBlock (Ex.of s is) (t.blk is.blk)

/-- Events are not reported by a threshold in the context of a block (R182). -/
def State.noThreshold (s : State) (b : Nat) : Prop :=
  ∀ n, ((s.ctx (s.launch (s.blk b).launch).rcd.ctx).thresh.getD n 0) = 0

/-- The frame of an instruction on registers that counts events: besides its block only the counters of its launch
change. -/
def RegInstr.keepsCounting (r : RegInstr) : Prop :=
  ∀ s is t, s.selects is → s.noThreshold is.blk → exec r.instr s = .next t →
    t = { s with blocks := t.blocks, launches := t.launches, cur := none } ∧ (∀ b ≠ is.blk, t.blk b = s.blk b) ∧
      (∀ l, t.launch l = { s.launch l with fpx := (t.launch l).fpx, fpxHit := (t.launch l).fpxHit }) ∧
      (∀ l ≠ (s.blk is.blk).launch, t.launch l = s.launch l) ∧ r.keepsBlock (Ex.of s is) (t.blk is.blk)

/-! ### The shapes of instructions on registers -/

/-- D from A and B (R186). -/
def RegInstr.binary (c : FormA → Instr) (acc : Acc) (fn : Ex → Word → Word → Word) (f : FormA) : RegInstr :=
  let sc := f.sc.toNat
  { instr := c f, sc := sc, acc := { acc with ub := true }.scoped sc (sc == 2),
    ops := fun x => [⟨scopeClass sc, f.d.toNat, 1, false⟩, ⟨scopeClass sc, f.a.toNat, 1, f.ta⟩, x.opdB sc f.b f.tb],
    srcs := fun x => [⟨f.a.toNat, 1, f.ta, .own⟩, x.srcB f.b f.tb],
    dst := .reg f.d.toNat 1,
    val := fun x v wv => (fn x (v.val f.a.toNat) ((if x.pf.modOf.ub then wv else v).val f.b.toNat)).setWidth 64 }

/-- D from A (R186). -/
def RegInstr.unary (c : FormA1 → Instr) (acc : Acc) (fn : Ex → Word → Word) (f : FormA1) : RegInstr :=
  let sc := f.sc.toNat
  { instr := c f, sc := sc, acc := acc.scoped sc (sc == 2),
    ops := fun _ => [⟨scopeClass sc, f.d.toNat, 1, false⟩, ⟨scopeClass sc, f.a.toNat, 1, f.ta⟩],
    srcs := fun _ => [⟨f.a.toNat, 1, f.ta, .own⟩],
    dst := .reg f.d.toNat 1, val := fun x v _ => (fn x (v.val f.a.toNat)).setWidth 64 }

/-- The registers of a pair, or of one register, as a value (R93). -/
def View.wide (v : View) (c n : Nat) : DWord := if n = 1 then (v.val c).setWidth 64 else Machine.pair (v.val c) (v.val (c + 1))

/-- D from A, B and C, with D and C of `n` registers (R104, R189). -/
def RegInstr.ternary (c : FormA → Instr) (acc : Acc) (n : Nat) (fn : Ex → Word → Word → DWord → DWord) (f : FormA) :
    RegInstr :=
  let sc := f.sc.toNat
  { instr := c f, sc := sc, acc := { acc with ub := true, c := true, tc := true }.scoped sc (sc == 2),
    ops := fun x => [⟨scopeClass sc, f.d.toNat, n, false⟩, ⟨scopeClass sc, f.a.toNat, 1, f.ta⟩, x.opdB sc f.b f.tb,
      ⟨scopeClass sc, x.pf.c f.d, n, x.pf.modOf.tc⟩],
    srcs := fun x => [⟨f.a.toNat, 1, f.ta, .own⟩, x.srcB f.b f.tb, ⟨x.pf.c f.d, n, x.pf.modOf.tc, .own⟩],
    dst := .reg f.d.toNat n,
    val := fun x v wv =>
      fn x (v.val f.a.toNat) ((if x.pf.modOf.ub then wv else v).val f.b.toNat) (v.wide (x.pf.c f.d) n) }

/-- D from A and an immediate of `w` bits, `used` more from an IMM prefix (R103, R190); a `used` of 0 takes no
prefix. -/
def RegInstr.immediate (i : Instr) (sc : BitVec 2) (d a : BitVec 6) (ta : Bool) (used : Nat)
    (fn : Ex → Word → Word) : RegInstr :=
  let sc := sc.toNat
  { instr := i, sc := sc, acc := ({ imm := if used = 0 then none else some used : Acc }).scoped sc (sc == 2),
    ops := fun _ => [⟨scopeClass sc, d.toNat, 1, false⟩, ⟨scopeClass sc, a.toNat, 1, ta⟩],
    srcs := fun _ => [⟨a.toNat, 1, ta, .own⟩],
    dst := .reg d.toNat 1, val := fun x v _ => (fn x (v.val a.toNat)).setWidth 64 }

/-- PD from a condition of A and B (R91, R191). -/
def RegInstr.compare (c : FormC → Instr) (cond : Word → Word → Bool) (f : FormC) : RegInstr :=
  let sc := f.sc.toNat
  { instr := c f, sc := sc, acc := ({ ub := true : Acc }).scoped sc false,
    ops := fun x => [⟨.pd, f.pd.toNat, 1, false⟩, ⟨scopeClass sc, f.a.toNat, 1, f.ta⟩, x.opdB sc f.b f.tb],
    srcs := fun x => [⟨f.a.toNat, 1, f.ta, .own⟩, x.srcB f.b f.tb],
    dst := .pred f.pd f.cb,
    val := fun x v wv => if cond (v.val f.a.toNat) ((if x.pf.modOf.ub then wv else v).val f.b.toNat) then 1 else 0 }

/-- PD from a condition of A and an immediate (R103, R191). -/
def RegInstr.compareImm (c : FormCI → Instr) (cond : Word → Word → Bool) (f : FormCI) : RegInstr :=
  let sc := f.sc.toNat
  { instr := c f, sc := sc, acc := ({ imm := some 22 : Acc }).scoped sc false,
    ops := fun _ => [⟨.pd, f.pd.toNat, 1, false⟩, ⟨scopeClass sc, f.a.toNat, 1, f.ta⟩],
    srcs := fun _ => [⟨f.a.toNat, 1, f.ta, .own⟩],
    dst := .pred f.pd f.cb,
    val := fun x v _ => if cond (v.val f.a.toNat) (immOf x.pf f.imm.toNat 8 22 true) then 1 else 0 }

end Sys2Proof.Machine
end

