-- ==== Sys2Proof/Certificates/Slice0/Obligations.lean ====
section
/-! DEFINITION. The statements for the provers: on decoding and the step, on states, on instructions family by family
in the order of the opcode table, and on the steps of the device. -/

namespace Sys2Proof.Machine

/-! ### Instructions on registers -/

/-- The ILLEGAL_OP of a group: its block is halted with every lane of the group at fault, and nothing else changes
(R113, R404). -/
def State.illegalOf (s : State) (is : Issue) : State := { (Ex.of s is).trap .illegalOp is.lanes with cur := none }

/-- What a group does at a scope is a trap with ILLEGAL_OP and no other effect: of the group itself at lane scope, at a
wider one of the participants, of the mask that the word or else MOD names, once all have arrived (R113, R411). -/
def State.raisesIllegal (q : State) (is : Issue) (sc : Nat) (does : Host.Outcome State Fault Refusal)
    (own : Option Nat := none) : Prop :=
  let x := Ex.of q is
  let code := own.getD x.pf.modOf.k.toNat
  let k := if code ≤ 11 then code else 15
  if sc = 0 then does = .next (q.illegalOf is)
  else ∀ u s1 y, is.blk < q.blocks.length → x.unit sc = some u → x.outsiders u k = 0 →
    x.completes u k s1 y → is.warp < x.b.warps.length → (x.b.needed y).getD is.warp 0 ≠ 0 → x.b.halt = none →
    ∃ t h, does = .next t ∧ (t.blk is.blk).halt = some h ∧ h.trap.cause = .illegalOp ∧
      h.trap.faultLanes = (x.b.needed y).getD h.trap.warp 0 ∧
      ∀ v l, (t.lane is.blk v l).pc = (x.b.warp v |>.lane l).pc

/-- A group whose fetch reads a word traps with ILLEGAL_OP at the scope of the word, with the mask that a word of form L
names (R113, R124). -/
def wordIllegal (w : Word) : Prop :=
  ∀ (s s' : State) is e pa, (s.selected is).laneAccess is.blk is.pc 4 .fetch
      (((s.selected is).lane is.blk is.warp (lowest is.lanes)).watchSkip.getLsbD 1) = (s', .ok e pa) →
    s'.cur = some is → s'.codeOf is pa = w →
    (s'.fetched is pa).raisesIllegal is (if bits w 26 6 = 0 then 0 else (bits w 24 2).toNat) (s.perform (.issue is))
      (if bits w 26 6 ∈ [0x12#6, 0x13#6, 0x14#6] then some (bits w 2 4).toNat else none)

/-- IARITH and its results (R187). -/
def iarith : List ((FormA → Instr) × (Word → Word → Word)) :=
  [(.iadd, fun a b => a + b), (.isub, fun a b => a - b), (.imul, fun a b => a * b),
   (.imulhS, fun a b => BitVec.ofInt 32 (a.toInt * b.toInt / 2 ^ 32)),
   (.imulhN, fun a b => BitVec.ofNat 32 (a.toNat * b.toNat / 2 ^ 32)),
   (.iminS, fun a b => if a.toInt ≤ b.toInt then a else b), (.iminN, fun a b => if a.toNat ≤ b.toNat then a else b),
   (.imaxS, fun a b => if a.toInt ≤ b.toInt then b else a), (.imaxN, fun a b => if a.toNat ≤ b.toNat then b else a),
   (.iabsd, fun a b => BitVec.ofInt 32 (if a.toInt ≤ b.toInt then b.toInt - a.toInt else a.toInt - b.toInt)),
   (.iaddsS, fun a b => BitVec.ofInt 32 (max (-(2 ^ 31)) (min (2 ^ 31 - 1) (a.toInt + b.toInt)))),
   (.isubsS, fun a b => BitVec.ofInt 32 (max (-(2 ^ 31)) (min (2 ^ 31 - 1) (a.toInt - b.toInt))))]

/-- The binary instructions of LOGIC and their results, the shift count n being b[7:0] (R188). -/
def logicBinary : List ((FormA → Instr) × (Word → Word → Word)) :=
  [(.andB, fun a b => a &&& b), (.orB, fun a b => a ||| b), (.xorB, fun a b => a ^^^ b), (.andn, fun a b => a &&& ~~~b),
   (.orn, fun a b => a ||| ~~~b),
   (.shl, fun a b => BitVec.ofNat 32 (a.toNat * 2 ^ (b.toNat % 256))),
   (.shr, fun a b => BitVec.ofNat 32 (a.toNat / 2 ^ (b.toNat % 256))),
   (.sar, fun a b => BitVec.ofInt 32 (a.toInt / 2 ^ (b.toNat % 256))),
   (.rotl, fun a b => (a <<< (b.toNat % 32)) ||| (a >>> (32 - b.toNat % 32))),
   (.rotr, fun a b => (a >>> (b.toNat % 32)) ||| (a <<< (32 - b.toNat % 32))),
   (.bfxN, fun a b =>
      let s := b.toNat % 32
      let n := min (b.toNat / 256 % 64) (32 - s)
      BitVec.ofNat 32 (a.toNat / 2 ^ s % 2 ^ n)),
   (.bfxS, fun a b =>
      let s := b.toNat % 32
      let n := min (b.toNat / 256 % 64) (32 - s)
      let x := a.toNat / 2 ^ s % 2 ^ n
      BitVec.ofInt 32 (if 2 * x < 2 ^ n then (x : Int) else x - 2 ^ n))]

/-- The unary instructions of LOGIC and their results (R188). -/
def logicUnary : List ((FormA1 → Instr) × (Word → Word)) :=
  [(.popc, fun a => BitVec.ofNat 32 (((List.range 32).filter fun i => a.getLsbD i).length)),
   (.clz, fun a => BitVec.ofNat 32 (((List.range 32).takeWhile fun i => !a.getLsbD (31 - i)).length)),
   (.brev, fun a => a.reverse)]

/-- BFI, which reads D as a source without a trap bit (R188). -/
def bfiInstr (f : FormA) : RegInstr :=
  let base := RegInstr.binary .bfi {} (fun _ a _ => a) f
  { base with
    srcs := fun x => base.srcs x ++ [⟨f.d.toNat, 1, false, .own⟩],
    val := fun x v wv =>
      let b := (if x.pf.modOf.ub then wv else v).val f.b.toNat
      let s := b.toNat % 32
      let n := min (b.toNat / 256 % 64) (32 - s)
      let bitOf (i : Nat) : Bool :=
        if s ≤ i ∧ i < s + n then (v.val f.a.toNat).getLsbD (i - s) else (v.val f.d.toNat).getLsbD i
      (maskOf bitOf).setWidth 64 }

/-- Elements of `w` bits of a register, signed or unsigned. -/
def elements (w : Nat) (sg : Bool) (x : Word) : List Int :=
  (List.range (32 / w)).map fun i =>
    let e := x.toNat / 2 ^ (w * i) % 2 ^ w
    if sg ∧ 2 ^ w ≤ 2 * e then (e : Int) - 2 ^ w else e

/-- The sum of the products of elements. -/
def dotOf (w : Nat) (sg : Bool) (a b : Word) : Int := (List.zipWith (· * ·) (elements w sg a) (elements w sg b)).sum

/-- IMAD, its C and D of one register, or of a pair (R189). -/
def imadOps : List ((FormA → Instr) × Nat × (Word → Word → DWord → DWord)) :=
  let one (fn : Word → Word → Word → Word) (a b : Word) (c : DWord) : DWord := (fn a b (c.setWidth 32)).setWidth 64
  [(.imad, 1, one fun a b c => a * b + c),
   (.imadhS, 1, one fun a b c => BitVec.ofInt 32 (a.toInt * b.toInt / 2 ^ 32) + c),
   (.imadhN, 1, one fun a b c => BitVec.ofNat 32 (a.toNat * b.toNat / 2 ^ 32) + c),
   (.imadwS, 2, fun a b c => BitVec.ofInt 64 (a.toInt * b.toInt) + c),
   (.imadwN, 2, fun a b c => BitVec.ofNat 64 (a.toNat * b.toNat) + c),
   (.idot4S8, 1, one fun a b c => c + BitVec.ofInt 32 (dotOf 8 true a b)),
   (.idot4N8, 1, one fun a b c => c + BitVec.ofInt 32 (dotOf 8 false a b)),
   (.idot8S4, 1, one fun a b c => c + BitVec.ofInt 32 (dotOf 4 true a b)),
   (.idot8N4, 1, one fun a b c => c + BitVec.ofInt 32 (dotOf 4 false a b))]

/-- IOPI on a shift count (R190). -/
def shiftImms : List ((FormSh → Instr) × (Word → Nat → Word)) :=
  [(.shli, fun a n => a <<< n), (.shri, fun a n => a >>> n), (.sari, fun a n => a.sshiftRight n),
   (.rotli, fun a n => (a <<< n) ||| (a >>> (32 - n)))]

/-- IOPI on an immediate, with whether it is sign-extended (R190). -/
def opImms : List ((FormS → Instr) × Bool × (Word → Word → Word)) :=
  [(.andi, false, fun a i => a &&& i), (.ori, false, fun a i => a ||| i), (.xori, false, fun a i => a ^^^ i),
   (.imuli, true, fun a i => a * i)]

/-- MOVI (R190). -/
def moviInstr (f : FormV) : RegInstr :=
  let base := RegInstr.immediate (.movi f) f.sc f.d 0 false 14 (fun x _ => immOf x.pf f.imm.toNat 18 14 true)
  { base with ops := fun _ => [⟨scopeClass f.sc.toNat, f.d.toNat, 1, false⟩], srcs := fun _ => [] }

/-- The conditions of ICMP and ICMPI (R191). -/
def icmps : List ((FormC → Instr) × (FormCI → Instr) × (Word → Word → Bool)) :=
  [(.icmpEq, .icmpiEq, fun a b => a == b), (.icmpNe, .icmpiNe, fun a b => a != b),
   (.icmpLtS, .icmpiLtS, fun a b => a.toInt < b.toInt), (.icmpLeS, .icmpiLeS, fun a b => a.toInt ≤ b.toInt),
   (.icmpGtS, .icmpiGtS, fun a b => b.toInt < a.toInt), (.icmpGeS, .icmpiGeS, fun a b => b.toInt ≤ a.toInt),
   (.icmpLtN, .icmpiLtN, fun a b => a.toNat < b.toNat), (.icmpLeN, .icmpiLeN, fun a b => a.toNat ≤ b.toNat),
   (.icmpGtN, .icmpiGtN, fun a b => b.toNat < a.toNat), (.icmpGeN, .icmpiGeN, fun a b => b.toNat ≤ a.toNat),
   (.icmpTstz, .icmpiTstz, fun a b => a &&& b == 0), (.icmpTstnz, .icmpiTstnz, fun a b => a &&& b != 0)]

/-- The conditions of FCMP on the values of FP32 codes, whose order is none where either is NaN (R198). -/
def fcmps : List ((FormC → Instr) × (Option Ordering → Bool)) :=
  [(.fcmpEq, fun o => o == some .eq), (.fcmpNe, fun o => o != some .eq), (.fcmpLt, fun o => o == some .lt),
   (.fcmpLe, fun o => o == some .lt || o == some .eq), (.fcmpGt, fun o => o == some .gt),
   (.fcmpGe, fun o => o == some .gt || o == some .eq), (.fcmpUn, fun o => o == none), (.fcmpNum, fun o => o != none)]

/-- SEL (R192). -/
def selInstr (f : FormG) : RegInstr :=
  let base := RegInstr.binary (fun _ => .sel f) {} (fun _ a _ => a) ⟨f.sc, f.d, f.a, f.b, f.ta, f.tb⟩
  { base with
    gn := f.gn, gp := f.gp, srcs := fun x => base.srcs x ++ [⟨f.d.toNat, 1, false, .own⟩],
    val := fun x v wv =>
      let b := (if x.pf.modOf.ub then wv else v).val f.b.toNat
      ((v.val f.a.toNat &&& b) ||| (v.val f.d.toNat &&& ~~~b)).setWidth 64 }

/-- Byte or nibble `i` of `w` bits of b:a. -/
def pieceOf (w i : Nat) (a b : Word) : Nat := (b.toNat * 2 ^ 32 + a.toNat) / 2 ^ (w * i) % 2 ^ w

/-- A word of pieces of `w` bits, the lowest first. -/
def wordOfPieces (w : Nat) (ps : List Nat) : Word := BitVec.ofNat 32 (ps.foldr (fun p t => p + 2 ^ w * t) 0)

/-- PRMB and PRMN (R193). -/
def permutes : List ((FormA → Instr) × (Word → Word → Word → Word)) :=
  [(.prmb, fun a b c => wordOfPieces 8 ((List.range 4).map fun i =>
      let k := c.toNat / 2 ^ (4 * i) % 16
      let x := pieceOf 8 (k % 8) a b
      if k < 8 then x else if x < 128 then 0 else 255)),
   (.prmn, fun a b c => wordOfPieces 4 ((List.range 8).map fun i => pieceOf 4 (c.toNat / 2 ^ (4 * i) % 16) a b))]

/-- PRMN.SX and PRMN.ZX (R193). -/
def spreads : List ((FormA → Instr) × (Word → Word → Word)) :=
  let nib (a b : Word) (i : Nat) : Nat := pieceOf 4 (b.toNat / 2 ^ (4 * i) % 8) a 0
  [(.prmnSx, fun a b => wordOfPieces 16 ((List.range 2).map fun i =>
      if nib a b i < 8 then nib a b i else nib a b i + 0xFFF0)),
   (.prmnZx, fun a b => wordOfPieces 16 ((List.range 2).map fun i => nib a b i))]

/-- PACK2 (R193). -/
def pack2Instr (f : FormA) : RegInstr :=
  RegInstr.binary .pack2 { hi := true } (fun x a b =>
    let h := if x.pf.modOf.hi then 1 else 0
    wordOfPieces 16 [pieceOf 16 h a 0, pieceOf 16 h b 0]) f

end Sys2Proof.Machine

open Sys2Proof Sys2Proof.Machine

/-- IARITH at every scope: D is the result of R187, and a function code from 12 to 15 raises ILLEGAL_OP. LOGIC at every
scope (R188). IMAD at every scope, and a function code from 9 to 15 raises ILLEGAL_OP (R189). IADDI, IOPI and MOVI at
every scope (R190). -/
def Obligations.IntegerResults : Prop :=
  ((∀ p ∈ iarith, ∀ f, (RegInstr.binary p.1 {} (fun _ => p.2) f).performs) ∧
  ∀ w : Word, bits w 26 6 = 1 → 12 ≤ (bits w 0 4).toNat → wordIllegal w) ∧
  ((∀ p ∈ logicBinary, ∀ f, (RegInstr.binary p.1 {} (fun _ => p.2) f).performs) ∧
  (∀ p ∈ logicUnary, ∀ f, (RegInstr.unary p.1 {} (fun _ => p.2) f).performs) ∧ ∀ f, (bfiInstr f).performs) ∧
  ((∀ p ∈ imadOps, ∀ f, (RegInstr.ternary p.1 {} p.2.1 (fun _ => p.2.2) f).performs) ∧
  ∀ w : Word, bits w 26 6 = 3 → 9 ≤ (bits w 0 4).toNat → wordIllegal w) ∧
  ((∀ f : FormI, (RegInstr.immediate (.iaddi f) f.sc f.d f.a f.ta 21
    fun x a => a + immOf x.pf f.imm.toNat 11 21 true).performs) ∧
  (∀ p ∈ shiftImms, ∀ f : FormSh, (RegInstr.immediate (p.1 f) f.sc f.d f.a f.ta 0
    fun _ a => p.2 a f.imm.toNat).performs) ∧
  (∀ p ∈ opImms, ∀ f : FormS, (RegInstr.immediate (p.1 f) f.sc f.d f.a f.ta 22
    fun x a => p.2.2 a (immOf x.pf f.imm.toNat 8 22 p.2.1)).performs) ∧
  ∀ f, (moviInstr f).performs)

/-- ICMP, ICMPI and FCMP at every scope (R91, R191, R198). SEL and PRM at every scope (R192, R193). -/
def Obligations.CompareSelectResults : Prop :=
  ((∀ p ∈ icmps, (∀ f, (RegInstr.compare p.1 p.2.2 f).performs) ∧ ∀ f, (RegInstr.compareImm p.2.1 p.2.2 f).performs) ∧
  ∀ p ∈ fcmps, ∀ f, (RegInstr.compare p.1 (fun a b => p.2 ((f32 a).cmp (f32 b))) f).performs) ∧
  ((∀ f, (selInstr f).performs) ∧
  (∀ p ∈ permutes, ∀ f, (RegInstr.ternary p.1 {} 1 (fun _ a b c => (p.2 a b (c.setWidth 32)).setWidth 64) f).performs) ∧
  (∀ p ∈ spreads, ∀ f, (RegInstr.binary p.1 {} (fun _ => p.2) f).performs) ∧ ∀ f, (pack2Instr f).performs)

namespace Sys2Proof.Machine

/-! ### Floating point -/

/-- A value rounded to FP32 (R171). -/
def round32 (rm : Nat) (v : Val) : Word := BitVec.ofNat 32 (roundTo v 0 rm false false false).1

/-- A value rounded to a 16-bit format (R171). -/
def round16 (c rm : Nat) (v : Val) : Nat := (roundTo v c rm false false false).1

/-- The values of the halves of a register in a format of 16 bits. -/
def halfVal (c i : Nat) (x : Word) : Val := valueOf c (x.toNat / 2 ^ (16 * i) % 2 ^ 16)

/-- Two halves as a word. -/
def ofHalves (h : Nat → Nat) : Word := BitVec.ofNat 32 (h 0 + 2 ^ 16 * h 1)

/-- The smaller or larger of two codes, with -0 below +0; NaN by `nm` (R195). -/
def pick (c : Nat) (big nm : Bool) (a b : Nat) : Nat :=
  let x := valueOf c a
  let y := valueOf c b
  if x.isNan ∧ y.isNan ∨ nm = false ∧ (x.isNan ∨ y.isNan) then (roundTo .nan c 1 false true false).1
  else if x.isNan then b else if y.isNan then a
  else if big then (if y.ltSigned x then a else b) else if x.ltSigned y then a else b

/-- The binary instructions of FARITH under a rounding mode (R195). -/
def farithBinary : List ((FormA → Instr) × (Nat → Word → Word → Word)) :=
  let big32 (big nm : Bool) (_ : Nat) (a b : Word) : Word := BitVec.ofNat 32 (pick 0 big nm a.toNat b.toNat)
  [(.fadd, fun rm a b => round32 rm (Val.add (rm == 3) (f32 a) (f32 b))),
   (.fsub, fun rm a b => round32 rm (Val.add (rm == 3) (f32 a) (f32 b).flip)),
   (.fmul, fun rm a b => round32 rm ((f32 a).mul (f32 b))), (.fmin, big32 false false), (.fmax, big32 true false),
   (.fminnm, big32 false true), (.fmaxnm, big32 true true),
   (.fcpys, fun _ a b => if (f32 a).isNan then nan32 else (a &&& 0x7FFFFFFF) ||| (b &&& 0x80000000)),
   (.fscale, fun rm a b => round32 rm ((f32 a).mul (.fin false 1 1 (max (-600) (min 600 b.toInt)))))]

/-- The class of a value as the one bit of FCLASS (R195). -/
def classBit (a : Word) : Nat :=
  let v := f32 a
  if v.isNan then 8 else if v.isInf then (if v.neg then 0 else 7) else if v.isZero then (if v.neg then 3 else 4)
  else if a &&& 0x7F800000 = 0 then (if v.neg then 2 else 5) else if v.neg then 1 else 6

/-- The unary instructions of FARITH (R195). -/
def farithUnary : List ((FormA1 → Instr) × (Nat → Word → Word)) :=
  [(.fabs, fun _ a => if (f32 a).isNan then nan32 else a &&& 0x7FFFFFFF),
   (.fneg, fun _ a => if (f32 a).isNan then nan32 else a ^^^ 0x80000000),
   (.frint, fun rm a => round32 1 ((f32 a).toIntegral rm)), (.fclass, fun _ a => BitVec.ofNat 32 (2 ^ classBit a))]

/-- FFMA: each result from the exact product and sum, rounded once (R196). -/
def ffmas : List ((FormA → Instr) × (Nat → Word → Word → Word → Word)) :=
  let sum (rm : Nat) (x y : Val) : Val := Val.add (rm == 3) x y
  let pairs (c : Nat) (rm : Nat) (a b d : Word) : Word :=
    ofHalves fun i => round16 c rm (sum rm ((halfVal c i a).mul (halfVal c i b)) (halfVal c i d))
  let dots (c : Nat) (rm : Nat) (a b d : Word) : Word :=
    round32 rm (sum rm (sum rm ((halfVal c 0 a).mul (halfVal c 0 b)) ((halfVal c 1 a).mul (halfVal c 1 b))) (f32 d))
  [(.ffma, fun rm a b c => round32 rm (sum rm ((f32 a).mul (f32 b)) (f32 c))),
   (.ffms, fun rm a b c => round32 rm (sum rm ((f32 a).mul (f32 b)) (f32 c).flip)),
   (.ffnma, fun rm a b c => round32 rm (sum rm ((f32 a).mul (f32 b)).flip (f32 c).flip)),
   (.ffnms, fun rm a b c => round32 rm (sum rm ((f32 a).mul (f32 b)).flip (f32 c))),
   (.hfma2, pairs 2), (.bfma2, pairs 3), (.hdot2, dots 2), (.bdot2, dots 3)]

/-- FPACK (R197). -/
def fpacks : List ((FormA → Instr) × (Nat → Word → Word → Word)) :=
  let both (c : Nat) (op : Nat → Val → Val → Val) (rm : Nat) (a b : Word) : Word :=
    ofHalves fun i => round16 c rm (op rm (halfVal c i a) (halfVal c i b))
  let picks (c : Nat) (big : Bool) (_ : Nat) (a b : Word) : Word :=
    ofHalves fun i => pick c big false (a.toNat / 2 ^ (16 * i) % 2 ^ 16) (b.toNat / 2 ^ (16 * i) % 2 ^ 16)
  [(.hadd2, both 2 fun rm => Val.add (rm == 3)), (.hmul2, both 2 fun _ => Val.mul), (.hmin2, picks 2 false),
   (.hmax2, picks 2 true), (.badd2, both 3 fun rm => Val.add (rm == 3)), (.bmul2, both 3 fun _ => Val.mul),
   (.bmin2, picks 3 false), (.bmax2, picks 3 true)]

/-- CONV: one element, or two in pair mode (R172, R173, R194). -/
def convInstr (f : FormZ) : RegInstr :=
  let sc := f.sc.toNat
  let sf := f.sf.toNat
  let df := f.df.toNat
  let na := if sf = 24 then 2 else 1
  let nd := if df = 24 then 2 else 1
  { instr := .conv f, sc := sc, acc := ({ rm := true, hi := true : Acc }).scoped sc (sc == 2),
    ops := fun _ => [⟨scopeClass sc, f.d.toNat, nd, false⟩, ⟨scopeClass sc, f.a.toNat, na, f.ta⟩],
    extra := fun x => convOk sf df x.pf.modOf.hi, srcs := fun _ => [⟨f.a.toNat, na, f.ta, .own⟩], dst := .reg f.d.toNat nd,
    val := fun x v _ =>
      let a := (v.wide f.a.toNat na).toNat
      let el (i : Nat) : Nat := (convElem sf df f.sat x.rm (a / 2 ^ (fmtWidth sf * i) % 2 ^ fmtWidth sf)).1
      if x.pf.modOf.hi then BitVec.ofNat 64 (el 0 + el 1 * 2 ^ fmtWidth df)
      else
        let r := (convElem sf df f.sat x.rm a).1
        if df = 24 then BitVec.ofNat 64 r else (placeElem df r).setWidth 64 }

/-- The codes of FP32 that the tables of R199 name. -/
def posInf : Word := 0x7F800000
def negInf : Word := 0xFF800000
def one32 : Word := 0x3F800000
def negOne32 : Word := 0xBF800000

/-- A NaN operand gives the canonical NaN (R199). -/
def nanRule (g : Word → Word) : Prop := ∀ a, (f32 a).isNan = true → g a = nan32

/-- A finite negative operand that is not zero, or -INF, gives NaN (R199). -/
def negRule (g : Word → Word) : Prop := ∀ a, (f32 a).neg = true → (f32 a).isNan = false → (f32 a).isZero = false → g a = nan32

/-- Whether a result lies within a number of units in the last place of a value, or is that value rounded (R199). -/
def inUlps (ulps : Nat) (exact : Val) (r : Word) : Prop :=
  r = round32 1 exact ∨
    (f32 r).near exact ((ulpOf ⟨32, 8, 127, 23, true, true, 0⟩ r.toNat).mul (.fin false ulps 1 0)) = true

/-- Whether a result lies within 2^-22 of a value, or is that value rounded (R199). -/
def inAbs (exact : Val) (r : Word) : Prop :=
  r = round32 1 exact ∨ (f32 r).near exact (.fin false 1 1 (-22)) = true

/-- A finite operand that is not an integer. -/
def fraction (a : Word) : Prop := (f32 a).isNan = false ∧ (f32 a).isInf = false ∧ (f32 a).int? = none

/-- The logarithm of n × 2^e to 150 binary places (assumption 5). -/
def log2Of (n : Nat) (e : Int) : Val :=
  Val.add false (.dyadic (e + n.log2) 0) (.fin false (log2Digits 150 (n * fixOne / 2 ^ n.log2) 0) 1 (-150))

/-- An odd function's value from its value for the magnitude. -/
def oddly (a : Word) (x : Val) : Val := if (f32 a).neg then x.flip else x

/-- The bounds of R199 on the functions, about exact values of 200 fraction bits (assumption 5): RCP, RSQ and EXP2 in
units in the last place, LOG2 in both ways, SINP, COSP, TANH and SIGM within 2^-22. -/
def sfuBounds : Prop :=
  (∀ a, (f32 a).isNan = false → (f32 a).isInf = false → (f32 a).isZero = false →
    (let x := Val.div .one (f32 a); max32.lt x.abs = false → inUlps 1 x (sfuRcp a).1) ∧
    ((f32 a).neg = false → inUlps 2 (sqrtVal (Val.div .one (f32 a))) (sfuRsq a).1) ∧
    ((Val.fin false 91 10 0).le (f32 a).abs = false →
      let u := expNeg ((f32 a).abs.mul (.fin false 2 1 0))
      inAbs (oddly a (Val.div (Val.add false .one u.flip) (Val.add false .one u))) (sfuTanh a).1)) ∧
  (∀ a, (f32 a).isNan = false → (f32 a).isInf = false →
    let u := expNeg (f32 a).abs
    inAbs (Val.div (if (f32 a).neg then u else .one) (Val.add false .one u)) (sfuSigm a).1) ∧
  (∀ a, fraction a →
    ((f32 a).lt (.dyadic (-149) 0) = false → (f32 a).lt (.dyadic 128 0) = true →
      inUlps 2 (exp2Val (toFix (f32 a))) (sfuExp2 a).1) ∧
    inAbs (oddly a (sinTurn (modTwo (f32 a)))) (sfuSinp a).1 ∧
    inAbs (sinTurn ((modTwo (f32 a) + fixOne / 2) % (2 * fixOne))) (sfuCosp a).1) ∧
  ∀ a n d e, f32 a = .fin false n d e → n ≠ 0 → n ≠ 2 ^ n.log2 →
    if (f32 a).lt (.fin false 1 1 (-1)) = true ∨ (Val.fin false 2 1 0).lt (f32 a) = true
    then inUlps 2 (log2Of n e) (sfuLog2 a).1 else inAbs (log2Of n e) (sfuLog2 a).1

/-- The functions of R199 and the points that it fixes: special values and exact results. -/
def sfus : List ((FormA1 → Instr) × (Word → Word) × ((Word → Word) → Prop)) :=
  let num (k : Int) : Word := round32 1 (.dyadic k 0)
  let power (k : Int) : Word := round32 1 (.fin false 1 1 k)
  let whole (k : Int) : Prop := -(2 ^ 24) ≤ k ∧ k ≤ 2 ^ 24
  [(.rcp, fun a => (sfuRcp a).1, fun g =>
      nanRule g ∧ g 0 = posInf ∧ g 0x80000000 = negInf ∧ g posInf = 0 ∧ g negInf = 0x80000000),
   (.rsq, fun a => (sfuRsq a).1, fun g =>
      nanRule g ∧ negRule g ∧ g 0 = posInf ∧ g 0x80000000 = negInf ∧ g posInf = 0),
   (.sqrt, fun a => (sfuSqrt a).1, fun g =>
      nanRule g ∧ negRule g ∧ g 0 = 0 ∧ g 0x80000000 = 0x80000000 ∧ g posInf = posInf ∧
      ∀ k : Int, 0 < k → k ≤ 4096 → g (num (k * k)) = num k),
   (.exp2, fun a => (sfuExp2 a).1, fun g =>
      nanRule g ∧ g negInf = 0 ∧ g posInf = posInf ∧ (∀ a, (f32 a).lt (.dyadic (-149) 0) = true → g a = 0) ∧
      ∀ k : Int, -149 ≤ k → k ≤ 127 → g (num k) = power k),
   (.log2, fun a => (sfuLog2 a).1, fun g =>
      nanRule g ∧ negRule g ∧ g 0 = negInf ∧ g 0x80000000 = negInf ∧ ∀ k : Int, -149 ≤ k → k ≤ 127 → g (power k) = num k),
   (.sinp, fun a => (sfuSinp a).1, fun g =>
      nanRule g ∧ g posInf = nan32 ∧ g negInf = nan32 ∧ g 0x80000000 = 0x80000000 ∧
      ∀ k : Int, whole k → g (num k) = if k < 0 then 0x80000000 else 0),
   (.cosp, fun a => (sfuCosp a).1, fun g =>
      nanRule g ∧ g posInf = nan32 ∧ g negInf = nan32 ∧
      ∀ k : Int, whole k → g (num k) = if k % 2 = 0 then one32 else negOne32),
   (.tanh, fun a => (sfuTanh a).1, fun g =>
      nanRule g ∧ g 0 = 0 ∧ g 0x80000000 = 0x80000000 ∧
      ∀ a, (f32 a).isNan = false → (Val.fin false 91 10 0).le (f32 a).abs = true →
        g a = if (f32 a).neg then negOne32 else one32),
   (.sigm, fun a => (sfuSigm a).1, fun g => nanRule g ∧ g posInf = one32 ∧ g negInf = 0)]

/-- RNDH: the hash of R200. -/
def rndhOf (a b : Word) : Word :=
  let x := a ^^^ ((b <<< 7) ||| (b >>> 25))
  let x := x * 0x9E3779B1
  let x := x ^^^ (x >>> 15)
  let x := x + ((b <<< 19) ||| (b >>> 13))
  let x := x * 0x7FEB352D
  let x := x ^^^ (x >>> 15)
  let x := x * 0x846CA68B
  x ^^^ (x >>> 16)

/-- SMXS and SMXC on a state and, for SMXC, another (R201). -/
def smxInstr (c : FormA1 → Instr) (two : Bool) (val : Word → Word → Word → Option Word → DWord) (f : FormA1) : RegInstr :=
  let sc := f.sc.toNat
  let na := if two then 2 else 1
  { instr := c f, sc := sc, acc := ({} : Acc).scoped sc (sc == 2),
    ops := fun _ => [⟨scopeClass sc, f.d.toNat, 2, false⟩, ⟨scopeClass sc, f.a.toNat, na, f.ta⟩],
    extra := fun _ => !two || f.a != f.d,
    srcs := fun _ => [⟨f.a.toNat, na, f.ta, .own⟩, ⟨f.d.toNat, 2, false, .own⟩], dst := .reg f.d.toNat 2,
    val := fun _ v _ =>
      val (v.val f.d.toNat) (v.val (f.d.toNat + 1)) (v.val f.a.toNat) (if two then some (v.val (f.a.toNat + 1)) else none) }

/-- The state (m, s) merged with a score x, or with a state (x, t), as R201 has it, P2 being a mapping of values. -/
def smxOf (p2 : Val → Val) (m s x : Word) (t : Option Word) : DWord :=
  if (f32 m).isNan ∨ (f32 x).isNan ∨ f32 m = .inf false ∨ f32 x = .inf false then pair nan32 nan32
  else if f32 x = .inf true then pair m s
  else
    let big := if (f32 m).ltSigned (f32 x) then x else m
    let part (y : Word) : Val := p2 (Val.add false (f32 y) (f32 big).flip)
    let right := match t with | none => part x | some t => (f32 t).mul (part x)
    pair big (round32 1 (Val.add false ((f32 s).mul (part m)) right))

/-! ### Moves and addresses on registers -/

/-- BCASTW: a w register of the lane's own warp (R207). -/
def bcastwInstr (f : FormBc) : RegInstr :=
  let sc := if f.set then 2 else 0
  { instr := .bcastw f, sc := sc, acc := ({} : Acc).scoped sc true,
    ops := fun _ => [⟨scopeClass sc, f.d.toNat, 1, false⟩, ⟨.w, f.a.toNat, 1, false⟩], srcs := fun _ => [],
    dst := .reg f.d.toNat 1, val := fun _ _ wv => (wv.val f.a.toNat).setWidth 64 }

/-- PTOV: 1 where the predicate is true, else 0 (R207). -/
def ptovInstr (f : FormPv) : RegInstr :=
  let sc := if f.set then 2 else 0
  { instr := .ptov f, sc := sc, acc := ({} : Acc).scoped sc true,
    ops := fun _ => [⟨scopeClass sc, f.d.toNat, 1, false⟩], srcs := fun _ => [],
    dst := .reg f.d.toNat 1, val := fun _ v _ => if v.pred f.p.toNat then 1 else 0 }

/-- VTOP: the predicate becomes A ≠ 0 (R207). -/
def vtopInstr (f : FormVp) : RegInstr :=
  let sc := if f.set then 2 else 0
  { instr := .vtop f, sc := sc, acc := ({} : Acc).scoped sc false,
    ops := fun _ => [⟨.pd, f.pd.toNat, 1, false⟩, ⟨scopeClass sc, f.a.toNat, 1, f.ta⟩],
    srcs := fun _ => [⟨f.a.toNat, 1, f.ta, .own⟩],
    dst := .pred f.pd 0, val := fun _ v _ => if v.val f.a.toNat = 0 then 0 else 1 }

/-- LEA: A plus B shifted, B zero-extended or under SX sign-extended (R209). -/
def leaInstr (c : FormA → Instr) (sh : Nat) (f : FormA) : RegInstr :=
  let sc := f.sc.toNat
  { instr := c f, sc := sc, acc := ({ ub := true, sx := true : Acc }).scoped sc (sc == 2),
    ops := fun x => [⟨scopeClass sc, f.d.toNat, 2, false⟩, ⟨scopeClass sc, f.a.toNat, 2, f.ta⟩, x.opdB sc f.b f.tb],
    srcs := fun x => [⟨f.a.toNat, 2, f.ta, .own⟩, x.srcB f.b f.tb], dst := .reg f.d.toNat 2,
    val := fun x v wv =>
      let b := (if x.pf.modOf.ub then wv else v).val f.b.toNat
      v.wide f.a.toNat 2 + (if x.pf.modOf.sx then b.signExtend 64 else b.setWidth 64) <<< sh }

def leas : List ((FormA → Instr) × Nat) := [(.lea0, 0), (.lea1, 1), (.lea2, 2), (.lea3, 3), (.lea4, 4)]

/-- ADD64 and SUB64 (R209). -/
def pairInstr (c : FormA → Instr) (fn : DWord → DWord → DWord) (f : FormA) : RegInstr :=
  let sc := f.sc.toNat
  { instr := c f, sc := sc, acc := ({} : Acc).scoped sc (sc == 2),
    ops := fun _ => [⟨scopeClass sc, f.d.toNat, 2, false⟩, ⟨scopeClass sc, f.a.toNat, 2, f.ta⟩,
      ⟨scopeClass sc, f.b.toNat, 2, f.tb⟩],
    srcs := fun _ => [⟨f.a.toNat, 2, f.ta, .own⟩, ⟨f.b.toNat, 2, f.tb, .own⟩], dst := .reg f.d.toNat 2,
    val := fun _ v _ => fn (v.wide f.a.toNat 2) (v.wide f.b.toNat 2) }

/-- A counter of a launch after one more event (R180). -/
def counted1 (x : Word) : Word := if x = 0xFFFFFFFF then x else x + 1

/-- FADD, FSUB and FMUL on exact values, under a rounding mode (R195). -/
def exactArith : List ((FormA → Instr) × (Nat → Val → Val → Val)) :=
  [(.fadd, fun rm => Val.add (rm == 3)), (.fsub, fun rm a b => Val.add (rm == 3) a b.flip), (.fmul, fun _ => Val.mul)]

/-- What holds of every instruction on registers that counts no event (R186). -/
def EachInteger (P : RegInstr → Prop) : Prop :=
  (∀ p ∈ iarith, ∀ f, P (.binary p.1 {} (fun _ => p.2) f)) ∧ (∀ p ∈ logicBinary, ∀ f, P (.binary p.1 {} (fun _ => p.2) f)) ∧
  (∀ p ∈ logicUnary, ∀ f, P (.unary p.1 {} (fun _ => p.2) f)) ∧ (∀ f, P (bfiInstr f)) ∧
  (∀ p ∈ imadOps, ∀ f, P (.ternary p.1 {} p.2.1 (fun _ => p.2.2) f)) ∧
  (∀ f : FormI, P (.immediate (.iaddi f) f.sc f.d f.a f.ta 21 fun _ a => a)) ∧
  (∀ p ∈ shiftImms, ∀ f : FormSh, P (.immediate (p.1 f) f.sc f.d f.a f.ta 0 fun _ a => a)) ∧
  (∀ p ∈ opImms, ∀ f : FormS, P (.immediate (p.1 f) f.sc f.d f.a f.ta 22 fun _ a => a)) ∧ (∀ f, P (moviInstr f)) ∧
  (∀ p ∈ icmps, (∀ f, P (.compare p.1 p.2.2 f)) ∧ ∀ f, P (.compareImm p.2.1 p.2.2 f)) ∧
  (∀ p ∈ fcmps, ∀ f, P (.compare p.1 (fun _ _ => true) f)) ∧ (∀ f, P (selInstr f)) ∧
  (∀ p ∈ permutes, ∀ f, P (.ternary p.1 {} 1 (fun _ _ _ c => c) f)) ∧
  (∀ p ∈ spreads, ∀ f, P (.binary p.1 {} (fun _ => p.2) f)) ∧ (∀ f, P (pack2Instr f)) ∧
  (∀ f, P (.binary .rndh {} (fun _ => rndhOf) f)) ∧ (∀ f, P (.unary .movv {} (fun _ a => a) f)) ∧ (∀ f, P (bcastwInstr f)) ∧
  (∀ f, P (ptovInstr f)) ∧ (∀ f, P (vtopInstr f)) ∧ (∀ p ∈ leas, ∀ f, P (leaInstr p.1 p.2 f)) ∧
  (∀ f, P (pairInstr .add64 (· + ·) f)) ∧ ∀ f, P (pairInstr .sub64 (· - ·) f)

/-- What holds of every instruction on registers that may count events (R181, R186). -/
def EachFloat (P : RegInstr → Prop) : Prop :=
  (∀ f, P (convInstr f)) ∧ (∀ p ∈ farithBinary, ∀ f, P (.binary p.1 { rm := true } (fun x => p.2 x.rm) f)) ∧
  (∀ p ∈ farithUnary, ∀ f, P (.unary p.1 { rm := true } (fun x => p.2 x.rm) f)) ∧
  (∀ p ∈ ffmas, ∀ f, P (.ternary p.1 { rm := true } 1 (fun x a b c => (p.2 x.rm a b (c.setWidth 32)).setWidth 64) f)) ∧
  (∀ p ∈ fpacks, ∀ f, P (.binary p.1 { rm := true } (fun x => p.2 x.rm) f)) ∧
  (∀ p ∈ sfus, ∀ f, P (.unary p.1 {} (fun _ => p.2.1) f)) ∧ (∀ f, P (.binary .smxm {} (fun _ a _ => a) f)) ∧
  (∀ f, P (.binary .smxf {} (fun _ a _ => a) f)) ∧ (∀ f, P (smxInstr .smxs false (fun _ _ _ _ => 0) f)) ∧
  ∀ f, P (smxInstr .smxc true (fun _ _ _ _ => 0) f)

end Sys2Proof.Machine

open Sys2Proof Sys2Proof.Machine

/-- CONV at every scope (R172, R173, R194). FARITH, FFMA and FPACK at every scope (R195 to R197). -/
def Obligations.FloatResults : Prop :=
  (∀ f, (convInstr f).performs) ∧
  ((∀ p ∈ farithBinary, ∀ f, (RegInstr.binary p.1 { rm := true } (fun x => p.2 x.rm) f).performs) ∧
  (∀ p ∈ farithUnary, ∀ f, (RegInstr.unary p.1 { rm := true } (fun x => p.2 x.rm) f).performs) ∧
  (∀ p ∈ ffmas, ∀ f, (RegInstr.ternary p.1 { rm := true } 1
    (fun x a b c => (p.2 x.rm a b (c.setWidth 32)).setWidth 64) f).performs) ∧
  ∀ p ∈ fpacks, ∀ f, (RegInstr.binary p.1 { rm := true } (fun x => p.2 x.rm) f).performs)

/-- RNDH computes the hash of R200. -/
def Obligations.RndhResult : Prop :=
  ∀ f, (RegInstr.binary .rndh {} (fun _ => rndhOf) f).performs

/-- SFU at every scope: each function is a fixed mapping from the operand's bits to the result's, with the special
values, the exact results and the bounds of R199. SMX at every scope: SMXM is the larger; SMXF is P2 of the difference of
any two operands that are no NaN, 0 for -INF less anything and for an undefined difference; SMXS and SMXC merge states
under P2, which is exact at integers, 0 at -INF and within 1 ulp elsewhere (R201). That the exact values of the bounds are
those of 200 fraction bits is the model's choice (assumption 5). -/
def Obligations.ApproximateResults : Prop :=
  (sfuBounds ∧ ∀ p ∈ sfus, p.2.2 p.2.1 ∧ ∀ f, (RegInstr.unary p.1 {} (fun _ => p.2.1) f).performs) ∧
  (∀ f, (RegInstr.binary .smxm {} (fun _ a b => BitVec.ofNat 32 (pick 0 true false a.toNat b.toNat)) f).performs) ∧
  (let g (a b : Word) : Word := (smxFactor a b).1;
    (∀ a b, (f32 a).isNan = false → (f32 b).isNan = false →
      g a b = if f32 a = .inf true ∨ f32 a = .inf false ∧ f32 b = .inf false then 0
        else p2 (Val.add false (f32 a) (f32 b).flip)) ∧
    ∀ f, (RegInstr.binary .smxf {} (fun _ => g) f).performs) ∧
  (let power (d : Val) : Val := f32 (p2 d);
    power (.inf true) = .fin false 0 1 (-149) ∧
    (∀ k : Int, -149 ≤ k → k ≤ 127 → p2 (.dyadic k 0) = round32 1 (.fin false 1 1 k)) ∧
    (∀ sg n m e, let d : Val := .fin sg n m e
      d.lt (.dyadic (-2000) 0) = false → d.lt (.dyadic 128 0) = true → d.int? = none →
      inUlps 1 (exp2Val (toFix d)) (p2 d)) ∧
    (∀ f, (smxInstr .smxs false (smxOf power) f).performs) ∧ ∀ f, (smxInstr .smxc true (smxOf power) f).performs)

/-- MOVV, BCASTW, PTOV, VTOP, LEA, ADD64 and SUB64 (R207, R209). That LEA accepts a uniform base at lane scope is the
model's choice (assumption 13). -/
def Obligations.MoveAddressResults : Prop :=
  (∀ f, (RegInstr.unary .movv {} (fun _ a => a) f).performs) ∧ (∀ f, (bcastwInstr f).performs) ∧
  (∀ f, (ptovInstr f).performs) ∧ (∀ f, (vtopInstr f).performs) ∧ (∀ p ∈ leas, ∀ f, (leaInstr p.1 p.2 f).performs) ∧
  (∀ f, (pairInstr .add64 (· + ·) f).performs) ∧ ∀ f, (pairInstr .sub64 (· - ·) f).performs

/-- The frame of the instructions on registers that count no event. The frame of the instructions on registers that may
count events. -/
def Obligations.RegisterFrame : Prop :=
  (EachInteger RegInstr.keeps) ∧
  (EachFloat RegInstr.keepsCounting)

namespace Sys2Proof.Machine

/-! ### Cross-lane instructions and moves of a warp -/

/-- A warp-scope instruction on lane registers as its rule describes it (R203, R207): K, what it accepts, its operands,
its v sources, its destination, in v or w registers, and the result for a lane given NEEDED. -/
structure CrossInstr where
  instr : Instr
  k : Ex → Nat
  acc : Ex → Acc
  ops : Ex → List Opd
  extra : Ex → Bool := fun _ => true
  srcs : List Src
  toV : Ex → Bool
  d : Nat
  val : Ex → Word → Nat → Word

/-- Where the checks pass, the rendezvous completes and the sources are full, D holds the result in each lane of NEEDED,
or in the warp's register, and the lanes stand past the instruction; MZ zeroes D of the lanes outside NEEDED, which else
keep it (R129). -/
def CrossInstr.performs (r : CrossInstr) : Prop :=
  ∀ s is s1 y, s.formed → s.selects is →
    let x := Ex.of s is
    let n := (x.b.needed y).getD is.warp 0
    x.legal (r.acc x) (r.ops x) (r.extra x) = true → x.completes (.warp is.warp) (r.k x) s1 y →
    (x.pf.modOf.mz = true → x.w.othersPend n (if r.toV x then [r.d] else []) = false) →
    (∀ l ∈ lanesOf n, readiness (x.w.lane l).view r.srcs (if r.toV x then [r.d] else []) = .go) →
    ∃ t, exec r.instr s = .next t ∧ x.past y t ∧
      if r.toV x then (∀ l ∈ lanesOf n, (t.lane is.blk is.warp l).reg r.d = r.val x n l) ∧
        ∀ l ∈ lanesOf (x.w.live &&& ~~~n),
          (t.lane is.blk is.warp l).reg r.d = if x.pf.modOf.mz then 0 else (x.w.lane l).reg r.d
      else (t.warp is.blk is.warp).reg r.d = r.val x n 0

/-- The value of A in the source lane, or the lane's own where that lane takes no part (R203). -/
def fromLane (w : Warp) (n : Word) (a l : Nat) (src : Int) : Word :=
  if 0 ≤ src ∧ src ≤ 31 ∧ n.getLsbD src.toNat = true then (w.lane src.toNat).reg a else (w.lane l).reg a

/-- XLA with its source lane (R204). -/
def xlaInstr (c : FormL → Instr) (bv : Bool) (src : Word → Nat → Int) (f : FormL) : CrossInstr :=
  { instr := c f, k := fun _ => f.k.toNat, acc := fun _ => { mod := true, mz := true },
    ops := fun _ => [⟨.v, f.d.toNat, 1, false⟩, ⟨.v, f.a.toNat, 1, false⟩,
      ⟨if bv then .v else .w, f.b.toNat, 1, false⟩, ⟨.k, f.k.toNat, 1, false⟩],
    srcs := if bv then [⟨f.a.toNat, 1, false, .own⟩, ⟨f.b.toNat, 1, false, .own⟩] else [⟨f.a.toNat, 1, false, .own⟩],
    toV := fun _ => true, d := f.d.toNat,
    val := fun x n l =>
      fromLane x.w n f.a.toNat l (src (if bv then (x.w.lane l).reg f.b.toNat else x.w.reg f.b.toNat) l) }

def xlas : List ((FormL → Instr) × Bool × (Word → Nat → Int)) :=
  [(.perm, true, fun b _ => (b.toNat % 32 : Nat)), (.permx, false, fun b l => (l ^^^ (b.toNat % 32) : Nat)),
   (.permu, false, fun b l => l - b.toInt), (.permd, false, fun b l => l + b.toInt)]

/-- The lanes of NEEDED in which a predicate is true. -/
def trueIn (w : Warp) (n : Word) (p : BitVec 3) : Word := maskOf fun l => n.getLsbD l && (w.lane l).pred p

/-- XLB votes (R205). -/
def xlbInstr (c : FormLP → Instr) (fn : Word → Word → Word) (f : FormLP) : CrossInstr :=
  { instr := c f, k := fun _ => f.k.toNat, acc := fun _ => { mod := true },
    ops := fun _ => [⟨.w, f.d.toNat, 1, false⟩, ⟨.k, f.k.toNat, 1, false⟩], srcs := [], toV := fun _ => false,
    d := f.d.toNat, val := fun x n _ => fn n (trueIn x.w n f.p) }

def xlbs : List ((FormLP → Instr) × (Word → Word → Word)) :=
  [(.ballot, fun _ m => m), (.vall, fun n m => if n &&& ~~~m = 0 then 1 else 0), (.vany, fun _ m => if m = 0 then 0 else 1)]

/-- MATCH (R205). -/
def matchInstr (f : FormL1) : CrossInstr :=
  { instr := .matchB f, k := fun _ => f.k.toNat, acc := fun _ => { mod := true, mz := true },
    ops := fun _ => [⟨.v, f.d.toNat, 1, false⟩, ⟨.v, f.a.toNat, 1, false⟩, ⟨.k, f.k.toNat, 1, false⟩],
    srcs := [⟨f.a.toNat, 1, false, .own⟩], toV := fun _ => true, d := f.d.toNat,
    val := fun x n l => maskOf fun j => n.getLsbD j && (x.w.lane j).reg f.a.toNat == (x.w.lane l).reg f.a.toNat }

/-- The values of A in some lanes, from the lowest on. -/
def valuesIn (w : Warp) (a : Nat) (m : Word) : List Word := (lanesOf m).map fun l => (w.lane l).reg a

/-- The lanes of a lane's quarter (R9). -/
def quarterLanes (l : Nat) : Word := maskOf fun j => j / 8 == l / 8

/-- XLR reductions (R206). -/
def xlrInstr (c : FormL1 → Instr) (fn : List Word → Word) (f : FormL1) : CrossInstr :=
  { instr := c f, k := fun _ => f.k.toNat, acc := fun x => { mod := true, mz := x.pf.modOf.hi, hi := true },
    ops := fun x => [⟨if x.pf.modOf.hi then .v else .w, f.d.toNat, 1, false⟩, ⟨.v, f.a.toNat, 1, false⟩,
      ⟨.k, f.k.toNat, 1, false⟩],
    srcs := [⟨f.a.toNat, 1, false, .own⟩], toV := fun x => x.pf.modOf.hi, d := f.d.toNat,
    val := fun x n l => fn (valuesIn x.w f.a.toNat (if x.pf.modOf.hi then n &&& quarterLanes l else n)) }

def xlrs : List ((FormL1 → Instr) × (List Word → Word)) :=
  [(.redadd, fun ws => ws.foldl (· + ·) 0),
   (.redmin, fun ws => ws.foldl (fun m v => if m.toInt ≤ v.toInt then m else v) (ws.headD 0)),
   (.redmax, fun ws => ws.foldl (fun m v => if m.toInt ≤ v.toInt then v else m) (ws.headD 0))]

/-- SCANADD (R206). -/
def scanInstr (f : FormL1) : CrossInstr :=
  { instr := .scanadd f, k := fun _ => f.k.toNat, acc := fun _ => { mod := true, mz := true, hi := true },
    ops := fun _ => [⟨.v, f.d.toNat, 1, false⟩, ⟨.v, f.a.toNat, 1, false⟩, ⟨.k, f.k.toNat, 1, false⟩],
    extra := fun x => x.pf.modOf.hi || f.d != f.a, srcs := [⟨f.a.toNat, 1, false, .own⟩], toV := fun _ => true,
    d := f.d.toNat,
    val := fun x n l =>
      let below := maskOf fun j => n.getLsbD j && decide (j ≤ l)
      (valuesIn x.w f.a.toNat (if x.pf.modOf.hi then below &&& quarterLanes l else below)).foldl (· + ·) 0 }

/-- READL (R207). -/
def readlInstr (f : FormA3) : CrossInstr :=
  { instr := .readl f, k := fun x => x.pf.modOf.k.toNat, acc := fun _ => { mod := true, k := true },
    ops := fun _ => [⟨.w, f.d.toNat, 1, false⟩, ⟨.v, f.a.toNat, 1, f.ta⟩, ⟨.w, f.b.toNat, 1, false⟩],
    srcs := [⟨f.a.toNat, 1, f.ta, .own⟩], toV := fun _ => false, d := f.d.toNat,
    val := fun x n _ =>
      let l := (x.w.reg f.b.toNat).toNat % 32
      if n.getLsbD l then (x.w.lane l).reg f.a.toNat else 0 }

/-- KTOW (R207). -/
def ktowInstr (f : FormDA) : CrossInstr :=
  { instr := .ktow f, k := fun x => x.pf.modOf.k.toNat, acc := fun _ => { mod := true, k := true },
    ops := fun _ => [⟨.w, f.d.toNat, 1, false⟩, ⟨.k, f.a.toNat, 1, false⟩], srcs := [], toV := fun _ => false,
    d := f.d.toNat, val := fun x _ _ => x.w.mask f.a.toNat }

/-- No lane of a warp stands in a WAIT (R136). -/
def Warp.noWait (w : Warp) : Prop := ∀ l k, (w.lane l).status ≠ .kwait k

/-- The set that a slot of the issuing warp binds, under MOD SS (R21). -/
def Ex.setHere (x : Ex) : Option Nat := x.b.setOf x.is.warp x.pf.modOf.ss.toNat

/-! ### Branches and masks -/

/-- The target of a branch word (R139, R140): the next word and the signed offset in words, of 24 bits with IMM. -/
def targetOf (x : Ex) (pc : DWord) (off : BitVec 16) : DWord :=
  pc + 4 + 4 * (match x.pf.imm with
    | none => off.signExtend 64
    | some i => (i.pay.setWidth 8 ++ off).signExtend 64)

/-- What the mask instructions do to a warp, given the lanes that execute them (R143). -/
def maskEffects (warp : Bool) (kd : BitVec 4) (a b : BitVec 4) (lane w : BitVec 5) :
    List (Instr × List Opd × (Warp → Word → Warp)) :=
  let d : Opd := ⟨.kd, kd.toNat, 1, false⟩
  let src (c : BitVec 4) : Opd := ⟨.k, c.toNat, 1, false⟩
  let put (f : Warp → Word → Word) (W : Warp) (n : Word) : Warp := { W with k := W.k.set kd.toNat (f W n) }
  [(.join ⟨warp, kd⟩, [d], put fun W n => W.mask kd.toNat ||| n),
   (.leave ⟨warp, kd⟩, [d], put fun W n => W.mask kd.toNat &&& ~~~n),
   (.kand ⟨warp, kd, a, b⟩, [d, src a, src b], put fun W _ => W.mask a.toNat &&& W.mask b.toNat),
   (.kor ⟨warp, kd, a, b⟩, [d, src a, src b], put fun W _ => W.mask a.toNat ||| W.mask b.toNat),
   (.kandn ⟨warp, kd, a, b⟩, [d, src a, src b], put fun W _ => W.mask a.toNat &&& ~~~W.mask b.toNat),
   (.kxor ⟨warp, kd, a, b⟩, [d, src a, src b], put fun W _ => W.mask a.toNat ^^^ W.mask b.toNat),
   (.ksetl ⟨warp, kd, lane⟩, [d], put fun W _ => W.mask kd.toNat ||| (1 <<< lane.toNat)),
   (.kclr ⟨warp, kd⟩, [d], put fun _ _ => 0),
   (.kpopc ⟨warp, a, w⟩, [src a], fun W _ =>
      { W with w := W.w.set w.toNat (BitVec.ofNat 32 (lanesOf (W.mask a.toNat)).length) }),
   (.kfromw ⟨warp, kd, w⟩, [d], put fun W _ => W.reg w.toNat)]

end Sys2Proof.Machine

open Sys2Proof Sys2Proof.Machine

/-- XLA, XLB and XLR among the lanes of NEEDED (R203 to R206). READL, KTOW, WTOK, GSLR and GSLW (R207). -/
def Obligations.CrossLaneResults : Prop :=
  ((∀ p ∈ xlas, ∀ f, (xlaInstr p.1 p.2.1 p.2.2 f).performs) ∧ (∀ p ∈ xlbs, ∀ f, (xlbInstr p.1 p.2 f).performs) ∧
  (∀ f, (matchInstr f).performs) ∧ (∀ p ∈ xlrs, ∀ f, (xlrInstr p.1 p.2 f).performs) ∧ ∀ f, (scanInstr f).performs) ∧
  ((∀ f, (readlInstr f).performs) ∧ (∀ f, (ktowInstr f).performs) ∧
  (∀ (f : FormDA) s is s1 y, s.formed → s.selects is → let x := Ex.of s is
    x.legal { mod := true, k := true } [⟨.kd, f.d.toNat, 1, false⟩, ⟨.w, f.a.toNat, 1, false⟩] = true →
    x.completes (.warp is.warp) x.pf.modOf.k.toNat s1 y → x.w.noWait →
    ∃ t, exec (.wtok f) s = .next t ∧ x.past y t ∧ (t.warp is.blk is.warp).mask f.d.toNat = x.w.reg f.a.toNat) ∧
  (∀ (f : FormA3) s is i, s.formed → s.selects is → let x := Ex.of s is
    x.setHere = some i → let st := x.b.set i
    let j := (x.w.reg f.b.toNat).toNat
    x.legal { mod := true, ss := true }
      [⟨.v, f.d.toNat, 1, false⟩, ⟨.g, f.a.toNat, 1, f.ta⟩, ⟨.w, f.b.toNat, 1, false⟩] = true →
    (∀ l ∈ lanesOf is.lanes, (x.w.lane l).full f.d.toNat = true ∧ (j < popcount st.members →
      (st.elem f.a.toNat j l).full = true ∧ (st.elem f.a.toNat j l).poison = false)) →
    ∃ t, exec (.gslr f) s = .next t ∧ x.stepped t ∧ ∀ l ∈ lanesOf is.lanes,
      (t.lane is.blk is.warp l).reg f.d.toNat = if j < popcount st.members then (st.elem f.a.toNat j l).val else 0) ∧
  ∀ (f : FormA3) s is i, s.formed → s.selects is → let x := Ex.of s is
    x.setHere = some i → let st := x.b.set i
    let j := (x.w.reg f.b.toNat).toNat
    x.legal { mod := true, ss := true }
      [⟨.g, f.d.toNat, 1, false⟩, ⟨.v, f.a.toNat, 1, f.ta⟩, ⟨.w, f.b.toNat, 1, false⟩] = true →
    (∀ l ∈ lanesOf is.lanes, readiness (x.w.lane l).view [⟨f.a.toNat, 1, f.ta, .own⟩] [] = .go ∧
      (j < popcount st.members → (st.elem f.d.toNat j l).full = true)) →
    ∃ t, exec (.gslw f) s = .next t ∧ x.stepped t ∧
      (j < popcount st.members → ∀ l ∈ lanesOf is.lanes,
        ((t.blk is.blk).set i).elem f.d.toNat j l = ⟨(x.w.lane l).reg f.a.toNat, true, false⟩) ∧
      (popcount st.members ≤ j → (t.blk is.blk).sets = x.b.sets))

/-- MOVS at each scope: D is the special register of the lane, or of the lowest-numbered participant, and CLOCKLO
keeps the high half of the counter for the warp's next CLOCKHI (R208). LIVE and ACTIVE are the live lanes and those
that execute the MOVS (R115); the three parts of TID count the thread within its block; outside a handler the handler
registers read 0 (R208). What ACTIVE is at set and block scope is the model's choice (assumption 91). -/
def Obligations.SpecialRegisterReads : Prop :=
  (∀ (f : FormMs) s is y, s.formed → s.selects is → let x := Ex.of s is
    let n := f.n.toNat
    let hi := x.pf.modOf.hi
    let sc := f.sc.toNat
    let latched (w : Nat) (t : State) : Prop := n = 19 → (t.warp is.blk w).clockHi = BitVec.ofNat 32 (s.cycle / 2 ^ 32)
    x.legal (({ hi := n == 26 : Acc }).scoped sc (sc == 2)) [⟨scopeClass sc, f.d.toNat, 1, false⟩]
      (!(sc == 1 || sc == 3) || !perLane n) = true → x.goes sc y → x.allReady sc y false 7 [] [f.d.toNat] →
    ∃ t, exec (.movs f) s = .next t ∧ x.moved sc y t ∧
      match sc with
      | 0 => latched is.warp t ∧ ∀ l ∈ lanesOf is.lanes,
          (t.lane is.blk is.warp l).reg f.d.toNat = specialReg s is.blk is.warp l is.lanes hi n
      | 1 => latched is.warp t ∧ (t.warp is.blk is.warp).reg f.d.toNat =
          specialReg s is.blk is.warp 0 ((x.b.needed y).getD is.warp 0) false n
      | 2 => ∀ i, x.unit 2 = some (.set i) → ∀ p ∈ Inst.lanes (x.b.needed y), latched p.1 t ∧
          (((t.blk is.blk).set i).elem f.d.toNat ((x.b.set i).pos p.1) p.2).val =
            specialReg s is.blk p.1 p.2 ((x.b.needed y).getD p.1 0) hi n
      | _ => ∀ w < x.b.warps.length, (x.b.warp w).live ≠ 0 → (t.warp is.blk w).reg f.d.toNat =
          specialReg s is.blk x.b.firstLive 0 ((x.b.needed y).getD x.b.firstLive 0) false n) ∧
  ∀ (s : State) b w l active hi, l < 32 → let reg := specialReg s b w l active hi
    let r := (s.launch (s.blk b).launch).rcd
    reg 17 = (s.warp b w).live ∧ reg 18 = active ∧ reg 20 = (s.warp b w).clockHi ∧ reg 12 = BitVec.ofNat 32 l ∧
    (w < 32 → 0 < r.blkX → 0 < r.blkY → r.blkX * r.blkY < 2 ^ 32 → (reg 0).toNat < r.blkX ∧ (reg 1).toNat < r.blkY ∧
      (reg 0).toNat + r.blkX * ((reg 1).toNat + r.blkY * (reg 2).toNat) = 32 * w + l) ∧
    ((s.blk b).handlerOf w = none → ∀ n ∈ [23, 24, 25, 26, 27, 28, 29], reg n = 0)

/-- BRA at both scopes: lanes whose guard is true go to the target and are enrolled in K, the others go on (R140). CALL,
JMP, RET and CALLX: where the guard is true, the lane goes to the target and a call leaves the low half of the next
word's address in v63 (R141, R142). -/
def Obligations.BranchCallResults : Prop :=
  (∀ (f : FormB) s is y, s.formed → s.selects is → let x := Ex.of s is
    let n := if f.warp then (x.b.needed y).getD is.warp 0 else is.lanes
    x.legal { imm := some 8, mod := f.warp, k := f.warp } [⟨.k, f.k.toNat, 1, false⟩] = true →
    (f.warp = true → ∃ s1, x.completes (.warp is.warp) x.pf.modOf.k.toNat s1 y) →
    ∃ t, exec (.bra f) s = .next t ∧
      (∀ l ∈ lanesOf n, (t.lane is.blk is.warp l).run = [] ∧ (t.lane is.blk is.warp l).pc =
        if (x.w.lane l).guard f.gn f.gp then targetOf x (x.w.lane l).pc f.off else (x.w.lane l).pc + 4) ∧
      (x.w.noWait → f.k ≠ 15 → (t.warp is.blk is.warp).mask f.k.toNat =
        x.w.mask f.k.toNat ||| maskOf fun l => n.getLsbD l && (x.w.lane l).guard f.gn f.gp)) ∧
  ((∀ (f : FormBl) s is, s.formed → s.selects is → let x := Ex.of s is
    x.legal { imm := some 8 } [] = true →
    (∀ l ∈ lanesOf is.lanes, (x.w.lane l).guard f.gn f.gp = true → (x.w.lane l).full 63 = true) →
    ∃ t, exec (.call f) s = .next t ∧ ∀ l ∈ lanesOf is.lanes,
      if (x.w.lane l).guard f.gn f.gp then
        (t.lane is.blk is.warp l).pc = targetOf x (x.w.lane l).pc f.off ∧
          (t.lane is.blk is.warp l).reg 63 = ((x.w.lane l).pc + 4).setWidth 32
      else (t.lane is.blk is.warp l).pc = (x.w.lane l).pc + 4) ∧
  ∀ (f : FormJ) s is, s.formed → s.selects is → let x := Ex.of s is
    let two (l : Nat) : DWord := (x.w.lane l).reg (f.a.toNat + 1) ++ (x.w.lane l).reg f.a.toNat
    let near (l : Nat) : DWord := (x.w.lane l).pc &&& 0xFFFFFFFF00000000 ||| ((x.w.lane l).reg f.a.toNat).setWidth 64
    ∀ p ∈ ([(.jmp f, 2, false, two), (.ret f, 1, false, near), (.callx f, 2, true, two)] :
        List (Instr × Nat × Bool × (Nat → DWord))),
    x.legal {} [⟨.v, f.a.toNat, p.2.1, false⟩] = true →
    (∀ l ∈ lanesOf is.lanes, (x.w.lane l).guard f.gn f.gp = true →
      readiness (x.w.lane l).view [⟨f.a.toNat, p.2.1, false, .own⟩] (if p.2.2.1 then [63] else []) = .go ∧
        (p.2.2.2 l).toNat % 4 = 0) →
    ∃ t, exec p.1 s = .next t ∧ ∀ l ∈ lanesOf is.lanes,
      if (x.w.lane l).guard f.gn f.gp then
        (t.lane is.blk is.warp l).pc = p.2.2.2 l ∧
          (p.2.2.1 = true → (t.lane is.blk is.warp l).reg 63 = ((x.w.lane l).pc + 4).setWidth 32)
      else (t.lane is.blk is.warp l).pc = (x.w.lane l).pc + 4)

/-- JOIN to KFROMW at both scopes: their effect on the warp's masks and registers (R143). WAIT: its lanes block; when
every live lane of the mask waits, the waiting lanes go on and leave the mask (R136). -/
def Obligations.MaskWaitResults : Prop :=
  (∀ warp kd a b lane w, ∀ p ∈ maskEffects warp kd a b lane w, ∀ s is y, s.formed → s.selects is → let x := Ex.of s is
    let n := if warp then (x.b.needed y).getD is.warp 0 else is.lanes
    x.legal { mod := warp, k := warp } p.2.1 = true →
    (warp = true → ∃ s1, x.completes (.warp is.warp) x.pf.modOf.k.toNat s1 y) → x.w.noWait →
    ∃ t, exec p.1 s = .next t ∧ x.moved (if warp then 1 else 0) y t ∧
      (t.warp is.blk is.warp).k = (p.2.2 x.w n).k ∧ (t.warp is.blk is.warp).w = (p.2.2 x.w n).w) ∧
  (∀ (f : FormKw) s is, s.formed → s.selects is → let x := Ex.of s is
    let k := f.kd.toNat
    let waiting := maskOf fun l => is.lanes.getLsbD l || (x.w.lane l).status == .kwait k
    x.legal {} [⟨.kd, k, 1, false⟩] = true →
    ∃ t, exec (.wait f) s = .next t ∧
      if x.w.mask k &&& x.w.live &&& ~~~waiting = 0 then
        (∀ l ∈ lanesOf waiting, (t.lane is.blk is.warp l).pc = (x.w.lane l).pc + 4) ∧
          (t.warp is.blk is.warp).mask k = x.w.mask k &&& ~~~waiting
      else (∀ l ∈ lanesOf is.lanes, (t.lane is.blk is.warp l).status = .kwait k ∧
          (t.lane is.blk is.warp l).pc = (x.w.lane l).pc) ∧ (t.warp is.blk is.warp).mask k = x.w.mask k)

namespace Sys2Proof.Machine

/-! ### Barriers, threads and handlers -/

/-- A w operand of so many registers, and a literal. -/
def wOpd (c : BitVec 6) (n : Nat) : Opd := ⟨.w, c.toNat, n, false⟩
def litOpd (c : BitVec 6) (max : Nat) : Opd := ⟨.lit max, c.toNat, 1, false⟩

/-- No lane of NEEDED has an access on its way that is not performed at its core (R145, R382). -/
def Ex.allPerformed (x : Ex) (y : Inst) (t : State) : Prop :=
  ∀ p ∈ Inst.lanes (x.b.needed y),
    (∀ o ∈ t.stores, o.blk = x.is.blk → o.warp = p.1 → o.lane = p.2 → o.atCore = true) ∧
    (∀ o ∈ t.loads, o.blk = x.is.blk → o.warp = p.1 → o.lane ≠ p.2) ∧
    ∀ o ∈ t.atoms, o.blk = x.is.blk → o.warp = p.1 → o.lane ≠ p.2

/-- A barrier after an arrival with an expected count (R146). -/
def arrived (b : SplitBar) (want : Word) : SplitBar :=
  let e := if b.count = 0 then min (max want.toNat 1) 32 else b.expect
  if b.count + 1 = e then ⟨e, 0, b.phase + 1⟩ else ⟨e, b.count + 1, b.phase⟩

/-- The next slot of a context's service ring (R157). -/
def Ctx.slotAt (c : Ctx) : Nat := c.ring.toNat + 0x40 + 32 * (c.svcProd.toNat % c.ringN)

/-- The request of a SYSC with its number (R156). -/
def sysBytes (b : Block) (w : Nat) (code arg n : Word) : List Byte :=
  let faddr : DWord := match b.handlerOf w with | none => 0 | some h => h.trap.faddr
  leBytes 4 code.toNat ++ leBytes 4 arg.toNat ++ leBytes 8 faddr.toNat ++
    [BitVec.ofNat 8 b.die, BitVec.ofNat 8 b.cluster, BitVec.ofNat 8 b.core, BitVec.ofNat 8 w] ++
    leBytes 4 n.toNat ++ List.replicate 8 0

/-- The page request of a walk on a cluster of the package, with its number (R294). -/
def pageBytes (node : Nat) (va : DWord) (cl : Nat) (n : Word) : List Byte :=
  leBytes 4 0xFFFF0001 ++ leBytes 4 node ++ leBytes 8 va.toNat ++
    [BitVec.ofNat 8 (cl / Config.clusters), BitVec.ofNat 8 (cl % Config.clusters), 0xFF, 0xFF] ++
    leBytes 4 n.toNat ++ List.replicate 8 0

/-- A block that runs and is not halted. -/
def State.runs (s : State) (b : Nat) : Prop := (s.blk b).phase = .running ∧ (s.blk b).halt = none

end Sys2Proof.Machine

open Sys2Proof Sys2Proof.Machine

/-- BAR at every scope but lane scope: the lanes of NEEDED go on, and their earlier accesses are performed, where none
waits for a DEQ (R145, R438); at lane scope it is no legal instruction. BARA, BARC and BARW: an arrival gives the phase and counts, BARC reads the
fields, and BARW goes on where the phase has passed and else blocks its warp (R146). BARW_RELEASE: a warp blocked in
BARW of a block that runs goes on once the phase has passed, and not before (R146). -/
def Obligations.BarrierResults : Prop :=
  ((∀ (f : FormSc) s is s1 y u, s.formed → s.selects is → let x := Ex.of s is
    let sc := f.sc.toNat
    sc ≠ 0 → x.legal { mod := true, k := sc == 1 || sc == 2, ss := sc == 2, ord := [3] } [] = true →
    x.unit sc = some u → x.completes u x.pf.modOf.k.toNat s1 y → s.noDeq is.blk →
    ∃ t, exec (.bar f) s = .next t ∧ x.past y t ∧ x.allPerformed y t) ∧
  ∀ (f : FormSc) s is, s.selects is → f.sc = 0 →
    exec (.bar f) s = .next { (Ex.of s is).trap .illegalOp is.lanes with cur := none }) ∧
  ((∀ (f : FormDAB) s is s1 y, s.formed → s.selects is → let x := Ex.of s is
    let bar := x.b.bars.getD f.b.toNat default
    x.uniformGoes { ord := [2] } [wOpd f.d 1, wOpd f.a 1, litOpd f.b 15] true s1 y → s.noDeq is.blk →
    ∃ t, exec (.bara f) s = .next t ∧ x.past y t ∧ (t.warp is.blk is.warp).reg f.d.toNat = bar.phase ∧
      (t.blk is.blk).bars = x.b.bars.set f.b.toNat (arrived bar (x.w.reg f.a.toNat))) ∧
  (∀ (f : FormDB) s is s1 y, s.formed → s.selects is → let x := Ex.of s is
    let bar := x.b.bars.getD f.b.toNat default
    x.uniformGoes {} [wOpd f.d 2, litOpd f.b 15] true s1 y →
    ∃ t, exec (.barc f) s = .next t ∧ x.past y t ∧ (t.blk is.blk).bars = x.b.bars ∧
      (t.warp is.blk is.warp).reg f.d.toNat = bar.phase ∧
      (t.warp is.blk is.warp).reg (f.d.toNat + 1) = BitVec.ofNat 32 (bar.count + 256 * bar.expect)) ∧
  ∀ (f : FormAB) s is s1 y, s.formed → s.selects is → let x := Ex.of s is
    let d := ((x.b.bars.getD f.b.toNat default).phase - x.w.reg f.a.toNat).toNat
    x.legal { mod := true, k := true, ord := [1] } [wOpd f.a 1, litOpd f.b 15] = true →
    x.completes (.warp is.warp) x.pf.modOf.k.toNat s1 y →
    ∃ t, exec (.barw f) s = .next t ∧
      if 1 ≤ d ∧ d ≤ 2 ^ 31 then x.past y t
      else (t.warp is.blk is.warp).wait =
        some (.barrier f.b.toNat (x.w.reg f.a.toNat) x.pf.ms ((x.b.needed y).getD is.warp 0))) ∧
  (∀ b w s i ph ms n, s.formed → s.runs b → w < (s.blk b).warps.length → b < s.blocks.length →
    (s.warp b w).wait = some (.barrier i ph ms n) →
    let d := (((s.blk b).bars.getD i default).phase - ph).toNat
    if 1 ≤ d ∧ d ≤ 2 ^ 31 then
      ∃ t, exec (.barwRelease b w) s = .next t ∧ (t.warp b w).wait = none ∧
        ∀ l ∈ lanesOf (n &&& (s.warp b w).live), (t.lane b w l).pc = (s.lane b w l).pc + 4
    else exec (.barwRelease b w) s = .fault .notEnabled)

/-- EXIT outside a handler: the lanes of the group exit and leave LIVE and every mask register; in a handler it ends the
handler (R149, R412). YIELD and NOP change nothing but the place of their lanes: no register, mask or memory, and nothing
outside their block; SLEEP lets its lanes go on after so
many cycles; GROUPQ gives the members of a slot's set (R151, R153). SLEEP_END and STL_END: a lane whose delay is over
may issue again, and not before (R107, R151). -/
def Obligations.ThreadResults : Prop :=
  (∀ s is, s.formed → s.selects is → let x := Ex.of s is
    x.legal {} [] = true →
    ∃ t, exec .exitB s = .next t ∧
      if x.b.inHandler is.warp then ∃ h, (t.blk is.blk).halt = some h ∧ h.lost = true
      else (∀ l ∈ lanesOf is.lanes, (t.lane is.blk is.warp l).status = .exited) ∧
        (t.warp is.blk is.warp).live = x.w.live &&& ~~~is.lanes ∧
        ∀ k < 12, (t.warp is.blk is.warp).mask k &&& is.lanes = 0) ∧
  ((∀ s is, s.formed → s.selects is → (Ex.of s is).legal {} [] = true →
    ∃ t, exec .yield s = .next t ∧ (Ex.of s is).stepped t ∧
      (Ex.of s is).onlyPlaces (fun w => if w = is.warp then is.lanes else 0) t) ∧
  (∀ (f : FormSc) s is y, s.formed → s.selects is → let x := Ex.of s is
    let sc := f.sc.toNat
    let wide := sc == 1 || sc == 2
    x.legal { mod := wide, k := wide, ss := sc == 2 } [] = true → x.goes sc y →
    ∃ t, exec (.nop f) s = .next t ∧ x.moved sc y t ∧ x.onlyPlaces (x.movers sc y) t) ∧
  (∀ (f : FormEA) s is, s.formed → s.selects is → let x := Ex.of s is
    x.legal {} [⟨.v, f.a.toNat, 1, false⟩] = true →
    (∀ l ∈ lanesOf is.lanes, readiness (x.w.lane l).view [⟨f.a.toNat, 1, false, .own⟩] [] = .go) →
    ∃ t, exec (.sleep f) s = .next t ∧ x.stepped t ∧ ∀ l ∈ lanesOf is.lanes,
      let n := max (min ((x.w.lane l).reg f.a.toNat).toNat 0xFFFFF) (stlOf (x.w.lane l).run)
      (t.lane is.blk is.warp l).status = if n = 0 then .ready else .sleep (s.cycle + n)) ∧
  ∀ (f : FormDB) s is s1 y, s.formed → s.selects is → let x := Ex.of s is
    x.uniformGoes {} [wOpd f.d 1, litOpd f.b 3] true s1 y →
    ∃ t, exec (.groupq f) s = .next t ∧ x.past y t ∧ (t.warp is.blk is.warp).reg f.d.toNat =
      ((x.b.sets.find? fun st => st.members.getLsbD is.warp && st.slot == f.b.toNat).map (·.members)).getD 0) ∧
  (∀ b w l s til, s.formed → b < s.blocks.length → w < (s.blk b).warps.length → l < 32 →
    ((s.lane b w l).status = .sleep til → if til ≤ s.cycle then
      ∃ t, exec (.sleepEnd b w l) s = .next t ∧ t.lane b w l = { s.lane b w l with status := .ready }
      else exec (.sleepEnd b w l) s = .fault .notEnabled) ∧
    ((s.lane b w l).status = .stl til → if til ≤ s.cycle then
      ∃ t, exec (.stlEnd b w l) s = .next t ∧ t.lane b w l = { s.lane b w l with status := .ready }
      else exec (.stlEnd b w l) s = .fault .notEnabled))

/-- SIBLING_STOP, HANDLER_ENTRY and RTE: the warps of a halted block stop, the faulting warp's live lanes go to HANDLER
with each lane's restart address kept, and RTE returns them there, in mode 1 the faulting ones past their run (that each
lane keeps a RUNLEN of its own is the model's reading, assumption 11). RTE releases the block where no further trap is
pending, and no lane is stuck then; else the trap of the lowest pending warp is next, with every warp stopped, so that
HANDLER_ENTRY takes it (R131, R155, R404 to R411). -/
def Obligations.TrapEntryAndReturn : Prop :=
  (∀ b w s h, s.formed → b < s.blocks.length → w < (s.blk b).warps.length → (s.blk b).halt = some h → w ≠ h.trap.warp →
    h.stopped.length = (s.blk b).warps.length → h.stopped.getD w true = false →
    ∃ t h', exec (.siblingStop b w) s = .next t ∧ (t.blk b).halt = some h' ∧ h'.stopped.getD w true = true ∧
      h'.trap = h.trap ∧ ∀ l, (t.lane b w l).restart = (s.lane b w l).restart) ∧
  (∀ b s h, s.formed → b < s.blocks.length → (s.blk b).halt = some h → h.trap.warp < (s.blk b).warps.length →
    h.lost = false → h.handler = false → (∀ x ∈ h.stopped, x = true) → s.fillsBusy b = false →
    (s.ctx (s.blk b).ctx).handler ≠ 0 →
    ∃ t h', exec (.handlerEntry b) s = .next t ∧ (t.blk b).halt = some h' ∧ h'.handler = true ∧
      h'.trap.warp = h.trap.warp ∧ h'.trap.cause = h.trap.cause ∧ h'.trap.faultLanes = h.trap.faultLanes ∧
      ∀ l < 32, (s.lane b h.trap.warp l).live = true →
        (t.lane b h.trap.warp l).pc = (s.ctx (s.blk b).ctx).handler ∧ (t.lane b h.trap.warp l).status = .ready ∧
        (t.lane b h.trap.warp l).run = [] ∧
        ((∀ q ∈ s.deqWaits, ¬(q.blk = b ∧ q.warp = h.trap.warp ∧ q.lane = l)) →
          h'.trap.epc.getD l 0 = (s.lane b h.trap.warp l).restart)) ∧
  ∀ (f : FormRte) s is s1 y h, s.formed → s.selects is → let x := Ex.of s is
    x.legal { mod := true } [] = true → x.b.halt = some h → h.handler = true → h.trap.warp = is.warp →
    x.completes (.warp is.warp) 15 s1 y →
    ∃ t, exec (.rte f) s = .next t ∧ (∀ h', (t.blk is.blk).halt = some h' → h'.handler = false) ∧
      (h.pending = [] → (t.blk is.blk).mismatches = [] → (t.blk is.blk).halt = none) ∧
      (h.pending ≠ [] → ∃ h', (t.blk is.blk).halt = some h' ∧ h'.trap ∈ h.pending ∧
        (∀ p ∈ h.pending, h'.trap.warp ≤ p.warp) ∧ h'.lost = false ∧ ∀ b ∈ h'.stopped, b = true) ∧
      ∀ l < 32, (x.w.lane l).live = true → (t.lane is.blk is.warp l).run = [] ∧ (t.lane is.blk is.warp l).pc =
        h.trap.epc.getD l 0 + if f.skip && h.trap.faultLanes.getLsbD l then BitVec.ofNat 64 (4 * h.trap.runLen.getD l 0) else 0

/-- RENDEZVOUS_COMPLETE: an instance that has every lane it needs may issue, and not before (R123, R128). -/
def Obligations.RendezvousCompletes : Prop :=
  ∀ b k s y, s.formed → b < s.blocks.length → (s.blk b).insts[k]? = some y → y.granted = false → (s.blk b).halt = none →
    let needed (w : Nat) : Word := y.part.getD w 0 &&& ((s.blk b).warp w).live
    let full : Prop := (∀ w < (s.blk b).warps.length, needed w &&& ~~~y.arrived.getD w 0 = 0) ∧ ∃ w, y.arrived.getD w 0 ≠ 0
    (full → ∃ t, exec (.rendezvousComplete b k) s = .next t ∧
      (t.blk b).insts = (s.blk b).insts.set k { y with granted := true }) ∧
    (¬full → exec (.rendezvousComplete b k) s = .fault .notEnabled)

/-- SYSC with room in the ring: the 32 bytes of the request are written to its slot, PROD counts it, the host is
interrupted and the warp waits for its reply (R156, R157). RING_SLOT_FREE: once the host has freed a slot of the ring, the first stalled SYSC
whose warp may go on is written to its slot, its warp then waits for the reply and its lanes go on; with none stalled, a walk's
page request is; with no slot free, or no one waiting, nothing happens (R156, R157, R294). -/
def Obligations.ServiceCall : Prop :=
  (∀ (f : FormDAB) s is s1 y, s.formed → s.selects is → let x := Ex.of s is
    let n := (x.b.needed y).getD is.warp 0
    x.legal { mod := true, k := true } [wOpd f.d 1, wOpd f.a 1, wOpd f.b 1] = true →
    x.completes (.warp is.warp) x.pf.modOf.k.toNat s1 y → (s.ctx? x.b.ctx).isSome →
    (s1.releaseLanes is.blk is.warp n 4).ringFree (s.ctx x.b.ctx) = true → s.stalls = [] → s.noDeq is.blk →
    (∀ k, (s.walks.getD k default).want = none) →
    ∃ t, exec (.sysc f) s = .next t ∧ x.past y t ∧
      (t.warp is.blk is.warp).wait = some (.reply (s.ctx x.b.ctx).svcProd f.d.toNat) ∧
      (t.ctx x.b.ctx).svcProd = (s.ctx x.b.ctx).svcProd + 1 ∧ .service x.b.ctx ∈ t.intrs ∧
      t.readPa (s.ctx x.b.ctx).ring.toNat 4 = leBytes 4 ((s.ctx x.b.ctx).svcProd + 1).toNat ∧
      t.readPa (s.ctx x.b.ctx).slotAt 32 =
        sysBytes x.b is.warp (x.w.reg f.a.toNat) (x.w.reg f.b.toNat) (s.ctx x.b.ctx).svcProd) ∧
  (∀ (s : State) (ctx : Nat), let waits (r : StallRec) : Bool := r.ctx == ctx && r.on == .ring && (s.blk r.blk).warpRuns r.warp
    let c := s.ctx ctx
    (s.stalls.find? waits = none → s.wantingWalk ctx = none → exec (.ringSlotFree ctx) s = .fault .notEnabled) ∧
    (∀ r, s.stalls.find? waits = some r → s.ringFree c = false → exec (.ringSlotFree ctx) s = .fault .notEnabled) ∧
    (∀ k n va, s.stalls.find? waits = none → s.wantingWalk ctx = some (k, n, va) → s.ringFree c = true →
      (s.ctx? ctx).isSome → s.formed →
      ∃ t, exec (.ringSlotFree ctx) s = .next t ∧ (t.ctx ctx).svcProd = c.svcProd + 1 ∧ (t.walkAt k).want = none ∧
        (t.walkAt k).nPage = (s.walkAt k).nPage + 1 ∧ .service ctx ∈ t.intrs ∧
        t.readPa c.ring.toNat 4 = leBytes 4 (c.svcProd + 1).toNat ∧
        t.readPa c.slotAt 32 = pageBytes n va (s.walkAt k).cl c.svcProd) ∧
    ∀ r code arg d a y, s.formed → s.stalls.find? waits = some r → s.ringFree c = true → (s.ctx? ctx).isSome →
      r.blk < s.blocks.length → r.warp < (s.blk r.blk).warps.length → (s.blk r.blk).ctx = ctx →
      (s.warp r.blk r.warp).wait = some (.ring code arg d a) →
      (s.blk r.blk).insts.find? (fun y => y.u == .warp r.warp && y.granted && y.addr == a) = some y →
      ∃ t, exec (.ringSlotFree ctx) s = .next t ∧ (t.warp r.blk r.warp).wait = some (.reply c.svcProd d) ∧
        (t.ctx ctx).svcProd = c.svcProd + 1 ∧ .service ctx ∈ t.intrs ∧
        t.readPa c.ring.toNat 4 = leBytes 4 (c.svcProd + 1).toNat ∧
        t.readPa c.slotAt 32 = sysBytes (s.blk r.blk) r.warp code arg c.svcProd ∧
        ∀ p ∈ Inst.lanes y.arrived, (t.lane r.blk p.1 p.2).pc = (s.lane r.blk p.1 p.2).pc + 4)

/-- FPXR and FPXC read a counter of the launch, 0 for an index past 23, once the warp's earlier atomics that count
have counted; FPXC clears it, or with 0xFFFFFFFF all of them (R158). Each event adds one to its counter of the launch,
up to 0xFFFFFFFF, and the first time that a counter reaches a threshold that is not 0 it is logged and the host
interrupted; FADD, FSUB and FMUL count a NaN or an infinity that no operand was, an overflow and an underflow, in the
group of FP32 (R171, R180, R181, R183). That the entry goes to the log of the context's task home die is the model's choice
(assumption 12). -/
def Obligations.EventCounters : Prop :=
  (∀ (f : FormDA) s is s1 y, s.formed → s.selects is → let x := Ex.of s is
    let s2 := s1.countAtoms is.blk is.warp
    let L := s2.launch x.b.launch
    let i := (x.w.reg f.a.toNat).toNat
    x.b.launch < s2.launches.length → L.fpx.length = 24 → x.uniformGoes {} [wOpd f.d 1, wOpd f.a 1] true s1 y →
    ((∀ o ∈ s.atoms, ¬(o.blk = is.blk ∧ o.warp = is.warp ∧ o.opn.counts = true)) → L = s.launch x.b.launch) ∧
    (∃ t, exec (.fpxr f) s = .next t ∧ x.past y t ∧
      (t.warp is.blk is.warp).reg f.d.toNat = (if i ≤ 23 then L.fpx.getD i 0 else 0) ∧
      t.launch x.b.launch = L) ∧
    ∃ t, exec (.fpxc f) s = .next t ∧ x.past y t ∧
      (t.warp is.blk is.warp).reg f.d.toNat = (if i ≤ 23 then L.fpx.getD i 0 else 0) ∧
      ∀ j < 24, (t.launch x.b.launch).fpx.getD j 0 = if i = j ∨ i = 0xFFFFFFFF then 0 else L.fpx.getD j 0) ∧
  ((∀ (s : State) (l i : Nat), l < s.launches.length → i < 24 → let L := s.launch l
    let c := s.ctx L.rcd.ctx
    let new := counted1 (L.fpx.getD i 0)
    let th := (c.thresh.getD i 0).toNat
    let t := s.countOne l i
    L.fpx.length = 24 → (t.launch l).fpx = L.fpx.set i new ∧
      if th ≠ 0 ∧ th ≤ new.toNat ∧ L.fpxHit.getLsbD i = false then
        (t.launch l).fpxHit.getLsbD i = true ∧ .threshold L.rcd.ctx ∈ t.intrs ∧
          (c.taskDie < s.dies.length → (t.die c.taskDie).elseq = (s.die c.taskDie).elseq + 1)
      else t = { s with launches := t.launches } ∧ (t.launch l).fpxHit = L.fpxHit) ∧
  ∀ q ∈ exactArith, ∀ (f : FormA) s is l, s.formed → s.selects is → s.noThreshold is.blk → let x := Ex.of s is
    let r := RegInstr.binary q.1 { rm := true } (fun _ a _ => a) f
    let L := s.launch x.b.launch
    x.b.launch < s.launches.length → L.fpx.length = 24 → f.sc = 0 → l < 32 → is.lanes = 1#32 <<< l → r.ready x →
    let a := f32 ((x.w.lane l).view.val f.a.toNat)
    let b := f32 ((if x.pf.modOf.ub then x.w.view else (x.w.lane l).view).val f.b.toNat)
    let v := q.2 x.rm a b
    let count (e : Prop) (i : Nat) (t : State) : Prop :=
      (e → (t.launch x.b.launch).fpx.getD i 0 = counted1 (L.fpx.getD i 0)) ∧
        (¬e → (t.launch x.b.launch).fpx.getD i 0 = L.fpx.getD i 0)
    ∃ t, exec (q.1 f) s = .next t ∧ count (v.isNan = true ∧ a.isNan = false ∧ b.isNan = false) 0 t ∧
      count ((f32 (round32 x.rm v)).isInf = true ∧ a.isInf = false ∧ b.isInf = false) 1 t ∧
      (let finite : Prop := v.isNan = false ∧ v.isInf = false
        let y := f32 (round32 x.rm v)
        count (finite ∧ (y.isInf = true ∨ (Val.fin false 1 1 128).le v.abs = true)) 2 t ∧
        count (finite ∧ v.isZero = false ∧ v.abs.lt minNormal32 = true ∧ y.cmp v ≠ some .eq) 3 t) ∧
      ∀ i, 4 ≤ i → i < 24 → count False i t)

namespace Sys2Proof.Machine

/-! ### Loads, stores and cache control -/

/-- LD on the run of its issue (R211, R212). -/
def ldForm (f : FormM) (x : Ex) : MemForm :=
  let sc := f.sc.toNat
  let regs := regsOf f.sz x.pf.modOf.wq
  { sc := sc, acc := ({ imm := some 22, sx := true, wq := true, ord := [1] : Acc }).scoped sc (sc == 2),
    ops := [⟨scopeClass sc, f.d.toNat, regs, false⟩, ⟨scopeClass sc, f.a.toNat, 2, f.ta⟩],
    extra := !x.pf.modOf.wq || f.sz == 3, srcs := [⟨f.a.toNat, 2, f.ta, .own⟩], dst := codes f.d.toNat regs }

/-- LDS on the run of its issue (R211, R212). -/
def ldsForm (f : FormMs8) (x : Ex) : MemForm :=
  let sc := f.sc.toNat
  let regs := regsOf f.sz x.pf.modOf.wq
  { sc := sc, acc := ({ imm := some 22, sx := true, wq := true, ord := [1] : Acc }).scoped sc (sc == 2),
    ops := [⟨scopeClass sc, f.d.toNat, regs, false⟩, ⟨scopeClass sc, f.a.toNat, 1, f.ta⟩],
    extra := !x.pf.modOf.wq || f.sz == 3, srcs := [⟨f.a.toNat, 1, f.ta, .own⟩], dst := codes f.d.toNat regs }

/-- LDP on the run of its issue; the code 63 of A stands for none (R212, R217). -/
def ldpForm (f : FormP) : MemForm :=
  let sc := f.sc.toNat
  let regs := regsOf f.sz false
  let none_ := f.a.toNat == 63
  { sc := sc, acc := ({ imm := some 22, sx := true : Acc }).scoped sc (sc == 2),
    ops := [⟨scopeClass sc, f.d.toNat, regs, false⟩] ++ if none_ then [] else [⟨scopeClass sc, f.a.toNat, 1, f.ta⟩],
    extra := !(none_ && f.ta), srcs := if none_ then [] else [⟨f.a.toNat, 1, f.ta, .own⟩],
    dst := codes f.d.toNat regs }

/-- ST, or STS with an address of one register, on the run of its issue (R211, R212, R218). -/
def stForm (f : FormW) (scratch : Bool) (x : Ex) : MemForm :=
  let sc := f.sc.toNat
  let regs := regsOf f.sz x.pf.modOf.wq
  let na := if scratch then 1 else 2
  { sc := sc, acc := ({ imm := some 22, wq := true, hi := !scratch, ord := [2] : Acc }).scoped sc false,
    ops := [⟨scopeClass sc, f.a.toNat, na, false⟩, ⟨scopeClass sc, f.b.toNat, regs, false⟩],
    extra := !x.pf.modOf.wq || f.sz == 3,
    srcs := [⟨f.a.toNat, na, false, .own⟩, ⟨f.b.toNat, regs, false, .own⟩], gn := f.gn, gp := f.gp }

/-- The address of an access: the pair A plus the offset in units of its size (R212). -/
def Party.addr (p : Party) (a : BitVec 6) (off size : Nat) : DWord := p.view.wide a.toNat 2 + BitVec.ofNat 64 (off * size)

/-- The offset of a scratchpad or window access (R212). -/
def Party.offset (p : Party) (a : BitVec 6) (off size : Nat) : Nat := (p.view.val a.toNat).toNat + off * size

/-- An offset that passes the checks of scratchpad (R65, R216). -/
def Ex.spFits (x : Ex) (off size : Nat) : Prop := off % size = 0 ∧ off + size ≤ x.b.spSize

/-- One party alone acts. -/
def MemForm.alone (m : MemForm) (x : Ex) (y : Inst) (p : Party) : Prop :=
  m.acting x y p ∧ ∀ q, m.acting x y q → (q.warp, q.lane) = (p.warp, p.lane)

/-- The lanes whose earlier accesses an instruction of lane or warp scope orders. -/
def Ex.ordered (x : Ex) (sc : Nat) (y : Inst) : List (Nat × Nat) :=
  (lanesOf (if sc = 0 then x.is.lanes else (x.b.needed y).getD x.is.warp 0)).map fun l => (x.is.warp, l)

/-- A MEMC instruction on the run of its issue (R221). -/
def memcForm (warp : Bool) (ord : List Nat) (ops : List Opd) (srcs : List Src) (dst : List Nat) (extra : Bool := true) :
    MemForm :=
  { sc := if warp then 1 else 0, acc := { mod := true, k := warp, ord := ord }, ops := ops, srcs := srcs, dst := dst,
    extra := extra }

/-- UNPIN, INVL1, WBL2 and PREF, with an address or, for a whole context, none (R223, R224). -/
def lineForm (f : FormMc) (addr : Bool) : MemForm :=
  let sc := if f.warp then 1 else 0
  memcForm f.warp [] (if addr then [⟨scopeClass sc, f.a.toNat, 2, false⟩] else [])
    (if addr then [⟨f.a.toNat, 2, false, .own⟩] else []) [] (addr || f.a == 0)

/-- Whether an instruction names a line of the core that its context has: of an address, or all of them (R85, R224). -/
def lineNamed (x : Ex) (all : Bool) (pa : Nat) (z : L1Line) : Prop :=
  z.ctx = x.b.ctx ∧ if all then True else z.line = lineNo pa

/-- The L1 of every core but for the marks of the read-only promise (R214). -/
def State.unmarked (s : State) : List Core :=
  s.cores.map fun c => { c with l1 := c.l1.map fun z => { z with ro := false } }

/-- The writes of a store with their offsets: one, or the two halves of 128 bits (R381). -/
def storePieces (bs : List Byte) : List (Nat × List Byte) :=
  if bs.length ≤ 8 then [(0, bs)] else [(0, bs.take 8), (8, bs.drop 8)]

/-- The appends of KVAPP without the marks of the warps that know of them (assumption 19). -/
def State.unlearnt (s : State) : List Appended := s.appended.map fun a => { a with known := [] }

/-- An instruction leaves all but its blocks, its loads and the marks of the L1 lines that it hit as it was; under a
hint other than the read-only promise the L1 too (R213, R214). -/
def State.keepsButLoads (s t : State) (hint : Nat) : Prop :=
  t = { s with blocks := t.blocks, cores := t.cores, loads := t.loads, nextId := t.nextId, stalls := t.stalls, cur := none } ∧
    t.unmarked = s.unmarked ∧ (hint ≠ 1 → t.cores = s.cores)

end Sys2Proof.Machine

open Sys2Proof Sys2Proof.Machine

/-- LD at every scope: from the L1, or on its way with its destination empty; an acquiring load has performed when its
lanes go on, or, of 128 bits, is on its way and holds its lanes. Nothing else changes (R211 to R214, R220, R381, R390).
LDS at every scope: its load of scratchpad is on its way (that it never fills at once is the model's choice, assumption
16), or with an acquire performed or holding its lanes likewise (R97, R212, R216). LDP: an offset past the end of a bound
window gives 0 and is counted; else it is a load from the window under the hint of read-only data (R23, R212, R217). -/
def Obligations.LoadResults : Prop :=
  (∀ (f : FormM) s is y (pa : Party → Nat), s.formed → s.selects is → let x := Ex.of s is
    let m := ldForm f x
    let size := sizeOf_ f.sz x.pf.modOf.wq
    m.issues x y → s.calm is.blk →
    (∀ p, m.acting x y p →
      ∃ e, s.maps is.blk (p.addr f.a (offOf x.pf f.off.toNat 7) size) size .load e (pa p)) →
    ∃ t, exec (.ld f) s = .next t ∧ x.moved m.sc y t ∧
      (x.pf.sem = 0 →
        (∀ p, m.acting x y p → t.tookLoad x m y p f.d.toNat (regsOf f.sz x.pf.modOf.wq) (pa p) size x.pf.modOf.sx f.h.toNat) ∧
        s.keepsButLoads t f.h.toNat ∧ m.keepsBlocks x t) ∧
      (x.pf.sem = 1 → x.pf.ms ≠ 0 → size ≤ 8 → ∀ p, m.alone x y p →
        t.holds is.blk p.warp (x.dest m.sc y p f.d.toNat)
          (loadWords ((List.range size).map fun i => s.newestByte x.b.coreNo (pa p + i)) x.pf.modOf.sx)) ∧
      (x.pf.sem = 1 → size = 16 → ∀ p, m.acting x y p → let d := x.dest m.sc y p f.d.toNat
        (m.sc = 0 → ∃ til, (t.lane is.blk p.warp p.lane).status = .held til) ∧
        ∃ id, t.emptyAt is.blk p.warp id d 4 ∧
          ({ id := id, blk := is.blk, warp := p.warp, lane := p.lane, dest := d, pa := pa p, size := 16,
             sx := x.pf.modOf.sx, hint := f.h.toNat, acq := some x.pf.ms } : LoadOp) ∈ t.loads)) ∧
  (∀ (f : FormMs8) s is y, s.formed → s.selects is → let x := Ex.of s is
    let m := ldsForm f x
    let size := sizeOf_ f.sz x.pf.modOf.wq
    let at_ (p : Party) : Nat := p.offset f.a (offOf x.pf f.off.toNat 7) size
    m.issues x y → s.calm is.blk →
    (∀ p, m.acting x y p → x.spFits (at_ p) size ∧ x.b.spPoisoned (at_ p) size = false) →
    ∃ t, exec (.lds f) s = .next t ∧ x.moved m.sc y t ∧
      (x.pf.sem = 0 → ∀ p, m.acting x y p → let d := x.dest m.sc y p f.d.toNat
        ∃ id, t.emptyAt is.blk p.warp id d (regsOf f.sz x.pf.modOf.wq) ∧
          ({ id := id, blk := is.blk, warp := p.warp, lane := p.lane, dest := d, pa := at_ p, size := size,
             sx := x.pf.modOf.sx, hint := 0, scratch := true } : LoadOp) ∈ t.loads) ∧
      (x.pf.sem = 1 → size ≤ 8 → ∀ p, m.acting x y p → t.holds is.blk p.warp (x.dest m.sc y p f.d.toNat)
        (loadWords ((List.range size).map fun i => Memory.read x.b.sp (at_ p + i)) x.pf.modOf.sx)) ∧
      (x.pf.sem = 1 → size = 16 → ∀ p, m.acting x y p → let d := x.dest m.sc y p f.d.toNat
        (m.sc = 0 → ∃ til, (t.lane is.blk p.warp p.lane).status = .held til) ∧
        ∃ id, t.emptyAt is.blk p.warp id d 4 ∧
          ({ id := id, blk := is.blk, warp := p.warp, lane := p.lane, dest := d, pa := at_ p, size := 16,
             sx := x.pf.modOf.sx, hint := 0, scratch := true, acq := some 0 } : LoadOp) ∈ t.loads) ∧
      t = { s with blocks := t.blocks, loads := t.loads, appended := t.appended, nextId := t.nextId, stalls := t.stalls,
                   cur := none } ∧ t.unlearnt = s.unlearnt ∧ m.keepsBlocks x t) ∧
  (∀ (f : FormP) s is y (pa : Party → Nat) win, s.formed → s.selects is → let x := Ex.of s is
    let m := ldpForm f
    let size := sizeOf_ f.sz false
    let off := offOf x.pf f.off.toNat 5
    let at_ (p : Party) : Nat := (if f.a.toNat = 63 then 0 else (p.view.val f.a.toNat).toNat) + off * size
    let L := s.launch x.b.launch
    m.issues x y → s.calm is.blk → x.b.launch < s.launches.length → L.rcd.windows.getD f.win.toNat none = some win →
    (∀ p, m.acting x y p → at_ p % size = 0 ∧ (at_ p + size ≤ win.size.toNat →
      ∃ e, s.maps is.blk (win.base + BitVec.ofNat 64 (at_ p)) size .load e (pa p))) →
    ∃ t, exec (.ldp f) s = .next t ∧ x.moved m.sc y t ∧
      (∀ p, m.acting x y p → win.size.toNat < at_ p + size →
        t.holds is.blk p.warp (x.dest m.sc y p f.d.toNat) (List.replicate (regsOf f.sz false) 0) ∧
        (t.launch x.b.launch).winSticky.getLsbD f.win.toNat = true ∧
        (L.oob.toNat < 2 ^ 32 - 1 → L.oob.toNat < (t.launch x.b.launch).oob.toNat)) ∧
      ((∀ p, m.acting x y p → at_ p + size ≤ win.size.toNat) →
        (∀ p, m.acting x y p → t.tookLoad x m y p f.d.toNat (regsOf f.sz false) (pa p) size x.pf.modOf.sx 1) ∧
        s.keepsButLoads t 1 ∧ m.keepsBlocks x t))

/-- ST and ST.mc at every scope: each acting party's write is on its way to the address, or to every replica of it, with
its release if it has one; memory, every L1 and every register are as they were (R212, R218 to R220). STS at every scope:
each acting party's write to scratchpad is on its way, with its release; scratchpad, memory and every register are as
they were (R212, R218, R220). That no write is performed within its instruction is the model's choice (assumption 16). -/
def Obligations.StoreResults : Prop :=
  (∀ (f : FormW) s is y (pa : Party → Nat) (e : Party → DWord), s.formed → s.selects is → let x := Ex.of s is
    let m := stForm f false x
    let size := sizeOf_ f.sz x.pf.modOf.wq
    m.issues x y → s.calm is.blk →
    (∀ p, m.acting x y p → s.maps is.blk (p.addr f.a (offOf x.pf f.off.toNat 6) size) size .store (e p) (pa p)) →
    let pas (p : Party) : List Nat := if x.pf.modOf.hi then replicas (e p) (pa p) else [pa p]
    ∃ t, exec (.st f) s = .next t ∧ x.moved m.sc y t ∧
      (∀ p, m.acting x y p → ∀ q ∈ storePieces (regBytes p.view f.b.toNat (regsOf f.sz x.pf.modOf.wq) size),
        ∃ o ∈ t.stores, o.blk = is.blk ∧ o.warp = p.warp ∧ o.lane = p.lane ∧ o.scratch = false ∧
          o.atCore = false ∧ o.pas = (pas p).map (· + q.1) ∧ o.bytes = q.2 ∧
          o.rel.map (·.ms) = if x.pf.sem = 2 then some x.pf.ms else none) ∧
      (∀ o ∈ t.stores, o.blk = is.blk → ∃ p, m.acting x y p ∧ ∃ q ∈ [0, 8], q < size ∧ o.pas = (pas p).map (· + q)) ∧
      t = { s with blocks := t.blocks, stores := t.stores, nextId := t.nextId, stalls := t.stalls, cur := none } ∧
      m.keepsBlocks x t) ∧
  (∀ (f : FormW) s is y, s.formed → s.selects is → let x := Ex.of s is
    let m := stForm f true x
    let size := sizeOf_ f.sz x.pf.modOf.wq
    let at_ (p : Party) : Nat := p.offset f.a (offOf x.pf f.off.toNat 6) size
    m.issues x y → s.calm is.blk → (∀ p, m.acting x y p → x.spFits (at_ p) size) →
    ∃ t, exec (.sts f) s = .next t ∧ x.moved m.sc y t ∧
      (∀ p, m.acting x y p → ∃ o ∈ t.stores, o.blk = is.blk ∧ o.warp = p.warp ∧ o.lane = p.lane ∧ o.scratch = true ∧
        o.atCore = false ∧ o.pas = [at_ p] ∧ o.bytes = regBytes p.view f.b.toNat (regsOf f.sz x.pf.modOf.wq) size ∧
        o.rel.map (·.ms) = if x.pf.sem = 2 then some 0 else none) ∧
      (∀ o ∈ t.stores, o.blk = is.blk → ∃ p, m.acting x y p ∧ o.pas = [at_ p]) ∧
      t = { s with blocks := t.blocks, stores := t.stores, nextId := t.nextId, stalls := t.stalls, cur := none } ∧
      m.keepsBlocks x t)

namespace Sys2Proof.Machine

/-- None of a warp's accesses on its way carries a release, and no FENCE of its block has one to come. -/
def State.noRelease (s : State) (b w : Nat) : Prop :=
  (∀ o ∈ s.fences, o.blk ≠ b) ∧ (∀ o ∈ s.stores, o.blk = b → o.warp = w → o.rel = none) ∧
    ∀ o ∈ s.atoms, o.blk = b → o.warp = w → o.rel = none

/-- A lane has no load and no returning atomic on its way, of its own or of its warp. -/
def State.readsDone (t : State) (b : Nat) (q : Nat × Nat) : Prop :=
  (∀ o ∈ t.loads, o.blk = b → o.warp = q.1 → o.lane ≠ q.2 ∧ o.lane ≠ 32) ∧
    ∀ o ∈ t.atoms, o.blk = b → o.warp = q.1 → o.dest.isSome → o.lane ≠ q.2 ∧ o.lane ≠ 32

/-- A lane has no access on its way that is not performed at its core. -/
def State.accessesDone (t : State) (b : Nat) (q : Nat × Nat) : Prop :=
  (∀ o ∈ t.stores, o.blk = b → o.warp = q.1 → o.lane = q.2 ∨ o.lane = 32 → o.atCore = true) ∧
    (∀ o ∈ t.loads, o.blk = b → o.warp = q.1 → o.lane ≠ q.2 ∧ o.lane ≠ 32) ∧
    ∀ o ∈ t.atoms, o.blk = b → o.warp = q.1 → o.lane ≠ q.2 ∧ o.lane ≠ 32

/-- A PIN of a line in L1 is granted: the block holds it pinned, or pins leave an unpinned way in its set and the
context within its quota (R77, R223). -/
def State.l1PinOk (s : State) (b line : Nat) : Prop :=
  let B := s.blk b
  let held (p : L1Line → Prop) : Prop := ∃ z ∈ (s.core B.coreNo).l1, z.ctx = B.ctx ∧ z.line = line ∧ p z
  let mine (z : L1Line) : Bool := z.pins.any fun p => (s.blk p).ctx == B.ctx
  held (fun z => b ∈ z.pins) ∨
    (held (fun z => z.pins ≠ []) ∨
      s.l1Pinned B.coreNo (fun z => s.l1SetOf B.coreNo z.line == s.l1SetOf B.coreNo line) + 1 < 8) ∧
    (held (fun z => mine z = true) ∨ s.l1Pinned B.coreNo mine + 1 ≤ (s.ctx B.ctx).pinL1)

/-- A PIN of a line in L2 is granted: the context holds it pinned, or its die homes it, pins leave an unpinned way of
those that the context may use in its set, and the context stays within its quota (R70, R77, R86, R223). -/
def State.l2PinOk (s : State) (b pa : Nat) : Prop :=
  let B := s.blk b
  let c := s.ctx B.ctx
  let key := (B.die, lineNo pa)
  let sharers := if c.sealed_ then [c] else s.ctxs.filter fun x => !x.sealed_
  let inSet := (sharers.flatMap (·.l2pins)).filter fun p => p.1 == B.die && l2SetOf p.2 == l2SetOf (lineNo pa)
  key ∈ c.l2pins ∨ (if isHost pa then True else homeDie pa = B.die) ∧
    ((∃ p ∈ inSet, p.2 = lineNo pa) ∨ inSet.eraseDups.length + 1 < s.l2Ways c B.die) ∧
    (c.l2pins.filter fun p => p.1 == B.die).length + 1 ≤ c.pinL2

/-- The status of a CARVE that asks for so many bytes (R68). -/
def State.carveCode (s : State) (b ask : Nat) : Nat :=
  let B := s.blk b
  let new := (ask + 16383) / 16384
  let used := ((s.residents B.coreNo).map fun p => p.2.regGran + if p.1 = b then new else p.2.spGran).sum
  let left := 64 - used
  let pinned := (s.core B.coreNo).l1.filter fun z => !z.pins.isEmpty
  let setOf (z : L1Line) : Nat := Config.l1Set left z.line % (16 * left)
  if new = B.spGran then 0
  else if 524288 < ask then 1
  else if 64 < used ∨ ∃ p ∈ s.residents B.coreNo, left < p.2.l1Gran then 2
  else if ∃ z ∈ pinned, 8 ≤ (pinned.filter fun y => setOf y == setOf z).length then 3
  else 0

end Sys2Proof.Machine

open Sys2Proof Sys2Proof.Machine

/-- FENCE: with an acquire the earlier loads and returning atomics of its lanes are performed; with a release every
earlier access is, or the release is still to come, before the lane's later stores; with none on its way it takes place
at once, and at cluster scope or wider writes the warp's write set home and tells the cores that it reaches (R222, R389).
PIN: status 1 where its line may be pinned, which it then is, 0 with nothing pinned where not, 2 where its address does not
translate; UNPIN, INVL1 and WBL2, which order no access, PREF and SIGQ (R70, R77, R78, R86, R223 to R225). CARVE: once no
engine operation of the block is outstanding, the status of its table goes to the w register of every warp with a live
lane, and where it is 0 the scratchpad has the size asked for (R68, R148). -/
def Obligations.FenceCacheResults : Prop :=
  (∀ (f : FormF) s is y, s.formed → s.selects is → let x := Ex.of s is
    let m := memcForm f.warp [1, 2, 3] [] [] []
    let sem := if x.pf.ord.isSome then x.pf.sem else 3
    let releases : Prop := sem = 2 ∨ sem = 3
    m.issues x y → s.noDeq is.blk →
    ∃ t, exec (.fence f) s = .next t ∧ x.moved m.sc y t ∧
      (∀ q ∈ x.ordered m.sc y, (sem = 1 ∨ sem = 3 → t.readsDone is.blk q) ∧
        (releases → t.accessesDone is.blk q ∨
          ∃ F ∈ t.fences, F.blk = is.blk ∧ F.warp = is.warp ∧ F.lanes.getLsbD q.2 = true ∧ F.ms = x.pf.ms)) ∧
      (s.calm is.blk → releases → t.fences = s.fences ∧ (x.pf.ms ≠ 0 →
        (∀ a, a / 64 ∈ x.w.wset → Memory.read t.mem a = s.newestByte x.b.coreNo a) ∧
        ∀ c < s.cores.length, c ≠ x.b.coreNo → reaches x.pf.ms x.b.die x.b.cluster c = true →
          ∀ sec ∈ x.w.wset, (t.core c).pending.hit sec = true))) ∧
  ((∀ (f : FormPin) s is y (pa : Party → Nat), s.formed → s.selects is → let x := Ex.of s is
    let sc := if f.warp then 1 else 0
    let m := memcForm f.warp [] [⟨scopeClass sc, f.d.toNat, 1, false⟩, ⟨scopeClass sc, f.a.toNat, 2, false⟩]
      [⟨f.a.toNat, 2, false, .own⟩] [f.d.toNat]
    m.issues x y → s.calm is.blk →
    (∀ p, m.acting x y p → ∃ e, s.maps is.blk (p.addr f.a 0 1) 1 .load e (pa p)) →
    ∃ t, exec (.pin f) s = .next t ∧ x.moved m.sc y t ∧ ∀ p, m.acting x y p → ∃ v,
      t.holds is.blk p.warp (x.dest m.sc y p f.d.toNat) [v] ∧ (v = 0 ∨ v = 1) ∧
      (m.alone x y p → (v = 1 ↔ if f.lvl then s.l2PinOk is.blk (pa p) else s.l1PinOk is.blk (lineNo (pa p))) ∧
        (v = 0 → t.cores = s.cores ∧ t.ctxs = s.ctxs)) ∧
      (v = 1 → f.lvl = false → x.b.coreNo < s.cores.length →
        ∃ z ∈ (t.core x.b.coreNo).l1, z.ctx = x.b.ctx ∧ z.line = lineNo (pa p) ∧ is.blk ∈ z.pins) ∧
      (v = 1 → f.lvl = true → (s.ctx? x.b.ctx).isSome → (x.b.die, lineNo (pa p)) ∈ (t.ctx x.b.ctx).l2pins)) ∧
  (∀ (f : FormPin) s is y p, s.formed → s.selects is → let x := Ex.of s is
    let sc := if f.warp then 1 else 0
    let m := memcForm f.warp [] [⟨scopeClass sc, f.d.toNat, 1, false⟩, ⟨scopeClass sc, f.a.toNat, 2, false⟩]
      [⟨f.a.toNat, 2, false, .own⟩] [f.d.toNat]
    let va := p.addr f.a 0 1
    m.issues x y → m.alone x y p →
    (canonical va = false ∨ s.lookup (corePlace x.b.coreNo) x.b.ctx va = none ∧ ∃ c, s.walk x.b.ctx va = .inl c) →
    ∃ t, exec (.pin f) s = .next t ∧ x.moved m.sc y t ∧ t.holds is.blk p.warp (x.dest m.sc y p f.d.toNat) [2] ∧
      t.cores = s.cores ∧ t.ctxs = s.ctxs) ∧
  (∀ (f : FormMc) s is y (pa : Party → Nat), s.formed → s.selects is → let x := Ex.of s is
    let m := lineForm f true
    m.issues x y → s.calm is.blk →
    (∀ p, m.acting x y p → ∃ e, s.maps is.blk (p.addr f.a 0 1) 1 .load e (pa p)) →
    ∃ t, exec (.unpin f) s = .next t ∧ x.moved m.sc y t ∧ t.mem = s.mem ∧ ∀ p, m.acting x y p →
      if f.lvl then (x.b.die, lineNo (pa p)) ∉ (t.ctx x.b.ctx).l2pins
      else ∀ z ∈ (t.core x.b.coreNo).l1, z.ctx = x.b.ctx → z.line = lineNo (pa p) → is.blk ∉ z.pins) ∧
  (∀ (f : FormMc) s is y (pa : Party → Nat), s.formed → s.selects is → let x := Ex.of s is
    let m := lineForm f (!f.lvl)
    m.issues x y →
    (f.lvl = false → ∀ p, m.acting x y p → ∃ e, s.maps is.blk (p.addr f.a 0 1) 1 .load e (pa p)) →
    let L := (s.core x.b.coreNo).l1
    let home (t : State) (p : Party) : Prop :=
      ∀ z ∈ L, lineNamed x f.lvl (pa p) z → (∀ z' ∈ L, z'.line = z.line → z' = z) →
        ∀ i < 128, z.dirty.getLsbD i = true → Memory.read t.mem (z.line * 128 + i) = z.bytes.getD i 0
    (∃ t, exec (.invl1 f) s = .next t ∧ x.moved m.sc y t ∧ t.loads = s.loads ∧ t.stores = s.stores ∧
      ∀ p, m.acting x y p → home t p ∧
      ∀ z ∈ (t.core x.b.coreNo).l1, lineNamed x f.lvl (pa p) z → z.pins ≠ [] ∧ z.dirty = 0 ∧ z.void = true) ∧
    ∃ t, exec (.wbl2 f) s = .next t ∧ x.moved m.sc y t ∧ t.loads = s.loads ∧ t.stores = s.stores ∧ (∀ a, (∀ z ∈ L, z.dirty = 0 ∨ z.line ≠ a / 128) →
        Memory.read t.mem a = Memory.read s.mem a) ∧ ∀ p, m.acting x y p → home t p ∧
      ∀ z ∈ (t.core x.b.coreNo).l1, lineNamed x f.lvl (pa p) z → z.dirty = 0) ∧
  (∀ (f : FormMc) s is y, s.formed → s.selects is → let x := Ex.of s is
    let m := lineForm f true
    m.issues x y → ∃ t, exec (.pref f) s = .next t ∧ x.moved m.sc y t ∧ (t.blk is.blk).halt = x.b.halt ∧
      ∀ p, m.acting x y p → canonical (p.addr f.a 0 1) = true →
        s.lookup (corePlace x.b.coreNo) x.b.ctx (p.addr f.a 0 1) = none →
        ∃ w ∈ t.pageWalks, w.core = x.b.coreNo ∧ w.ctx = x.b.ctx ∧ w.va = p.addr f.a 0 1) ∧
  ∀ (f : FormED) s is s1 y, s.formed → s.selects is → let x := Ex.of s is
    let n := x.w.wset.length
    x.uniformGoes {} [wOpd f.d 1] true s1 y → s.noRelease is.blk is.warp →
    ∃ t, exec (.sigq f) s = .next t ∧ x.past y t ∧
      (t.warp is.blk is.warp).reg f.d.toNat = if 256 < n then 0x80000101 else BitVec.ofNat 32 n) ∧
  (∀ (f : FormDA) s is s1 y, s.formed → s.selects is → let x := Ex.of s is
    let ask := ((x.b.warp x.b.firstLive).reg f.a.toNat).toNat
    x.legal {} [wOpd f.d 1, wOpd f.a 1] = true → x.completes .block 15 s1 y → s.spBusy is.blk = false →
    let st := s.carveCode is.blk ask
    ∃ t, exec (.carve f) s = .next t ∧ x.past y t ∧
      (∀ w < x.b.warps.length, (x.b.warp w).live ≠ 0 → (t.warp is.blk w).reg f.d.toNat = BitVec.ofNat 32 st) ∧
      (st = 0 → (t.blk is.blk).spGran = (ask + 16383) / 16384) ∧ (st ≠ 0 → (t.blk is.blk).spGran = x.b.spGran) ∧
      ∀ a < min x.b.spSize (t.blk is.blk).spSize, (∀ o ∈ s.stores, o.blk = is.blk → o.scratch = false) →
        (∀ o ∈ s.atoms, o.blk = is.blk → o.scratch = false) → Memory.read (t.blk is.blk).sp a = Memory.read x.b.sp a)

/-- LOAD_FILL: a load ends, and its registers hold the bytes that its core has for the address, those of the home where
it acquires, or scratchpad's, extended to 32 bits; one of 128 bits reads its halves one after the other, unless it reads
a sync word with an arrival on its way (R97, R213, R214, R236, R381, R390). STORE_PERFORMED: a write to scratchpad puts
its bytes there and nowhere else, 128 bits in two halves likewise; a write to memory is next seen by its core, its
release before it, then home with the line written back (R218 to R220, R387, R389). TRANSLATION_WALK_COMPLETE: the walk
ends for every miss that has joined it, within the die's 128 walks, or 16 for a sealed context, and the buffers on its
way hold the page's entry; a walk that finds none leaves none (R75, R86). -/
def Obligations.AccessesPerformed : Prop :=
  (∀ s (o : LoadOp) l first, s.formed → s.loads.find? (fun x => x.id == o.id && s.isFirst x.pend) = some o →
    o.blk < s.blocks.length → o.warp < (s.blk o.blk).warps.length → o.dest = .v l first → l < 32 →
    (s.lane o.blk o.warp l).live = true → o.size ∈ [1, 2, 4, 8, 16] → o.pa % o.size = 0 → first + max 1 (o.size / 4) ≤ 64 →
    let b := s.blk o.blk
    let load (a n : Nat) : List Byte :=
      if o.scratch then (List.range n).map fun i => Memory.read b.sp (a + i)
      else if o.acq.getD 0 = 0 then s.loadBytes b.coreNo b.ctx a n o.hint (s.launch b.launch).taken
      else (List.range n).map fun i => s.newestByte b.coreNo (a + i)
    let ends (bs : List Byte) : Prop :=
      ∃ t, exec (.loadFill o.id) s = .next t ∧ t.loads = s.loads.filter (fun x => x.id != o.id) ∧
        t.holds o.blk o.warp o.dest (loadWords bs o.sx) ∧ (t.lane o.blk o.warp l).pc = (s.lane o.blk o.warp l).pc
    match o.half with
      | none => if o.size ≤ 8 ∨ o.scratch = true ∧ s.syncInFlight o.blk o.pa = true then ends (load o.pa o.size)
        else ∃ t hi, exec (.loadFill o.id) s = .next t ∧ (t.lane o.blk o.warp l).v = (s.lane o.blk o.warp l).v ∧
          { o with half := some (hi, load (if hi then o.pa + 8 else o.pa) 8) } ∈ t.loads
      | some (hi, half) => o.size = 16 → half.length = 8 → ends (if hi then load o.pa 8 ++ half else half ++ load (o.pa + 8) 8)) ∧
  (∀ s (o : StoreOp) a, s.formed → s.stores.find? (fun x => x.id == o.id && (x.atCore || s.isFirst x.pend)) = some o →
    o.blk < s.blocks.length → o.pas = [a] → o.multicast = false →
    let n := (s.blk o.blk).coreNo
    let ctx := (s.blk o.blk).ctx
    let size := o.bytes.length
    (o.scratch = true → o.atCore = false → o.rel = none → size ≤ 8 ∨ s.syncInFlight o.blk a = true →
      ∃ t, exec (.storePerformed o.id) s = .next t ∧ t.stores = s.stores.filter (fun x => x.id != o.id) ∧ t.mem = s.mem ∧
      ∀ i, Memory.read (t.blk o.blk).sp i =
        if a ≤ i ∧ i < a + size then o.bytes.getD (i - a) 0 else Memory.read (s.blk o.blk).sp i) ∧
    (o.scratch = true → o.atCore = false → o.rel = none → size = 16 → s.syncInFlight o.blk a = false →
      ∃ t, ∃ now ∈ [0, 8], exec (.storePerformed o.id) s = .next t ∧ t.mem = s.mem ∧
      (∃ x ∈ t.stores, x.id = o.id ∧ x.pas = [a + 8 - now] ∧ x.bytes = (o.bytes.drop (8 - now)).take 8) ∧
      ∀ i, Memory.read (t.blk o.blk).sp i =
        if a + now ≤ i ∧ i < a + now + 8 then o.bytes.getD (i - a) 0 else Memory.read (s.blk o.blk).sp i) ∧
    (o.scratch = false → o.atCore = false → a % 128 + size ≤ 128 → n < s.cores.length →
      o.warp < (s.blk o.blk).warps.length → ∀ r, o.rel = some r → r.ms ≠ 0 →
      ∃ t, exec (.storePerformed o.id) s = .next t ∧ ∀ i, i / 64 ∈ (s.warp o.blk o.warp).wset → i < a ∨ a + size ≤ i →
        Memory.read t.mem i = s.newestByte n i) ∧
    (o.scratch = false → o.atCore = false → a % 128 + size ≤ 128 → n < s.cores.length → o.rel = none →
      ∃ t, exec (.storePerformed o.id) s = .next t ∧
        (∀ i < size, t.ownByte n ctx (a + i) = o.bytes.getD i 0) ∧
        (∀ x ∈ t.stores, x.id = o.id → x.atCore = true) ∧
        ∀ i, (i < a ∨ a + size ≤ i) →
          (∀ z ∈ (s.core n).l1, z.line = lineNo i → z.ctx = ctx ∨ z.dirty.getLsbD (i % 128) = false) →
          t.ownByte n ctx i = s.ownByte n ctx i) ∧
    (o.atCore = true → ∃ t, exec (.storePerformed o.id) s = .next t ∧
      t.stores = s.stores.filter (fun x => x.id != o.id) ∧ (∀ z ∈ (t.core n).l1, z.line = lineNo a → z.dirty = 0) ∧
      ∀ i, Memory.read t.mem i = if i / 128 = a / 128 then s.newestByte n i else Memory.read s.mem i)) ∧
  (∀ s k (p : PageWalk), s.pageWalks[k]? = some p → canonical p.va = true →
    let d := coreDie p.core
    ((s.ctx p.ctx).sealed_ = true → s.walksOf p.ctx d = 16) ∧
    ((s.ctx p.ctx).sealed_ = false → (∀ c ∈ s.ctxs, c.sealed_ = false) → s.walksOf p.ctx d = 128) ∧
    (s.lookup (corePlace p.core) p.ctx p.va = none → d < s.dies.length →
    (∀ q ∈ s.pageWalks.take k, s.sameWalk p q = false) → (s.walksBefore k p).length < s.walksOf p.ctx d →
    ∃ t, exec (.translationWalkComplete k) s = .next t ∧ t.pageWalks = s.pageWalks.filter (fun q => !s.sameWalk p q) ∧
      match s.walk p.ctx p.va with
      | .inl _ => (∀ q ∈ s.pageWalks, s.sameWalk p q = true → s.lookup (corePlace q.core) q.ctx q.va = none) → t.dies = s.dies
      | .inr (e, n) => ∀ q ∈ placeChain (corePlace p.core), ∃ z ∈ (t.die d).tlb,
          z = ⟨q, p.ctx, p.va.toNat / n * n, n, e⟩))

namespace Sys2Proof.Machine

/-! ### Atomics, sync words, pipes and tasks -/

/-- What an operation writes, from the old value and its operands (R359, R361, R362). -/
def atomResult (o : AtomOpn) (old b b2 : Word) : Word :=
  match o with
  | .add => old + b
  | .exch => b
  | .mins => if old.toInt ≤ b.toInt then old else b
  | .maxs => if old.toInt ≤ b.toInt then b else old
  | .and => old &&& b
  | .or => old ||| b
  | .xor => old ^^^ b
  | .cas => if old = b then b2 else old
  | .fadd => round32 1 (Val.add false (f32 old) (f32 b))
  | .fmin => BitVec.ofNat 32 (Machine.pick 0 false true old.toNat b.toNat)
  | .fmax => BitVec.ofNat 32 (Machine.pick 0 true true old.toNat b.toNat)
  | .incw => if b.toNat ≤ old.toNat then 0 else old + 1
  | .maxn => if old.toNat ≤ b.toNat then b else old
  | .hadd2 => ofHalves fun i => round16 2 1 (Val.add false (halfVal 2 i old) (halfVal 2 i b))
  | .badd2 => ofHalves fun i => round16 3 1 (Val.add false (halfVal 3 i old) (halfVal 3 i b))

/-- The global atomics, with the registers of B (R359). -/
def atomics : List ((FormT → Instr) × AtomOpn × Nat) :=
  [(.atomAdd, .add, 1), (.atomExch, .exch, 1), (.atomMins, .mins, 1), (.atomMaxs, .maxs, 1), (.atombAnd, .and, 1),
   (.atombOr, .or, 1), (.atombXor, .xor, 1), (.atombCas, .cas, 2), (.atomfFadd, .fadd, 1), (.atomfFmin, .fmin, 1),
   (.atomfFmax, .fmax, 1), (.atomfIncw, .incw, 1)]

/-- The scratchpad atomics (R361). -/
def scratchAtomics : List ((FormT → Instr) × AtomOpn × Nat) :=
  [(.atomsAdd, .add, 1), (.atomsExch, .exch, 1), (.atomsCas, .cas, 2), (.atomsMaxn, .maxn, 1)]

/-- The reductions (R362). -/
def reductions : List ((FormR → Instr) × AtomOpn) :=
  [(.redAdd, .add), (.redMins, .mins), (.redMaxs, .maxs), (.redAnd, .and), (.redOr, .or), (.redXor, .xor),
   (.redFadd, .fadd), (.redHadd2, .hadd2), (.redBadd2, .badd2)]

/-- An atomic on the run of its issue: SC of lane or warp, A of two registers or of one (R355, R359, R361). -/
def atomForm (f : FormT) (scratch : Bool) (nb : Nat) : MemForm :=
  let sc := if f.warp then 1 else 0
  let na := if scratch then 1 else 2
  { sc := sc, acc := { mod := true, k := f.warp, ord := if scratch then [1, 2, 3] else [0, 1, 2, 3], ms0 := scratch },
    ops := [⟨scopeClass sc, f.d.toNat, 1, false⟩, ⟨scopeClass sc, f.a.toNat, na, false⟩, ⟨scopeClass sc, f.b.toNat, nb, false⟩],
    srcs := [⟨f.a.toNat, na, false, .own⟩, ⟨f.b.toNat, nb, false, .own⟩], dst := [f.d.toNat], gn := f.gn, gp := f.gp }

/-- A reduction on the run of its issue (R362). -/
def redForm (f : FormR) : MemForm :=
  let sc := if f.warp then 1 else 0
  let na := if f.sp then 1 else 2
  { sc := sc, acc := { mod := true, k := f.warp, ord := [2], ms0 := f.sp },
    ops := [⟨scopeClass sc, f.a.toNat, na, false⟩, ⟨scopeClass sc, f.b.toNat, 1, false⟩],
    srcs := [⟨f.a.toNat, na, false, .own⟩, ⟨f.b.toNat, 1, false, .own⟩], gn := f.gn, gp := f.gp }

/-- The home of each address has room for the operations of a warp (R357). -/
def State.homesFit (s : State) (ctx : Nat) (pas : Nat → Prop) : Prop :=
  ∀ a, pas a → (s.atoms.filter fun o => !o.scratch &&
    s.homeCluster (s.blk o.blk).ctx o.pa == s.homeCluster ctx a).length + 32 ≤ Config.aswQueue

/-- A party's atomic or reduction is on its way, with its operands, and what it will acquire (R359, R363). -/
def State.sentAtom (t : State) (x : Ex) (p : Party) (opn : AtomOpn) (scratch : Bool) (pa : Nat) (b b2 : Word) (d : Option Dest)
    (acq : Option Nat) : Prop :=
  ∃ o ∈ t.atoms, o.blk = x.is.blk ∧ o.warp = p.warp ∧ o.lane = p.lane ∧ o.opn = opn ∧ o.scratch = scratch ∧ o.pa = pa ∧
    o.b = b ∧ o.b2 = b2 ∧ o.dest = d ∧ o.acq = acq ∧ o.early = none ∧ ∀ e, d = some e → t.emptyAt x.is.blk p.warp o.id e 1

/-- A lane whose atomic acquires is held until the reply has been written (R363). -/
def State.heldFor (t : State) (x : Ex) (sc : Nat) (p : Party) : Prop :=
  sc = 0 → x.pf.sem = 1 ∨ x.pf.sem = 3 → ∃ til, (t.lane x.is.blk p.warp p.lane).status = .held til

/-- A word of scratchpad. -/
def Block.spWord (b : Block) (off : Nat) : Word := BitVec.ofNat 32 (leNat (Memory.readBytes b.sp off 4))

/-- The word at an address as a core's own writes have left it. -/
def State.newestWord (s : State) (n a : Nat) : Word :=
  BitVec.ofNat 32 (leNat ((List.range 4).map fun i => s.newestByte n (a + i)))

/-- The operands of an atomic in the registers of a party. -/
def Party.second (p : Party) (b : BitVec 6) (nb : Nat) : Word := if nb = 2 then p.view.val (b.toNat + 1) else 0

/-- The four words of a sync word: TARGET, COUNT, GEN and FLAGS (R233). -/
def Block.syncIs (b : Block) (off : Nat) (target count : Nat) (gen flags : Word) : Prop :=
  b.spWord off = BitVec.ofNat 32 target ∧ b.spWord (off + 4) = BitVec.ofNat 32 count ∧ b.spWord (off + 8) = gen ∧
    b.spWord (off + 12) = flags

/-- A sync word after an arrival of n bytes (R234). -/
def Block.syncAfter (b b' : Block) (off n : Nat) : Prop :=
  let target := (b.spWord off).toNat
  let count := (b.spWord (off + 4)).toNat + n
  if target = 0 then
    b'.syncIs off 0 (min count (2 ^ 32 - 1)) (b.spWord (off + 8))
      (if 2 ^ 32 ≤ count then b.spWord (off + 12) ||| 2 else b.spWord (off + 12))
  else b'.syncIs off target (count % target) (b.spWord (off + 8) + BitVec.ofNat 32 (count / target)) (b.spWord (off + 12))

/-- A sync word after an engine's arrival, with ERR where it has failed, if there is a word (R234, R340). -/
def Block.syncRaised (b b' : Block) (off n : Nat) (err : Bool) : Prop :=
  off = 2 ^ 32 - 1 ∨ ∃ c : Block, b.syncAfter c off n ∧
    b'.syncIs off (c.spWord off).toNat (c.spWord (off + 4)).toNat (c.spWord (off + 8))
      (if err then c.spWord (off + 12) ||| 1 else c.spWord (off + 12))

/-- Whether the head of a pipe may be popped: its pusher's writes up to its stamp have drained (R365, R366). -/
def Block.canPop (b : Block) (p : Nat) : Prop :=
  ∃ e, (b.pipes.getD p [])[0]? = some e ∧ ((b.warp e.warp).drained - e.stamp).toNat < 2 ^ 31

/-- No warp of a block waits in a POP of a pipe. -/
def Block.noPop (b : Block) (p : Nat) : Prop := ∀ W ∈ b.warps, ∀ q d k, W.wait = some (.pop q d k) → q ≠ p

/-- Eight registers of a warp from one on. -/
def Warp.eight (w : Warp) (first : Nat) : List Word := (codes first 8).map w.reg

/-- An entry as the device enqueues it: FLAGS zero, but for the cancelled bit of a template (R30, R48, R371). -/
def enqueued (ws : List Word) (cancelled : Bool) : QEntry :=
  ⟨((ws.headD 0 &&& 0xFFFF) ||| if cancelled then 0x20000 else 0) :: ws.tail, none⟩

/-- A task queue of a context. -/
def State.queueOf (s : State) (ctx q : Nat) : TaskQ := (s.ctx ctx).queues.getD q default

/-- A queue with room for some entries (R371). -/
def TaskQ.fits (q : TaskQ) (n : Nat) : Prop := q.enable = true ∧ q.entries.length + n ≤ Config.taskQueue

/-- A TASK instruction of lane or warp scope on the run of its issue (R367). -/
def taskForm (warp : Bool) (ops : List (BitVec 6 × Nat)) : MemForm :=
  let sc := if warp then 1 else 0
  { sc := sc, acc := { mod := true, k := warp }, ops := ops.map fun o => ⟨scopeClass sc, o.1.toNat, o.2, false⟩,
    srcs := ops.map fun o => ⟨o.1.toNat, o.2, false, .own⟩ }

/-- DEQ on the run of its issue (R368). -/
def deqForm (f : FormDB) : MemForm :=
  { sc := 0, acc := { mod := true }, ops := [⟨.v, f.d.toNat, 8, false⟩], srcs := [], dst := codes f.d.toNat 8 }

/-- ENQ at lane scope on the run of its issue (R371). -/
def enqForm (f : FormN) : MemForm :=
  { sc := 0, acc := { mod := true }, ops := [⟨.v, f.b.toNat, 8, false⟩], srcs := [⟨f.b.toNat, 8, false, .own⟩],
    gn := f.gn, gp := f.gp }

/-- Lanes at warp scope whose guard is true and that a stalled ENQ has not yet served (R371). -/
def Ex.enqLanes (x : Ex) (y : Inst) (gn : Bool) (gp : BitVec 3) : List Nat :=
  (lanesOf ((x.b.needed y).getD x.is.warp 0)).filter fun l => (x.w.lane l).guard gn gp && !y.served.getLsbD l

/-- A counter of a context, by its index (R46). -/
def State.counterAt (s : State) (ctx : Nat) (i : Word) : Counter :=
  (s.die (s.ctx ctx).taskDie).counters.getD ((s.ctx ctx).cbase + i.toNat) default

/-- A counter after DONE, DEPADD or CANCEL (R48). -/
def counterAfter (c : Counter) (k : CtrKind) : Counter :=
  match k with
  | .done cancelled => { c with cxl := c.cxl || cancelled, count := c.count - 1 }
  | .depadd n => { c with count := BitVec.ofInt 32 (max 0 ((c.count.toNat : Int) + n.toInt)) }
  | .cancel => { c with cxl := true, count := 0 }

end Sys2Proof.Machine

open Sys2Proof Sys2Proof.Machine

/-- Atomics and RED, global where the homes have room and in scratchpad: the operation is on its way with D empty, and
with an acquire its lane is held until the reply has been written (R357 to R359, R361 to R363); that one of scratchpad too
is never performed within its instruction is the model's choice (assumption 16). ASW_REQUEST and ATOMIC_REPLY: the home,
or the scratchpad unit, performs the operation on its word and on no other byte, its release before it, and the old value
then comes to its register (R357 to R359, R361, R363, R389). -/
def Obligations.AtomicResults : Prop :=
  ((∀ q ∈ atomics, ∀ f s is y (pa : Party → Nat), s.formed → s.selects is → let x := Ex.of s is
    let m := atomForm f false q.2.2
    m.issues x y → s.calm is.blk →
    (∀ p, m.acting x y p → ∃ e, s.maps is.blk (p.addr f.a 0 4) 4 .atomic e (pa p)) →
    s.homesFit x.b.ctx (fun a => ∃ p, m.acting x y p ∧ a = pa p) →
    ∃ t, exec (q.1 f) s = .next t ∧ x.moved m.sc y t ∧ ∀ p, m.acting x y p → t.heldFor x m.sc p ∧
      t.sentAtom x p q.2.1 false (pa p) (p.view.val f.b.toNat) (p.second f.b q.2.2) (some (x.dest m.sc y p f.d.toNat))
        (if x.pf.sem = 1 ∨ x.pf.sem = 3 then some x.pf.ms else none)) ∧
  ∀ q ∈ reductions, ∀ (f : FormR) s is y (pa : Party → Nat), s.formed → s.selects is → let x := Ex.of s is
    let m := redForm f
    f.sp = false → m.issues x y → s.calm is.blk →
    (∀ p, m.acting x y p → ∃ e, s.maps is.blk (p.addr f.a 0 4) 4 .atomic e (pa p)) →
    s.homesFit x.b.ctx (fun a => ∃ p, m.acting x y p ∧ a = pa p) →
    ∃ t, exec (q.1 f) s = .next t ∧ x.moved m.sc y t ∧ ∀ p, m.acting x y p →
      t.sentAtom x p q.2 false (pa p) (p.view.val f.b.toNat) 0 none none) ∧
  ((∀ q ∈ scratchAtomics, ∀ f s is y, s.formed → s.selects is → let x := Ex.of s is
    let m := atomForm f true q.2.2
    let at_ (p : Party) : Nat := p.offset f.a 0 4
    m.issues x y → s.calm is.blk → (∀ p, m.acting x y p → x.spFits (at_ p) 4) →
    ∃ t, exec (q.1 f) s = .next t ∧ x.moved m.sc y t ∧ (t.blk is.blk).sp = x.b.sp ∧ ∀ p, m.acting x y p →
      t.heldFor x m.sc p ∧
      t.sentAtom x p q.2.1 true (at_ p) (p.view.val f.b.toNat) (p.second f.b q.2.2) (some (x.dest m.sc y p f.d.toNat))
        (if x.pf.sem = 1 ∨ x.pf.sem = 3 then some 0 else none)) ∧
  ∀ q ∈ reductions, ∀ (f : FormR) s is y, s.formed → s.selects is → let x := Ex.of s is
    let m := redForm f
    let at_ (p : Party) : Nat := p.offset f.a 0 4
    f.sp = true → m.issues x y → s.calm is.blk → (∀ p, m.acting x y p → x.spFits (at_ p) 4) →
    ∃ t, exec (q.1 f) s = .next t ∧ x.moved m.sc y t ∧ (t.blk is.blk).sp = x.b.sp ∧ ∀ p, m.acting x y p →
      t.sentAtom x p q.2 true (at_ p) (p.view.val f.b.toNat) 0 none none) ∧
  ((∀ s (o : AtomOp), s.formed → s.atoms.find? (fun x => x.id == o.id) = some o → s.isFirst o.pend = true →
    o.blk < s.blocks.length → o.pa % 4 = 0 → s.noThreshold o.blk →
    let n := (s.blk o.blk).coreNo
    (∀ r, o.rel = some r → r.ms ≠ 0 → o.warp < (s.blk o.blk).warps.length →
      ∃ t, exec (.aswRequest o.id) s = .next t ∧ ∀ i, i / 64 ∈ (s.warp o.blk o.warp).wset → i / 128 ≠ o.pa / 128 →
        Memory.read t.mem i = s.newestByte n i) ∧ (o.rel = none →
    let byteOf (w : Word) (i : Nat) : Byte := BitVec.ofNat 8 (w.toNat / 256 ^ (i - o.pa))
    let inWord (i : Nat) : Bool := decide (o.pa ≤ i) && decide (i < o.pa + 4)
    let old := if o.scratch then (s.blk o.blk).spWord o.pa else o.early.getD (s.newestWord n o.pa)
    let new := atomResult o.opn old o.b o.b2
    (o.early ≠ none → ∀ z ∈ (s.core n).l1, z.line = lineNo o.pa → z.dirty = 0) →
    ∃ t pois, exec (.aswRequest o.id) s = .next t ∧
      (s.poisoned o.pa 4 = false → (s.blk o.blk).spPoisoned o.pa 4 = false → pois = false) ∧
      t.atoms.map (·.id) = (s.atoms.filter fun x => x.id != o.id).map (·.id) ∧
      (if o.scratch then t.mem = s.mem ∧ ∀ i, Memory.read (t.blk o.blk).sp i =
          if inWord i then byteOf new i else Memory.read (s.blk o.blk).sp i
       else (t.blk o.blk).sp = (s.blk o.blk).sp ∧ ∀ i, Memory.read t.mem i =
          if inWord i then byteOf new i
          else if i / 128 = o.pa / 128 then s.newestByte n i else Memory.read s.mem i) ∧
      t.replies = s.replies ++ (o.dest.map fun d =>
        ({ id := o.id, blk := o.blk, warp := o.warp, lane := o.lane, dest := d, vals := [old], pois := pois, acq := o.acq } :
          ReplyOp)).toList)) ∧
  ∀ s (o : ReplyOp) l first v, s.formed → s.replies.find? (fun x => x.id == o.id) = some o → o.blk < s.blocks.length →
    o.warp < (s.blk o.blk).warps.length → o.vals = [v] → l < 32 → (s.lane o.blk o.warp l).live = true → first < 64 →
    o.dest = .v l first →
    ∃ t, exec (.atomicReply o.id) s = .next t ∧ t.replies = s.replies.filter (fun x => x.id != o.id) ∧
      t.holds o.blk o.warp o.dest [v] ∧ (o.acq = none → t.mem = s.mem) ∧
      (o.acq ≠ none → o.lane = l → ∀ til, (s.lane o.blk o.warp l).status = .held til →
        (t.lane o.blk o.warp l).status = if til = 0 then .ready else .stl til))

/-- SWARM, SWADD, SWRD and SWWAIT on a sync word (R233 to R235). SWWAIT_RELEASE and POP_RELEASE: a waiting warp goes on
once the generation has passed, or once the head of the pipe has drained and no POP has waited longer, and not before
(R235, R366). -/
def Obligations.SyncWordResults : Prop :=
  (∀ s is s1 y, s.formed → s.selects is → s.calm is.blk → let x := Ex.of s is
    let off (a : BitVec 6) : Nat := (x.w.reg a.toNat).toNat
    (∀ f : FormAB, x.uniformGoes {} [wOpd f.a 1, wOpd f.b 1] true s1 y → x.spFits (off f.a) 16 → off f.a % 16 = 0 →
      (∃ t, exec (.swarm f) s = .next t ∧ x.past y t ∧ (t.blk is.blk).syncIs (off f.a)
        (min (x.w.reg f.b.toNat).toNat (2 ^ 31)) 0 (x.b.spWord (off f.a + 8)) 0) ∧
      ∃ t, exec (.swadd f) s = .next t ∧ x.past y t ∧
        x.b.syncAfter (t.blk is.blk) (off f.a) (x.w.reg f.b.toNat).toNat) ∧
    (∀ f : FormDA, x.uniformGoes {} [wOpd f.a 1, wOpd f.d 2] true s1 y → x.spFits (off f.a) 16 →
      ∃ t, exec (.swrd f) s = .next t ∧ x.past y t ∧ (t.blk is.blk).sp = x.b.sp ∧
        (t.warp is.blk is.warp).reg f.d.toNat = x.b.spWord (off f.a + 8) ∧
        (t.warp is.blk is.warp).reg (f.d.toNat + 1) = x.b.spWord (off f.a + 4)) ∧
    ∀ f : FormDAB, x.uniformGoes {} [wOpd f.a 1, wOpd f.d 1, wOpd f.b 1] true s1 y → x.spFits (off f.a) 16 →
      let d := (x.b.spWord (off f.a + 8) - x.w.reg f.b.toNat).toNat
      ∃ t, exec (.swwait f) s = .next t ∧ x.past y t ∧
        if 1 ≤ d ∧ d ≤ 2 ^ 31 then (t.warp is.blk is.warp).reg f.d.toNat = x.b.spWord (off f.a + 12)
        else (t.warp is.blk is.warp).wait = some (.sync (off f.a) (x.w.reg f.b.toNat) f.d.toNat)) ∧
  ((∀ b w s off gen d, s.formed → s.runs b → b < s.blocks.length → w < (s.blk b).warps.length → d < 32 →
    (s.warp b w).wait = some (.sync off gen d) →
    let n := ((s.blk b).spWord (off + 8) - gen).toNat
    if 1 ≤ n ∧ n ≤ 2 ^ 31 then
      ∃ t, exec (.swwaitRelease b w) s = .next t ∧ (t.warp b w).wait = none ∧
        (t.warp b w).reg d = (s.blk b).spWord (off + 12)
    else exec (.swwaitRelease b w) s = .fault .notEnabled) ∧
  ∀ b w s p d k e, s.formed → s.runs b → b < s.blocks.length → w < (s.blk b).warps.length → d + 8 ≤ 32 →
    (s.warp b w).wait = some (.pop p d k) → (∀ W ∈ (s.blk b).warps, ∀ d' j, W.wait = some (.pop p d' j) → k ≤ j) →
    ((s.blk b).pipes.getD p [])[0]? = some e → e.words.length = 8 → p < 16 →
    ((s.blk b).canPop p → ∃ t, exec (.popRelease b w) s = .next t ∧ (t.warp b w).wait = none ∧
      (t.warp b w).eight d = e.words ∧ (t.blk b).pipes.getD p [] = ((s.blk b).pipes.getD p []).tail) ∧
    (¬(s.blk b).canPop p → exec (.popRelease b w) s = .fault .notEnabled))

/-- PUSH, PUSHT, POP, POPT and PIPEQ: an entry is appended with its pusher's ISSUED; a drained head moves into the eight
registers of a POP or POPT, a POP else waits, a POPT else leaves them as they were; PIPEQ gives the length in bits [3:0],
whether the head may be popped in bit 4, and zeros above (R364 to R366). -/
def Obligations.PipeResults : Prop :=
  ∀ s is s1 y, s.formed → s.selects is → let x := Ex.of s is
    let pipe (t : State) (p : BitVec 6) : List PipeEntry := (t.blk is.blk).pipes.getD p.toNat []
    let entry (a : BitVec 6) : PipeEntry := ⟨x.w.eight a.toNat, x.w.issued, is.warp⟩
    (∀ f : FormAB, x.uniformGoes {} [wOpd f.a 8, litOpd f.b 15] true s1 y → (pipe s f.b).length < Config.pipe →
      ∃ t, exec (.push f) s = .next t ∧ x.past y t ∧ pipe t f.b = pipe s f.b ++ [entry f.a]) ∧
    (∀ f : FormDAB, x.uniformGoes {} [wOpd f.d 1, wOpd f.a 8, litOpd f.b 15] true s1 y →
      ∃ t, exec (.pusht f) s = .next t ∧ x.past y t ∧
        if (pipe s f.b).length < Config.pipe then
          pipe t f.b = pipe s f.b ++ [entry f.a] ∧ (t.warp is.blk is.warp).reg f.d.toNat = 1
        else pipe t f.b = pipe s f.b ∧ (t.warp is.blk is.warp).reg f.d.toNat = 0) ∧
    (∀ (f : FormDB) e, x.uniformGoes {} [wOpd f.d 8, litOpd f.b 15] true s1 y → x.b.noPop f.b.toNat →
      (pipe s f.b)[0]? = some e → e.words.length = 8 →
      ∃ t, exec (.pop f) s = .next t ∧ x.past y t ∧
        (x.b.canPop f.b.toNat → (t.warp is.blk is.warp).eight f.d.toNat = e.words ∧ pipe t f.b = (pipe s f.b).tail) ∧
        (¬x.b.canPop f.b.toNat → pipe t f.b = pipe s f.b ∧
          ∃ k, (t.warp is.blk is.warp).wait = some (.pop f.b.toNat f.d.toNat k))) ∧
    (∀ f : FormDB, x.uniformGoes {} [wOpd f.d 8, litOpd f.b 15] (decide (f.d.toNat + 9 ≤ 32)) s1 y →
      x.b.noPop f.b.toNat →
      ∃ t, exec (.popt f) s = .next t ∧ x.past y t ∧
        (x.b.canPop f.b.toNat → (t.warp is.blk is.warp).reg (f.d.toNat + 8) = 1 ∧ pipe t f.b = (pipe s f.b).tail ∧
          ∀ e, (pipe s f.b)[0]? = some e → e.words.length = 8 → (t.warp is.blk is.warp).eight f.d.toNat = e.words) ∧
        (¬x.b.canPop f.b.toNat → (t.warp is.blk is.warp).reg (f.d.toNat + 8) = 0 ∧ pipe t f.b = pipe s f.b ∧
          (t.warp is.blk is.warp).eight f.d.toNat = x.w.eight f.d.toNat)) ∧
    ∀ f : FormDB, x.uniformGoes {} [wOpd f.d 1, litOpd f.b 15] true s1 y → (pipe s f.b).length ≤ 15 →
      ∃ t, exec (.pipeq f) s = .next t ∧ x.past y t ∧ pipe t f.b = pipe s f.b ∧
        ((t.warp is.blk is.warp).reg f.d.toNat).toNat < 32 ∧
        ((t.warp is.blk is.warp).reg f.d.toNat).toNat % 16 = (pipe s f.b).length ∧
        (x.b.canPop f.b.toNat ↔ ((t.warp is.blk is.warp).reg f.d.toNat).getLsbD 4 = true)

/-- DEQ and DEQ_FILL: a lane takes the first entry that no one holds, or waits with its registers empty; with a
pre-emption pending it has the YIELD marker (R50, R52, R368). -/
def Obligations.DequeueResults : Prop :=
  (∀ (f : FormDB) s is, s.formed → s.selects is → let x := Ex.of s is
    (deqForm f).issues x default → ∃ t, exec (.deq f) s = .next t ∧ x.stepped t ∧
      ∀ l, l < 32 → is.lanes = 1#32 <<< l → s.deqWaits = [] → s.runs is.blk → (s.ctx? x.b.ctx).isSome →
        let q := s.queueOf x.b.ctx f.b.toNat
        ((s.ctx x.b.ctx).preState = .draining →
          t.holds is.blk is.warp (.v l f.d.toNat) [0x80000000, 0xFFFFFFFF, 0, 0, 0, 0, 0, 0]) ∧
        ((s.ctx x.b.ctx).preState ≠ .draining → q.enable = true → (∀ e ∈ q.entries, e.taken.isSome) →
          t.deqWaits = [⟨s.nextId, is.blk, is.warp, l, f.d.toNat, f.b.toNat, x.addr⟩] ∧
          t.emptyAt is.blk is.warp 0 (.v l f.d.toNat) 8) ∧
        ∀ ws rest, (s.ctx x.b.ctx).preState ≠ .draining → q.enable = true → q.entries = ⟨ws, none⟩ :: rest →
          ws.length = 8 → (s.ctx x.b.ctx).held is.blk is.warp < 64 → f.b.toNat < (s.ctx x.b.ctx).queues.length →
          t.holds is.blk is.warp (.v l f.d.toNat) ws ∧
          (t.queueOf x.b.ctx f.b.toNat).entries = ⟨ws, some (is.blk, is.warp, l, s.nextId + 1)⟩ :: rest) ∧
  ∀ s (w : DeqWait) rest ws es, s.formed → s.deqWaits = w :: rest → w.blk < s.blocks.length → s.runs w.blk →
    w.warp < (s.blk w.blk).warps.length → w.lane < 32 → w.d + 8 ≤ 64 → (s.lane w.blk w.warp w.lane).live = true →
    let c := (s.blk w.blk).ctx
    (s.ctx? c).isSome → (s.ctx c).preState ≠ .draining → (s.queueOf c w.q).enable = true →
    w.q < (s.ctx c).queues.length → (s.ctx c).held w.blk w.warp < 64 → ws.length = 8 →
    (s.queueOf c w.q).entries = ⟨ws, none⟩ :: es →
    ∃ t, exec (.deqFill 0) s = .next t ∧ t.deqWaits = rest ∧ t.holds w.blk w.warp (.v w.lane w.d) ws ∧
      (t.queueOf c w.q).entries = ⟨ws, some (w.blk, w.warp, w.lane, s.nextId)⟩ :: es

/-- DONE, DEPADD, CANCEL and TQSTAT: the operation is on its way to the counter, DONE retires the oldest entry that its
lane took, and TQSTAT reads the queue (R369, R370). ENQ and ENQ with compaction, where the queue has room: the acting
lanes' entries are appended in lane order (R51, R371). -/
def Obligations.TaskResults : Prop :=
  ((∀ s is y, s.formed → s.selects is → s.calm is.blk → let x := Ex.of s is
    let c := x.b.ctx
    (s.die (s.ctx c).taskDie).fired.length + s.ctrOps.length < Config.firedBuffer →
    let sent (i : Word) (k : CtrKind) : CtrOp := { ctx := c, index := i, kind := k, blk := is.blk, warp := is.warp }
    (∀ f : FormTk, let m := taskForm f.warp [(f.a, 2)]
      m.issues x y → f.b.toNat < (s.ctx c).queues.length → (s.ctx? c).isSome →
      ∃ t, exec (.done f) s = .next t ∧ x.moved m.sc y t ∧ ∀ p, m.alone x y p →
        (t.ctrOps = if p.view.val (f.a.toNat + 1) = 0xFFFFFFFF then s.ctrOps
          else s.ctrOps ++ [sent (p.view.val (f.a.toNat + 1)) (.done ((p.view.val f.a.toNat).getLsbD 17))]) ∧
        ∀ k, let lane := if f.warp then lowest ((x.b.needed y).getD is.warp 0) else p.lane
          (∃ e ∈ (s.queueOf c f.b.toNat).entries, e.taken = some (is.blk, is.warp, lane, k)) →
          (∀ e ∈ (s.queueOf c f.b.toNat).entries, ∀ j, e.taken = some (is.blk, is.warp, lane, j) → k ≤ j) →
          (t.queueOf c f.b.toNat).entries =
            (s.queueOf c f.b.toNat).entries.filter fun e => e.taken != some (is.blk, is.warp, lane, k)) ∧
    (∀ f : FormTk, let m := taskForm f.warp [(f.a, 1), (f.b, 1)]
      m.issues x y → ∃ t, exec (.depadd f) s = .next t ∧ x.moved m.sc y t ∧ ∀ p, m.alone x y p →
        t.ctrOps = s.ctrOps ++ [sent (p.view.val f.a.toNat) (.depadd (p.view.val f.b.toNat))]) ∧
    ∀ f : FormTc, let m := taskForm f.warp [(f.a, 1)]
      m.issues x y → ∃ t, exec (.cancel f) s = .next t ∧ x.moved m.sc y t ∧ ∀ p, m.alone x y p →
        t.ctrOps = s.ctrOps ++ [sent (p.view.val f.a.toNat) .cancel]) ∧
  ∀ (f : FormDB) s is s1 y, s.formed → s.selects is → let x := Ex.of s is
    let c := s.ctx x.b.ctx
    let q := s.queueOf x.b.ctx f.b.toNat
    x.uniformGoes {} [wOpd f.d 2] true s1 y → q.entries.length < 65536 →
    ∃ t, exec (.tqstat f) s = .next t ∧ x.past y t ∧
      ((t.warp is.blk is.warp).reg f.d.toNat).toNat =
        q.entries.length + (if q.enable then 65536 else 0) + (if q.redeliver then 131072 else 0) ∧
      (t.warp is.blk is.warp).reg (f.d.toNat + 1) = BitVec.ofNat 32 (c.outOfRange + 65536 * c.absorbed)) ∧
  (∀ s is s1 y, s.formed → s.selects is → s.calm is.blk → let x := Ex.of s is
    let c := x.b.ctx
    let entryOf (b : BitVec 6) (l : Nat) : QEntry := enqueued ((codes b.toNat 8).map (x.w.lane l).reg) false
    let after (q b : BitVec 6) (ls : List Nat) (t : State) : Prop :=
      (t.queueOf c q.toNat).entries = (s.queueOf c q.toNat).entries ++ ls.map (entryOf b)
    (s.ctx? c).isSome →
    (∀ f : FormN, f.warp = false → let m := enqForm f
      let ls := (lanesOf is.lanes).filter fun l => (x.w.lane l).guard f.gn f.gp
      m.issues x y → (s.queueOf c f.q.toNat).fits ls.length → f.q.toNat < (s.ctx c).queues.length →
      ∃ t, exec (.enq f) s = .next t ∧ x.stepped t ∧ after f.q f.b ls t) ∧
    ∀ gn gp (q b : BitVec 6),
      x.legal { mod := true, k := true } [⟨.v, b.toNat, 8, false⟩] = true →
      x.completes (.warp is.warp) x.pf.modOf.k.toNat s1 y → q.toNat < (s.ctx c).queues.length →
      (∀ l ∈ lanesOf ((x.b.needed y).getD is.warp 0), (x.w.lane l).guard gn gp = true →
        readiness (x.w.lane l).view [⟨b.toNat, 8, false, .own⟩] [] = .go) →
      (s.queueOf c q.toNat).fits (x.enqLanes y gn gp).length →
      (∀ f : FormN, f.warp = true → f.gn = gn → f.gp = gp → f.q = q → f.b = b →
        ∃ t, exec (.enq f) s = .next t ∧ x.past y t ∧ after q b (x.enqLanes y gn gp) t) ∧
      ∀ f : FormNc, f.gn = gn → f.gp = gp → f.q = q → f.b = b →
        ∃ t, exec (.enqCmp f) s = .next t ∧ x.past y t ∧ after q b (x.enqLanes y gn gp) t)

/-- COUNTER_OPERATION: outside the context's range or on an idle counter it is counted and logged, on a fired one it
is absorbed, and on an armed one it changes the count; at zero the counter fires and its template is enqueued, but into a
full buffer it stalls its warp instead until there is room (R46 to R49). That a count above 2^32 - 1 wraps (assumption 80)
and that the entry goes to the log of the context's task home die (assumption 25) are the model's choices.
TEMPLATE_ENQUEUE: the first buffered template enters its queue where that has room (R49). -/
def Obligations.CounterOperation : Prop :=
  (∀ s (o : CtrOp) rest, s.ctrOps = o :: rest → (s.ctx? o.ctx).isSome → (s.ctx o.ctx).taskDie < s.dies.length →
    let c := s.ctx o.ctx
    let x := s.counterAt o.ctx o.index
    let y := counterAfter x o.kind
    let d := s.die c.taskDie
    c.cbase + c.ccount ≤ d.counters.length → d.fired.length < Config.firedBuffer →
    ∃ t, exec (.counterOperation 0) s = .next t ∧ t.ctrOps = rest ∧
      if c.ccount ≤ o.index.toNat ∨ x.st = .idle then
        (t.ctx o.ctx).outOfRange = min (c.outOfRange + 1) 65535 ∧ .errorLog c.taskDie ∈ t.intrs ∧
          (t.die c.taskDie).counters = d.counters
      else if x.st = .fired then (t.ctx o.ctx).absorbed = min (c.absorbed + 1) 65535 ∧ t.dies = s.dies
      else if y.count = 0 then
        t.counterAt o.ctx o.index = { y with st := .fired } ∧
          (d.fired = [] → x.queue.toNat < c.queues.length → (s.queueOf o.ctx x.queue.toNat).fits 1 →
            (t.queueOf o.ctx x.queue.toNat).entries =
              (s.queueOf o.ctx x.queue.toNat).entries ++ [enqueued x.template y.cxl])
      else t.counterAt o.ctx o.index = y) ∧
  (∀ s (o : CtrOp) rest, s.ctrOps = o :: rest → let c := s.ctx o.ctx
    let x := s.counterAt o.ctx o.index
    o.index.toNat < c.ccount → x.st = .armed → (counterAfter x o.kind).count = 0 →
    Config.firedBuffer ≤ (s.die c.taskDie).fired.length →
    (o.stuck = false → ∃ t, exec (.counterOperation 0) s = .next t ∧ t.ctrOps = { o with stuck := true } :: rest ∧
      t.dies = s.dies ∧ t.firedStall o.blk o.warp = true) ∧
    (o.stuck = true → exec (.counterOperation 0) s = .fault .notEnabled)) ∧
  (∀ s d c q ws rest, d < s.dies.length → (s.ctx? c).isSome → (s.die d).fired = (c, q, ws) :: rest →
    q < (s.ctx c).queues.length → (s.queueOf c q).fits 1 →
    ∃ t, exec (.templateEnqueue d) s = .next t ∧ (t.die d).fired = rest ∧
      (t.queueOf c q).entries = (s.queueOf c q).entries ++ [⟨ws, none⟩])

namespace Sys2Proof.Machine

/-! ### Prefix words, the life of a block, copies and windows -/

/-- The prefix words (R101). -/
noncomputable def prefixes (i : PrImm) (m : PrMod) (o : PrOrd) (f : PrFmt) (c : PrSched) : List (Instr × Prefix) :=
  [(.xwImm i, .imm i), (.xwMod m, .mod m), (.xwOrd o, .ord o), (.xwFmt f, .fmt f), (.xwSched c, .sched c)]

/-- A descriptor of 32 bytes in scratchpad on a 16-byte boundary (R65, R226, R373). -/
def Ex.descriptor (x : Ex) (off : Nat) : Prop := off % 16 = 0 ∧ off + 32 ≤ x.b.spSize

/-- Bytes of scratchpad as a number (R5). -/
def Block.spField (b : Block) (off n : Nat) : Nat := leNat (Memory.readBytes b.sp off n)

/-- A post to a copy queue has been taken: D has the ticket, POSTED counts it, and the operation waits (R226). -/
def copyPosted (x : Ex) (t : State) (d : BitVec 6) (q : Nat) (runs : List CopyRun) (sync : Option Nat) (bad mc : Bool) :
    Prop :=
  let Q := x.b.copyQ.getD q default
  (t.warp x.is.blk x.is.warp).reg d.toNat = Q.posted ∧ ((t.blk x.is.blk).copyQ.getD q default).posted = Q.posted + 1 ∧
  ∃ o ∈ t.copies, o.blk = x.is.blk ∧ o.warp = x.is.warp ∧ o.q = q ∧ o.ticket = Q.posted ∧ o.sync = sync ∧
    o.multicast = mc ∧ o.failed = bad ∧ o.after = Q.fence ∧ (bad = false → o.runs = runs)

/-- The run that a linear descriptor asks for (R227). -/
def linearRun (b : Block) (off : Nat) : CopyRun :=
  let fl := b.spField (off + 24) 1
  { src := some (b.spField off 8), srcSp := fl % 2 = 1, dst := b.spField (off + 8) 8, dstSp := fl / 2 % 2 = 1,
    len := b.spField (off + 16) 4 }

/-- A linear descriptor that keeps to its table (R227). -/
def linearGood (b : Block) (off : Nat) (mc : Bool) : Prop :=
  let r := linearRun b off
  let sync := b.spField (off + 20) 4
  4 ≤ r.len ∧ r.len % 4 = 0 ∧ b.spField (off + 24) 1 < 4 ∧ (∀ i < 6, Memory.read b.sp (off + 26 + i) = 0) ∧
    (sync = 0xFFFFFFFF ∨ sync % 16 = 0 ∧ sync + 16 ≤ b.spSize) ∧ (mc = true → r.dstSp = false) ∧
    b.spField off 8 % 4 = 0 ∧ (r.srcSp = true → b.spField (off + 4) 4 = 0 ∧ b.spField off 4 + r.len ≤ b.spSize) ∧
    r.dst % 4 = 0 ∧ (r.dstSp = true → b.spField (off + 12) 4 = 0 ∧ b.spField (off + 8) 4 + r.len ≤ b.spSize)

/-- The bytes of scratchpad that a copy may write: those of its runs there, and its sync word (R227, R234). -/
def CopyOp.mayWrite (o : CopyOp) (a : Nat) : Prop :=
  (∃ r ∈ o.runs, r.dstSp = true ∧ r.dst ≤ a ∧ a < r.dst + r.len) ∨ ∃ w, o.sync = some w ∧ w ≤ a ∧ a < w + 16

/-- The put record at an offset keeps to its table (R373). -/
def putGood (b : Block) (off : Nat) (signal : Bool) : Prop := badPut signal (Memory.readBytes b.sp off 32) = false

/-- A block has nothing on its way and its core holds no dirty byte, so that its release leaves memory as it is
(R389). -/
def State.still (s : State) (b : Nat) : Prop := s.calm b ∧ ∀ z ∈ (s.core (s.blk b).coreNo).l1, z.dirty = 0

/-- The buffer of a place holds every translation of a range, which the place may read: the bytes (R72, R75). -/
def State.sees (s : State) (place ctx : Nat) (va : DWord) (n : Nat) (bs : List Byte) : Prop :=
  placeDie place < s.dies.length ∧ s.readVa place ctx va n = (s, .inr bs)

/-- The buffer of a place holds the translation of an access that passes its checks: the entry and the physical address
(R72, R75). -/
def State.opens (s : State) (place ctx : Nat) (va : DWord) (n : Nat) (k : Access) (e : DWord) (pa : Nat) : Prop :=
  placeDie place < s.dies.length ∧ s.xlate place ctx va n k = (s, .ok e pa)

/-- The buffer of a place holds the translation of a range that the place may write, as one physical run (R72, R75). -/
def State.runAt (s : State) (place ctx : Nat) (va : DWord) (n p : Nat) : Prop :=
  placeDie place < s.dies.length ∧ ∃ e, s.xlateRange place ctx .store (rangeFuel n) va n = (s, [(va, p, n, e)], none)

/-- The field of a token for a length, and its extension bytes (R335). -/
def lzExt (n : Nat) : List Byte :=
  if n < 15 then [] else List.replicate ((n - 15) / 255) 255 ++ [BitVec.ofNat 8 ((n - 15) % 255)]

/-- A sequence of an LZ4 block: its literals, then a match of so many bytes, at least 4, at an offset (R335). -/
structure LzSeq where
  lits : List Byte
  off : Nat
  len : Nat

/-- The bytes of a block: its sequences, and the literals that end it (R335). -/
def lzBytes : List LzSeq → List Byte → List Byte
  | [], last => BitVec.ofNat 8 (16 * min 15 last.length) :: (lzExt last.length ++ last)
  | q :: qs, last =>
    BitVec.ofNat 8 (16 * min 15 q.lits.length + min 15 (q.len - 4)) :: (lzExt q.lits.length ++ q.lits ++
      leBytes 2 q.off ++ lzExt (q.len - 4) ++ lzBytes qs last)

/-- A history with a match copied to its end, byte by byte (R335). -/
def lzMatch (off : Nat) : Nat → List Byte → List Byte
  | 0, h => h
  | n + 1, h => lzMatch off n (h ++ [h.getD (h.length - off) 0])

/-- The history after a block; none where a match reaches before it (R335). -/
def lzHistory : List LzSeq → List Byte → List Byte → Option (List Byte)
  | [], last, h => some (h ++ last)
  | q :: qs, last, h =>
    let h := h ++ q.lits
    if q.off = 0 ∨ h.length < q.off ∨ 65535 < q.off ∨ q.len < 4 then none else lzHistory qs last (lzMatch q.off q.len h)

/-- An engine of a die reads bytes in a row, which stand as they did when its work began (R338, R341). -/
def State.feeds (s : State) (die ctx : Nat) (va : DWord) (bs : List Byte) : Prop :=
  ∀ i < bs.length, s.byteAt s.mem die ctx (va + BitVec.ofNat 64 i) = .inr (bs.getD i 0)

/-- The bytes of a container whose chunks give so many bytes each but the last: its header, the offsets, the chunks
(R336). -/
def container (out : Nat) (chunks : List (List Byte)) : List Byte :=
  let first := 20 + 4 * chunks.length
  let offs := (List.range (chunks.length + 1)).map fun c => first + (chunks.take c).flatten.length
  leBytes 4 0x4B484346 ++ leBytes 4 chunks.length ++ leBytes 4 out ++ leBytes 4 0 ++ offs.flatMap (leBytes 4) ++
    chunks.flatten

/-- Chunks that decode to the bytes of a list, with a dictionary behind each (R335, R336). -/
def chunksOf (out : Nat) (chunks : List (List Byte)) (dict : List Byte) (decoded : List (List Byte)) : Prop :=
  0 < chunks.length ∧ chunks.length ≤ 65535 ∧ 0 < out ∧ out ≤ 4194304 ∧ (container out chunks).length < 2 ^ 32 ∧
    decoded.length = chunks.length ∧
    ∀ c < chunks.length, (∃ qs last h, chunks.getD c [] = lzBytes qs last ∧ lzHistory qs last dict = some h ∧
        decoded.getD c [] = h.drop dict.length) ∧
      if c + 1 < chunks.length then (decoded.getD c []).length = out
      else 0 < (decoded.getD c []).length ∧ (decoded.getD c []).length ≤ out

/-- The next binding of a block that has not started, its launch without an error (R25, R26). -/
def State.binding (s : State) (b k : Nat) (z : Binding) : Prop :=
  b < s.blocks.length ∧ (s.blk b).phase = .prologue k ∧ (s.blk b).die < Config.dies ∧
    let L := s.launch (s.blk b).launch
    L.status = 0 ∧ L.rcd.bindings[k]? = some z ∧ L.snap = s.mem

/-- The source of a binding for a block (R346). -/
def State.bindingSrc (s : State) (b : Nat) (z : Binding) : DWord :=
  z.src + BitVec.ofNat 64 ((s.blk b).index * z.stride)

/-- A binding has been performed: its destination holds so many bytes, the rest of the scratchpad what it held (R26,
R346). -/
def State.bound (s t : State) (b k : Nat) (z : Binding) (n : Nat) (f : Nat → Byte) : Prop :=
  (t.blk b).phase = .prologue (k + 1) ∧ ∀ a, Memory.read (t.blk b).sp a =
    if z.dst ≤ a ∧ a < z.dst + n then f (a - z.dst) else Memory.read (s.blk b).sp a

/-- Element `i` of `w` bits of a row of packed elements (R160). -/
def packed (w i : Nat) (row : List Byte) : Nat := leNat row / 2 ^ (w * i) % 2 ^ w

/-- The BF16 element of a dequantise binding at a row and column, with so many elements in a group and the rows of its
source in the formats of R348. -/
def dequantised (z : Binding) (gs : Nat) (bs sc : List Byte) (r c : Nat) : Nat :=
  let f := z.fmt % 32
  let pitch := (z.cols * fmtWidth f + 7) / 8
  let x := valueOf f (packed (fmtWidth f) c ((bs.drop (pitch * r)).take pitch))
  let k := valueOf 3 (leNat ((sc.drop (2 * (r * (z.cols / gs) + c / gs))).take 2))
  (roundTo (x.mul k) 3 1 false false false).1

/-- A number for each field of so many bytes. -/
def fields (l : List (Nat × Nat)) : List Byte := l.flatMap fun p => leBytes p.1 p.2

/-- The launch report (R27). -/
def reportOf (L : Launch) : List Byte :=
  fields [(4, L.status), (4, L.failBlock.toNat), (4, L.detail), (2, L.winSticky.toNat), (2, 0), (4, L.oob.toNat),
    (4, L.blocksDone), (8, L.rcd.tag.toNat), (8, L.faddr.toNat), (24, 0)]

/-- The completion record (R184). -/
def completionOf (L : Launch) : List Byte :=
  fields ([(8, L.rcd.tag.toNat), (4, L.status), (4, 0)] ++ L.fpx.map (fun w => (4, w.toNat)) ++ [(16, 0)])

/-- The code of a record without tables that a SPAWN takes, or 0 where it is accepted (R10, R11, R15 to R17, R28). -/
def spawnCode (bs : List Byte) : Nat :=
  let n (off len : Nat) : Nat := leNat ((bs.drop off).take len)
  let blocks := n 8 4 * n 12 2 * n 14 2
  let threads := n 16 2 * n 18 1 * n 19 1
  let warps := (threads + 31) / 32
  if 4 ≤ n 22 2 ∨ n 59 5 ≠ 0 ∨ n 88 40 ≠ 0 ∨ n 40 8 % 8 ≠ 0 ∨ n 72 8 % 64 ≠ 0 then 2
  else if n 22 2 % 2 = 1 then 4
  else if n 0 8 % 4 ≠ 0 ∨ canonical (BitVec.ofNat 64 (n 0 8)) = false then 5
  else if blocks = 0 ∨ 2 ^ 32 ≤ blocks ∨ threads = 0 ∨ 1024 < threads then 6
  else if n 20 1 ∉ [8, 16, 24, 32, 40, 48, 56, 64] ∨ 16 < n 28 1 then 7
  else if 524288 < n 24 4 ∨ 60 < n 30 1 ∨
      64 < (warps * 32 * n 20 1 * 4 + 16383) / 16384 + (n 24 4 + 16383) / 16384 + max 4 (n 30 1) then 9
  else 0

/-- The bytes of the swap arena that a saved block takes (R55). -/
def saveBytesOf (b : Block) : Nat :=
  let m := (b.sets.map fun s => popcount s.members).sum
  65536 * ((65536 + b.warps.length * 32 * (b.lregs + 1) * 4 + m * b.gregs * 128 + b.spGran * 16384 +
    b.tiles.length * 8192 + 65535) / 65536)

/-- A place in the swap arena of a context at which so many bytes are free (R55). -/
def State.arenaFree (s : State) (ctx n off : Nat) : Prop :=
  off + n ≤ (s.ctx ctx).arenaMB * 2 ^ 20 ∧
    ∀ B ∈ s.blocks, B.ctx = ctx → B.saveB ≠ 0 → overlap off n B.arenaOff B.saveB = false

/-- An entry has been added to the error log of a die (R423). -/
def State.logged (s t : State) (die : Nat) : Prop :=
  (t.die die).elseq = (s.die die).elseq + 1 ∧ .errorLog die ∈ t.intrs

/-- The bytes that the engine reads as a word of a run's source, which it may read and which holds no poison (R227, R228,
R231). -/
def State.copySees (s : State) (o : CopyOp) (r : CopyRun) (i : Nat) (bs : List Byte) : Prop :=
  let B := s.blk o.blk
  match r.src with
  | none => bs = List.replicate 4 0
  | some a =>
    if r.srcSp then bs = Memory.readBytes B.sp (a + 4 * i) 4 ∧ B.spPoisoned (a + 4 * i) 4 = false
    else ∃ e pa, s.opens (clusterPlace B.clusterNo) B.ctx (BitVec.ofNat 64 (a + 4 * i)) 4 .load e pa ∧
      s.poisoned pa 4 = false ∧ bs = s.readPa pa 4

/-- Where the engine writes a word of a run, which it may write: an offset of scratchpad, or physical addresses, of every
replica for CPMC (R83, R227). -/
def State.copyGoes (s : State) (o : CopyOp) (r : CopyRun) (i : Nat) (ps : List Nat) : Prop :=
  let B := s.blk o.blk
  if r.dstSp then ps = [r.dst + 4 * i]
  else ∃ e pa, s.opens (clusterPlace B.clusterNo) B.ctx (BitVec.ofNat 64 (r.dst + 4 * i)) 4 .store e pa ∧
    ps = if o.multicast then replicas e pa else [pa]

/-- A run whose source and destination are apart, its words each with a value and a place of their own (R227). -/
def State.copyReady (s : State) (o : CopyOp) (r : CopyRun) (v : Nat → List Byte) (ps : Nat → List Nat) : Prop :=
  4 ≤ r.len ∧ r.len % 4 = 0 ∧ r.overlaps = false ∧
    (∀ w, o.sync = some w → r.dstSp = true → overlap w 16 r.dst r.len = false) ∧
    ((List.range (r.len / 4)).flatMap ps).Pairwise (fun p q => overlap p 4 q 4 = false) ∧
    ∀ i < r.len / 4, s.copySees o r i (v i) ∧ s.copyGoes o r i (ps i)

/-- The word at a place of a frame's source, which its transport may read and which holds no poison (R375, R376). -/
def State.putSees (s : State) (b : Nat) (g : Frame) (i : Nat) (w : List Byte) : Prop :=
  let B := s.blk b
  let a := g.src + 4 * i
  if g.srcSp then a + 4 ≤ B.spSize ∧ B.spPoisoned a 4 = false ∧ w = Memory.readBytes B.sp a 4
  else ∃ e pa, s.opens B.die B.ctx (BitVec.ofNat 64 a) 4 .load e pa ∧ s.poisoned pa 4 = false ∧ w = s.readPa pa 4

/-- Whether a frame for a handle of a package can leave: the package is this one, or its route is valid and the port that
it selects enabled (R379, R435). -/
def State.routed (s : State) (pkg thandle : Nat) : Prop :=
  pkg = s.pkgId ∨ s.mode ≠ .twilight ∧ pkg ≤ 4095 ∧ ∃ r, s.routes.find? (fun r => r.pkg == pkg) = some r ∧
    r.valid = true ∧ (s.ports.getD ((r.first + thandle % r.span) % 16) default).enable = true

/-- The step of a frame (R378). -/
noncomputable def Frame.event (g : Frame) : Instr := if g.signal then .dataSignal g.id else .data g.id

/-- A frame is of a put or of one of those that its signal covers (R375). -/
def PutOp.covered (p : PutOp) (g : Frame) : Prop := g.put = some p.id ∨ ∃ j ∈ p.covers, g.put = some j

/-- A handle of a context. -/
def State.handleOf (s : State) (ctx h : Nat) : Handle := (s.ctx ctx).handles.getD h default

end Sys2Proof.Machine

open Sys2Proof Sys2Proof.Machine

/-- Prefix words join the run of their lanes, which stand at the next word and remember where the run began (R101, R102,
R108). -/
def Obligations.PrefixResults : Prop :=
  ∀ i m o f c, ∀ q ∈ prefixes i m o f c, ∀ s is, s.formed → s.selects is → let x := Ex.of s is
    ∃ t, exec q.1 s = .next t ∧ t = { s with blocks := t.blocks, cur := none } ∧
      ∀ l, t.lane is.blk is.warp l = if l ∈ lanesOf is.lanes then
        let y := x.w.lane l
        { y with pc := y.pc + 4, run := y.run ++ [q.2], runStart := if y.run = [] then y.pc else y.runStart }
        else x.w.lane l

/-- BLOCK_PLACE, BLOCK_START, BLOCK_EXIT, TRANSFORM_BINDING and DISPATCH_WAIT_EXPIRY: the life of a block, with its
transform bindings of every kind (R26, R45, R57, R61, R63, R150, R346 to R348). That a block which leaves while its
context is drained is not counted as exited and is placed anew in ascending order (assumption 71) is the model's choice.
-/
def Obligations.BlockLife : Prop :=
  (∀ s d l cl c, l < s.launches.length → let L := s.launch l
    s.pendingOn d L = true → L.rcd.persistent = false → s.mayPlace d L.rank L.rcd.demand = true →
    s.findCore d L.rcd.demand = some (cl, c) →
    ∃ t B, exec (.blockPlace d l) s = .next t ∧ t.blocks = s.blocks ++ [B] ∧ B.launch = l ∧ B.index = L.next ∧ B.die = d ∧
      B.cluster = cl ∧ B.core = c ∧ B.phase = .prologue 0 ∧ (t.launch l).next = L.next + 1 ∧ B.sp = [] ∧
      B.warps.length = (L.rcd.threads + 31) / 32 ∧ B.halt = none ∧ B.tiles = [] ∧
      ∀ w < B.warps.length, ∀ k < 32, let y := (B.warp w).lane k
        y.pc = L.rcd.code ∧ y.preds = 0 ∧ y.empty = 0 ∧ (∀ n, y.reg n = 0) ∧
          (y.live = true ↔ 32 * w + k < L.rcd.threads) ∧ (∀ n, (B.warp w).reg n = 0)) ∧
  (∀ s d l u, l < s.launches.length → let L := s.launch l
    s.pendingOn d L = true → L.rcd.persistent = true → s.mayPlace d L.rank L.rcd.demand = true →
    s.placeWhole l ((s.eligible L).filter fun d => s.isOpen d L.rank) = some u →
    ∃ t bs, exec (.blockPlace d l) s = .next t ∧ t.blocks = s.blocks ++ bs ∧
      bs.map (·.index) = (if L.next = 0 then List.range L.rcd.blocks else L.again) ∧
      (∀ B ∈ bs, B.launch = l ∧ B.phase = .prologue 0 ∧ L.diesMask.getLsbD B.die = true) ∧
      (t.launch l).next = L.rcd.blocks ∧ (t.launch l).again = []) ∧
  (∀ s d, d < s.dies.length →
    if ∃ x ∈ (s.die d).waits, x.isOver = false ∧ x.since + 16384 ≤ s.cycle then
      ∃ t, exec (.dispatchWaitExpiry d) s = .next t ∧ (t.die d).waits = (s.die d).waits.map fun x =>
        { x with isOver := x.isOver || decide (x.since + 16384 ≤ s.cycle) }
    else exec (.dispatchWaitExpiry d) s = .fault .notEnabled) ∧
  (∀ s b k, b < s.blocks.length → (s.blk b).phase = .prologue k → let L := s.launch (s.blk b).launch
    L.status = 0 → L.rcd.bindings.length ≤ k →
    ∃ t, exec (.blockStart b) s = .next t ∧ t.blk b = { s.blk b with phase := .running }) ∧
  (∀ s b k z bs s', s.formed → s.binding b k z → z.kind = 0 →
    s.readVa (s.blk b).die (s.blk b).ctx (s.bindingSrc b z) z.len = (s', .inr bs) →
    ∃ t, exec (.transformBinding b) s = .next t ∧ s.bound t b k z bs.length (fun i => bs.getD i 0) ∧ t.mem = s.mem) ∧
  (∀ s b k z out chunks decoded, s.formed → s.binding b k z → z.kind = 1 → chunksOf out chunks [] decoded →
    s.feeds (s.blk b).die (s.blk b).ctx (s.bindingSrc b z) (container out chunks) →
    let n := decoded.flatten.length
    n ≤ z.len → (z.aux % 2 = 1 → n = z.len) →
    ∃ t, exec (.transformBinding b) s = .next t ∧ s.bound t b k z n (fun i => decoded.flatten.getD i 0) ∧ t.mem = s.mem) ∧
  (∀ s b k z bs sc, s.formed → s.binding b k z → z.kind = 2 →
    let gs := if z.fmt / 32 = 0 then z.cols else 16 * 2 ^ (z.fmt / 32)
    let pitch := (z.cols * fmtWidth (z.fmt % 32) + 7) / 8
    let src := s.bindingSrc b z
    2 ≤ z.fmt % 32 → z.fmt % 32 ≤ 20 → z.fmt / 32 ≤ 5 → 0 < z.cols → z.cols % gs = 0 →
    s.sees (s.blk b).die (s.blk b).ctx src (pitch * z.rows) bs →
    s.sees (s.blk b).die (s.blk b).ctx (src + BitVec.ofNat 64 z.aux) (2 * (z.cols / gs) * z.rows) sc →
    ∃ t, exec (.transformBinding b) s = .next t ∧ (s.noThreshold b → t.mem = s.mem) ∧
      s.bound t b k z (2 * z.rows * z.cols) fun i =>
        (leBytes 2 (dequantised z gs bs sc (i / 2 / z.cols) (i / 2 % z.cols))).getD (i % 2) 0) ∧
  (∀ s b k z bs, s.formed → s.binding b k z → z.kind = 3 →
    z.fmt ∈ [0, 1, 2, 3, 4, 5, 6, 10, 11, 12, 13, 18, 22, 23] →
    let n := fmtWidth z.fmt / 8
    s.sees (s.blk b).die (s.blk b).ctx (s.bindingSrc b z) (z.rows * z.cols * n) bs →
    ∃ t, exec (.transformBinding b) s = .next t ∧ t.mem = s.mem ∧ s.bound t b k z (z.rows * z.cols * n) fun i =>
      let c := i / n / z.rows
      let r := i / n % z.rows
      bs.getD ((r * z.cols + c) * n + i % n) 0) ∧
  ∀ s b, b < s.blocks.length → s.runs b → (∀ w ∈ (s.blk b).warps, w.live = 0) → s.calm b →
    (∀ o ∈ s.ctrOps, o.blk ≠ b) → s.enginesBusy b = false → (s.blk b).launch < s.launches.length →
    let L := s.launch (s.blk b).launch
    ∃ t, exec (.blockExit b) s = .next t ∧ (t.blk b).phase = .gone ∧ (t.blk b).tiles = [] ∧
      let L' := t.launch (s.blk b).launch
      let i := (s.blk b).index
      if s.comesAgain b then L'.again = L.again.filter (· < i) ++ i :: L.again.filter (i < ·) ∧ L'.exited = L.exited ∧ L'.blocksDone = L.blocksDone
      else L'.again = L.again ∧ L'.exited = L.exited + 1 ∧ L'.blocksDone = L.blocksDone + 1

/-- LAUNCH_COMPLETE: the completion record, the report and the counter are written (R27, R184, R425). SPAWN takes its
record and saves the block beside its child grid at the lowest free place of the arena; a block at depth 8, an address
that is none, a record that cannot be read or is rejected, and an arena without room each have the trap or the status of
R152 (R14 to R16, R53 to R55, R152); so a record without tables is accepted or rejected with the code of R28 (R10, R11,
R17). PARENT_RESUME (R56). -/
def Obligations.LaunchEnds : Prop :=
  (∀ s l, s.formed → l < s.launches.length → let L := s.launch l
    let c := s.ctx L.rcd.ctx
    L.phase = .running → (if L.status = 0 then L.exited = L.next ∧ L.next = L.rcd.blocks
      else L.exited + L.again.length = L.next) →
    ∃ t, exec (.launchComplete l) s = .next t ∧ (t.launch l).phase = .done ∧
      (∀ e pa, L.rcd.report = 0 → c.cring = 0 → L.rcd.doneCtr ≠ 0 → s.poisoned pa 8 = false →
        (s.xlate L.home L.rcd.ctx L.rcd.doneCtr 8 .atomic).2 = .ok e pa →
        t.readPa pa 8 = leBytes 8 (BitVec.ofNat 64 (leNat (s.readPa pa 8)) + 1).toNat) ∧
      ∀ pr pp pc e, L.fpx.length = 24 →
        (c.cring ≠ 0 → s.runAt L.home L.rcd.ctx
          (c.cring + BitVec.ofNat 64 (128 * (c.cringSeq.toNat % c.cringN.toNat))) 128 pr) →
        (L.rcd.report ≠ 0 → L.rcd.report.toNat % 64 = 0 ∧ s.runAt L.home L.rcd.ctx L.rcd.report 64 pp) →
        (L.rcd.doneCtr ≠ 0 → s.opens L.home L.rcd.ctx L.rcd.doneCtr 8 .atomic e pc ∧ s.poisoned pc 8 = false) →
        overlap pr 128 pp 64 = false → overlap pr 128 pc 8 = false → overlap pp 64 pc 8 = false →
        (c.cring ≠ 0 → t.readPa pr 128 = completionOf L ∧ (t.ctx L.rcd.ctx).cringSeq = c.cringSeq + 1) ∧
        (L.rcd.report ≠ 0 → t.readPa pp 64 = reportOf L) ∧
        (L.rcd.doneCtr ≠ 0 → t.readPa pc 8 = leBytes 8 (BitVec.ofNat 64 (leNat (s.readPa pc 8)) + 1).toNat)) ∧
  (∀ (f : FormDA) s is s1 y, s.formed → s.selects is → let x := Ex.of s is
    let w := x.b.warp x.b.firstLive
    let addr : DWord := w.reg (f.a.toNat + 1) ++ w.reg f.a.toNat
    x.legal { ord := [2] } [wOpd f.d 1, wOpd f.a 2] = true → x.completes .block 15 s1 y →
    x.b.halt = none → s.enginesBusy is.blk = false → s.fillsBusy is.blk = false → s.still is.blk →
    x.b.die < s.dies.length →
    let P := (s.launch x.b.launch).rcd
    let traps (c : Cause) : Prop := ∃ t h, exec (.spawn f) s = .next t ∧ (t.blk is.blk).halt = some h ∧ h.trap.cause = c ∧
      h.trap.warp = x.b.firstLive ∧ h.trap.faultLanes = w.live ∧ h.trap.faddr = addr ∧ t.launches = s.launches
    if x.b.depth = 8 then traps .spawnDepth
    else if canonical addr = false then traps .prot
    else if addr.toNat % 128 ≠ 0 then traps .misalign
    else ∃ t, exec (.spawn f) s = .next t ∧ x.past y t ∧
      let answers (v : Word) : Prop := (t.blk is.blk).phase = x.b.phase ∧
        ∀ k < x.b.warps.length, (x.b.warp k).live ≠ 0 → (t.warp is.blk k).reg f.d.toNat = v
      (∀ a, s.takeRecord x.b.die x.b.ctx addr (some P) = (s, .inl a) →
        answers 1 ∧ t.launches = s.launches ∧ s.logged t x.b.die) ∧
      (∀ r e, s.takeRecord x.b.die x.b.ctx addr (some P) = (s, .inr (.inl (r, e))) →
        answers (BitVec.ofNat 32 e.code) ∧ ∃ L, t.launches = s.launches ++ [L] ∧ L.rcd = r ∧ L.status = e.code ∧
          L.phase = .done ∧ L.parent = none) ∧
      ∀ r, s.takeRecord x.b.die x.b.ctx addr (some P) = (s, .inr (.inr r)) →
        ((∀ off, ¬s.arenaFree x.b.ctx (saveBytesOf x.b) off) → answers 0x100 ∧ t.launches = s.launches) ∧
        ∀ off, s.arenaFree x.b.ctx (saveBytesOf x.b) off → (∀ o < off, ¬s.arenaFree x.b.ctx (saveBytesOf x.b) o) →
          (t.blk is.blk).phase = .saved ∧ (t.blk is.blk).spawnD = f.d.toNat ∧ (t.blk is.blk).arenaOff = off ∧
          (t.blk is.blk).saveB = saveBytesOf x.b ∧ ∃ L, t.launches = s.launches ++ [L] ∧ L.rcd = r ∧
            L.parent = some is.blk ∧ L.depth = x.b.depth + 1 ∧ L.home = x.b.die ∧ L.diesMask = 1#4 <<< x.b.die ∧
            L.next = 0 ∧ L.status = 0 ∧ L.phase = if (s.ctx x.b.ctx).preState = .running then .running else .held) ∧
  (∀ (s : State) die ctx addr (P : Record) bs, s.sees die ctx addr 128 bs → let n (off len : Nat) : Nat := leNat ((bs.drop off).take len)
    n 29 1 = 0 → n 56 2 = 0 → n 58 1 = 0 →
    if spawnCode bs = 0 then ∃ r, s.takeRecord die ctx addr (some P) = (s, .inr (.inr r)) ∧ r.code.toNat = n 0 8 ∧
      r.gridX = n 8 4 ∧ r.gridY = n 12 2 ∧ r.gridZ = n 14 2 ∧ r.blkX = n 16 2 ∧ r.blkY = n 18 1 ∧ r.blkZ = n 19 1 ∧
      r.lregs = n 20 1 ∧ r.gregs = n 28 1 ∧ r.scratch = n 24 4 ∧ r.l1min = n 30 1 ∧ r.doneCtr.toNat = n 40 8 ∧
      r.report.toNat = n 72 8 ∧ r.tag.toNat = n 80 8 ∧ r.cls = P.cls ∧ r.ctx = P.ctx ∧ r.sealed_ = P.sealed_ ∧
      r.persistent = false ∧ r.sets = [] ∧ r.bindings = [] ∧ r.windows = List.replicate 16 none
    else ∃ r, s.takeRecord die ctx addr (some P) = (s, .inr (.inl (r, ⟨spawnCode bs, 0, 0⟩)))) ∧
  ∀ s b d cl c, s.formed → b < s.blocks.length → s.inService d = true → s.resumable b = true → let B := s.blk b
    s.mayPlace d (s.launch B.launch).rank B.demand = true → s.findCore d B.demand = some (cl, c) → B.spawnD < 32 →
    ∃ t, exec (.parentResume b d) s = .next t ∧ (t.blk b).phase = .running ∧ (t.blk b).die = d ∧
      (t.blk b).cluster = cl ∧ (t.blk b).core = c ∧
      ∀ L, (s.launches.filter fun L => L.parent == some b).getLast? = some L → ∀ w < B.warps.length,
        (B.warp w).live ≠ 0 → (t.warp b w).reg B.spawnD = BitVec.ofNat 32 L.status

/-- CPLIN, CPMC, CPIDX, CPQF and CPSTAT: a post is taken with its ticket, CPQF makes later posts of its queues wait, and
CPSTAT reads and clears (R226 to R230). COPY_ARRIVAL and COPY_COMPLETE: words of a copy arrive, those of its source in
its destination, in scratchpad or in memory, and nowhere else but in its sync word, which counts them, until the copy
completes in the order of its queue; a failed one is recorded (R226 to R228, R230, R231, R234). -/
def Obligations.CopyResults : Prop :=
  (∀ s is s1 y, s.formed → s.selects is → s.calm is.blk → let x := Ex.of s is
    let off (a : BitVec 6) : Nat := (x.w.reg a.toNat).toNat
    let room (q : Nat) : Prop := (s.copies.filter fun o => o.blk == is.blk && o.q == q).length < 16
    (∀ (f : FormDA), ∀ q ∈ ([(.cplin f, false), (.cpmc f, true)] : List (Instr × Bool)),
      x.uniformGoes { ord := [2] } [wOpd f.d 1, wOpd f.a 1] true s1 y → x.descriptor (off f.a) →
      let n := x.b.spField (off f.a + 25) 1
      n < 8 → room n → linearGood x.b (off f.a) q.2 →
      ∃ t, exec q.1 s = .next t ∧ x.past y t ∧
        let r := linearRun x.b (off f.a)
        let w := x.b.spField (off f.a + 20) 4
        copyPosted x t f.d n [r] (if w ≠ 0xFFFFFFFF then some w else none) false q.2) ∧
    (∀ f : FormDAB,
      x.legal { mod := true, k := true, ord := [2] } [wOpd f.d 1, wOpd f.a 1, ⟨.v, f.b.toNat, 1, false⟩] = true →
      x.completes (.warp is.warp) x.pf.modOf.k.toNat s1 y → x.descriptor (off f.a) →
      let lanes := lanesOf ((x.b.needed y).getD is.warp 0)
      let p := indexPlan x.b.spSize (Memory.readBytes x.b.sp (off f.a) 32)
        (lanes.map fun l => (l, (x.w.lane l).reg f.b.toNat))
      (∀ l ∈ lanes, readiness (x.w.lane l).view [⟨f.b.toNat, 1, false, .own⟩] [] = .go) → p.q < 8 → room p.q →
      ∃ t, exec (.cpidx f) s = .next t ∧ x.past y t ∧ copyPosted x t f.d p.q p.runs p.sync p.bad false) ∧
    (∀ f : FormEA, x.uniformGoes {} [wOpd f.a 1] true s1 y →
      ∃ t, exec (.cpqf f) s = .next t ∧ x.past y t ∧ ∀ q < 8, (x.w.reg f.a.toNat).getLsbD q = true →
        ∀ o ∈ s.copies, o.blk = is.blk → o.q < 8 → (x.w.reg f.a.toNat).getLsbD o.q = true →
          o.id ∈ ((t.blk is.blk).copyQ.getD q default).fence) ∧
    ∀ f : FormDA, x.uniformGoes {} [wOpd f.d 2, wOpd f.a 1] true s1 y →
      let q := off f.a % 8
      ∃ t, exec (.cpstat f) s = .next t ∧ x.past y t ∧
        (t.warp is.blk is.warp).reg f.d.toNat = (x.b.copyQ.getD q default).completed ∧
        (t.warp is.blk is.warp).reg (f.d.toNat + 1) = (x.b.copyQ.getD q default).err ∧
        ((t.blk is.blk).copyQ.getD q default).err = 0) ∧
  ((∀ s (o : CopyOp), s.formed → s.copies.find? (fun x => x.id == o.id && !x.failed && !x.runs.isEmpty && s.copyMayStart x) =
      some o → o.blk < s.blocks.length → (∀ x ∈ s.copies, x.id = o.id → x = o) → s.calm o.blk →
    (∀ r ∈ o.runs, r.dstSp = true ∧ 4 ≤ r.len ∧ r.len % 4 = 0) →
    ∃ t, exec (.copyArrival o.id) s = .next t ∧ t.mem = s.mem ∧
      (∀ a, ¬o.mayWrite a → Memory.read (t.blk o.blk).sp a = Memory.read (s.blk o.blk).sp a) ∧
      ∃ o' ∈ t.copies, o'.id = o.id ∧
        (o'.failed = true ∨ (o'.runs.map (·.len)).sum < (o.runs.map (·.len)).sum)) ∧
  (∀ s (o : CopyOp) (v : CopyRun → Nat → List Byte) (ps : CopyRun → Nat → List Nat), s.formed →
    s.copies.find? (fun x => x.id == o.id && !x.failed && !x.runs.isEmpty && s.copyMayStart x) = some o →
    o.blk < s.blocks.length → (∀ x ∈ s.copies, x.id = o.id → x = o) → s.calm o.blk →
    (∀ r ∈ o.runs, s.copyReady o r (v r) (ps r)) →
    ∃ t r n, exec (.copyArrival o.id) s = .next t ∧ r ∈ o.runs ∧ 0 < n ∧ 4 * n ≤ r.len ∧
      (∀ i < n, ∀ p ∈ ps r i, (if r.dstSp then Memory.readBytes (t.blk o.blk).sp p 4 else t.readPa p 4) = v r i) ∧
      (∀ a, (r.dstSp = true ∨ ∀ i < n, ∀ p ∈ ps r i, ¬(p ≤ a ∧ a < p + 4)) →
        Memory.read t.mem a = Memory.read s.mem a) ∧
      (∀ a, (r.dstSp = false ∨ ¬(r.dst ≤ a ∧ a < r.dst + 4 * n)) → (∀ w, o.sync = some w → ¬(w ≤ a ∧ a < w + 16)) →
        Memory.read (t.blk o.blk).sp a = Memory.read (s.blk o.blk).sp a) ∧
      (∀ w, o.sync = some w → r.dstSp = true → o.rows = false → (s.blk o.blk).syncAfter (t.blk o.blk) w (4 * n)) ∧
      ∃ o' ∈ t.copies, o'.id = o.id ∧ o'.failed = false ∧
        (o'.runs.map (·.len)).sum + 4 * n = (o.runs.map (·.len)).sum) ∧
  ∀ s (o : CopyOp), s.formed → s.copies.find? (fun x => x.id == o.id) = some o → o.runs = [] ∨ o.failed = true →
    s.copyMayStart o = true → (s.copies.filter fun x => x.blk == o.blk && x.q == o.q).head? = some o →
    o.blk < s.blocks.length → o.q < 8 →
    ∃ t, exec (.copyComplete o.id) s = .next t ∧ t.copies = s.copies.filter (fun x => x.id != o.id) ∧
      let Q := (s.blk o.blk).copyQ.getD o.q default
      let Q' := (t.blk o.blk).copyQ.getD o.q default
      Q'.completed = Q.completed + 1 ∧
        Q'.err = if o.failed = true ∧ Q.err = 0 then BitVec.ofNat 32 (o.err + 256 * o.ticket.toNat) else Q.err)

/-- WINRD, which clears ERR, WINWAIT, WINWAIT_RELEASE, PUT and PUTSIG, which fail at once without a route (R372 to R377,
R379). DATA, DATA_SIGNAL, ACK, NACK and RETRY_TIMEOUT: a frame is read, a fault of its source ending the put, and sent
with the next number of its packages; at its target it is written once and answered, or sets the error bit; a signal
waits for the other frames of its put and of those it covers, and raises RCV; a frame of another package is taken or, if
it is not for this one, discarded; an acknowledged frame leaves and its put completes; a refused one, or a late one to
another package, is sent again up to 16 times (R375, R376, R378, R379, R421). That a refused frame is sent again at once
(assumption 35), that the numbers of a frame's header lie low byte first (assumption 73) and that a signal is sent after
the frames that it follows (assumption 74) are the model's choices. -/
def Obligations.WindowResults : Prop :=
  ((∀ s is s1 y, s.formed → s.selects is → let x := Ex.of s is
    let R (t : State) (n : Nat) : Word := (t.warp is.blk is.warp).reg n
    let H (a : BitVec 6) : Handle := s.handleOf x.b.ctx ((x.w.reg a.toNat).toNat % 64)
    (∀ f : FormDA, x.uniformGoes {} [wOpd f.d 2, wOpd f.a 1] true s1 y →
      ∃ t, exec (.winrd f) s = .next t ∧ x.past y t ∧
        if (x.w.reg f.a.toNat).getLsbD 6 = true then
          R t f.d.toNat = (H f.a).issued ∧ R t (f.d.toNat + 1) = (H f.a).err.setWidth 32 ∧
            t.handleOf x.b.ctx ((x.w.reg f.a.toNat).toNat % 64) = { H f.a with err := 0 }
        else R t f.d.toNat = (H f.a).rcv ∧ R t (f.d.toNat + 1) = (H f.a).ack ∧ t.ctxs = s.ctxs) ∧
    (∀ f : FormDAB, x.uniformGoes {} [wOpd f.d 1, wOpd f.a 1, wOpd f.b 1] true s1 y →
      let ack := (x.w.reg f.a.toNat).getLsbD 6
      let c := if ack then (H f.a).ack else (H f.a).rcv
      ∃ t, exec (.winwait f) s = .next t ∧ x.past y t ∧
        if (c - x.w.reg f.b.toNat).toNat < 2 ^ 31 then R t f.d.toNat = c
        else (t.warp is.blk is.warp).wait =
          some (.window ((x.w.reg f.a.toNat).toNat % 64) ack (x.w.reg f.b.toNat) f.d.toNat)) ∧
    ∀ (f : FormDA), ∀ q ∈ ([(.put f, false), (.putsig f, true)] : List (Instr × Bool)),
      x.uniformGoes { ord := [2] } [wOpd f.d 1, wOpd f.a 1] true s1 y → s.calm is.blk →
      let off := (x.w.reg f.a.toNat).toNat
      let n (i k : Nat) : Nat := x.b.spField (off + i) k
      let h := n 16 1
      x.descriptor off → putGood x.b off q.2 → (s.handleOf x.b.ctx h).valid = true → (s.ctx? x.b.ctx).isSome →
      h < (s.ctx x.b.ctx).handles.length → let H := s.handleOf x.b.ctx h
      let pkg := if H.tpkg = 0xFFFF then s.pkgId else H.tpkg
      ∃ t, exec q.1 s = .next t ∧ x.past y t ∧ R t f.d.toNat = H.issued ∧ let H' := t.handleOf x.b.ctx h
        H'.issued = H.issued + 1 ∧ (s.routed pkg H.thandle → H'.ack = H.ack ∧
          ∃ p ∈ t.puts, p.blk = is.blk ∧ p.win = h ∧ p.failed = false ∧
            (∀ z ∈ s.puts, z.blk = is.blk → z.win = h → z.id ∈ p.covers) ∧
            ∀ i < (n 12 4 + 4095) / 4096, ∃ g ∈ t.frames, g.put = some p.id ∧
              g.signal = (q.2 && decide (n 12 4 ≤ 4096 * (i + 1))) ∧ g.toff = n 8 4 + 4096 * i ∧
              g.src = (if n 17 1 = 1 then n 0 4 else n 0 8) + 4096 * i ∧ g.len = min 4096 (n 12 4 - 4096 * i) ∧
              g.srcSp = (n 17 1 == 1) ∧ g.tpkg = pkg ∧ g.tctx = H.tctx ∧ g.thandle = H.thandle ∧
              (g.signal = true → g.sig.toNat = n 20 4) ∧ g.data = none ∧ g.numbered = false) ∧
        (¬s.routed pkg H.thandle → H'.ack = H.ack + 1 ∧ H'.err = H.err ||| 1 ∧ (∀ g ∈ t.frames, g ∈ s.frames) ∧
          ∀ p ∈ t.puts, p ∈ s.puts)) ∧
  ∀ b w s h ack val d, s.formed → s.runs b → b < s.blocks.length → w < (s.blk b).warps.length → d < 32 →
    (s.warp b w).wait = some (.window h ack val d) →
    let H := s.handleOf (s.blk b).ctx h
    let c := if ack then H.ack else H.rcv
    if (c - val).toNat < 2 ^ 31 then
      ∃ t, exec (.winwaitRelease b w) s = .next t ∧ (t.warp b w).wait = none ∧ (t.warp b w).reg d = c
    else exec (.winwaitRelease b w) s = .fault .notEnabled) ∧
  ((∀ s (g : Frame) p (v : Nat → List Byte), s.frames.find? (fun x => x.id == g.id && x.signal == g.signal) = some g →
    g.data = none → s.puts.find? (fun q => g.put == some q.id) = some p →
    ((∀ i < g.len / 4, s.putSees p.blk g i (v i)) →
      ∃ t, exec g.event s = .next t ∧ t.mem = s.mem ∧ t.puts = s.puts ∧
        let bs := (List.range (g.len / 4)).flatMap v
        { g with data := some bs, len := bs.length } ∈ t.frames) ∧
    ∀ k c, k < g.len / 4 → (∀ i < k, s.putSees p.blk g i (v i)) → g.srcSp = false →
      let va : DWord := BitVec.ofNat 64 (g.src + 4 * k)
      (s.xlate (s.blk p.blk).die (s.blk p.blk).ctx va 4 .load).2 = .fault c →
      ∃ t, exec g.event s = .next t ∧ t.mem = s.mem ∧ (∀ x ∈ t.frames, x.put = some p.id → x.data ≠ none) ∧
        (∀ x ∈ s.frames, x.put = some p.id → x.signal = true → ∃ z ∈ t.frames, z.id = x.id ∧ z.sig = x.sig) ∧
        ∃ q ∈ t.puts, q.id = p.id ∧ q.failed = true ∧ q.code = c.code ∧ q.faddr = va) ∧
  (∀ s (g : Frame) bs, s.frames.find? (fun x => x.id == g.id && x.signal == g.signal) = some g → g.data = some bs →
    g.numbered = false → s.maySend g = true →
    ∃ t, exec g.event s = .next t ∧ t.mem = s.mem ∧ t.nextSeq g.tpkg = s.nextSeq g.tpkg + 1 ∧
      { g with seq := s.nextSeq g.tpkg, numbered := true, sent := s.cycle, onWay := true } ∈ t.frames) ∧
  (∀ s (g : Frame) p q, s.frames.find? (fun x => x.id == g.id && x.signal == g.signal) = some g → g.data.isSome = true →
    g.numbered = true → g.tpkg = s.pkgId → g.onWay = true → g.put = some p → s.taken g = false →
    (s.takesFrames g.tctx = false → ∃ t, exec g.event s = .next t ∧ (g.id, false) ∈ t.answers ∧ t.mem = s.mem) ∧
    (s.takesFrames g.tctx = true → g.signal = true → s.puts.find? (fun x => x.id == p) = some q →
      (∃ z ∈ s.frames, z.id ≠ g.id ∧ q.covered z ∧ s.taken z = false) → exec g.event s = .fault .notEnabled) ∧
    (s.takesFrames g.tctx = true → g.data ≠ some [] → (s.ctx? g.tctx).isSome →
      g.thandle < (s.ctx g.tctx).handles.length → (g.signal = true → s.signalReady g = true) →
      let H := s.handleOf g.tctx g.thandle
      H.valid = false ∨ H.lsize.toNat < g.last →
      ∃ t, exec g.event s = .next t ∧ (g.id, true) ∈ t.answers ∧ t.mem = s.mem ∧
        (t.handleOf g.tctx g.thandle).err = H.err ||| 2)) ∧
  (∀ s (g : Frame) p bs s' rs, s.formed → s.frames.find? (fun x => x.id == g.id && x.signal == g.signal) = some g →
    g.data = some bs → g.numbered = true → g.left = none → bs ≠ [] → g.tpkg = s.pkgId → g.onWay = true → s.takesFrames g.tctx = true → s.taken g = false →
    (s.ctx? g.tctx).isSome → g.thandle < (s.ctx g.tctx).handles.length → g.put = some p →
    let H := s.handleOf g.tctx g.thandle
    H.valid = true → g.last ≤ H.lsize.toNat → g.toff % 4 = 0 →
    s.xlateRange (s.ctx g.tctx).taskDie g.tctx .store (rangeFuel bs.length) (H.lbase + BitVec.ofNat 64 g.toff) bs.length =
      (s', rs, none) →
    (g.signal = true → s.signalReady g = true) →
    ∃ t, exec g.event s = .next t ∧ (g.id, true) ∈ t.answers ∧
      (g.spkg, g.seq) ∈ t.seen ∧ (∀ va pa n e, rs = [(va, pa, n, e)] → t.readPa pa bs.length = bs) ∧
      (t.handleOf g.tctx g.thandle).rcv = if g.signal then H.rcv + g.sig else H.rcv) ∧
  (∀ s (g : Frame) k, s.frames.find? (fun x => x.id == k) = some g → (k, true) ∈ s.answers →
    ∃ t, exec (.ack k) s = .next t ∧ t.answers = s.answers.erase (k, true) ∧ (∀ x ∈ t.frames, x.id ≠ k) ∧
      ∀ p : PutOp, s.puts.find? (fun x => g.put == some x.id) = some p → (s.ctx? p.ctx).isSome →
        p.win < (s.ctx p.ctx).handles.length → (∀ x ∈ s.frames, x.put = g.put → x.id = k) →
        (t.handleOf p.ctx p.win).ack = (s.handleOf p.ctx p.win).ack + 1 ∧ ∀ x ∈ t.puts, x.id ≠ p.id) ∧
  (∀ s (g : Frame) k, s.frames.find? (fun x => x.id == k) = some g → (k, false) ∈ s.answers → g.tries < 16 →
    ∃ t g', exec (.nack k) s = .next t ∧ t.frames.find? (fun x => x.id == k) = some g' ∧ g'.tries = g.tries + 1 ∧
      g'.onWay = true) ∧
  ∀ s (g : Frame) p, s.frames.find? (fun x => x.id == g.id) = some g → g.put = some p → g.numbered = true →
    g.tpkg ≠ s.pkgId →
    g.sent + 20 * Config.usCycles ≤ s.cycle →
    (g.tries < 16 → ∃ t g', exec (.retryTimeout g.id) s = .next t ∧ t.frames.find? (fun x => x.id == g.id) = some g' ∧
      g'.tries = g.tries + 1 ∧ g'.sent = s.cycle ∧ g'.onWay = true) ∧
    ∀ q, 16 ≤ g.tries → s.puts.find? (fun x => x.id == p) = some q → (s.ctx? q.ctx).isSome →
      q.win < (s.ctx q.ctx).handles.length →
      ∃ t, exec (.retryTimeout g.id) s = .next t ∧ (∀ x ∈ t.puts, x.id ≠ p) ∧
        (∀ c h, (t.handleOf c h).rcv = (s.handleOf c h).rcv) ∧
        let H := s.handleOf q.ctx q.win
        let H' := t.handleOf q.ctx q.win
        H'.ack = H.ack + 1 ∧ H'.err = H.err ||| 1) ∧
  ∀ s (x : WireFrame) signal, let n (off len : Nat) : Nat := fieldAt x.header off len
    s.frames.find? (fun f => f.id == x.id && f.signal == signal) = none → (n 1 1 = if signal then 1 else 0) →
    s.wire.find? (fun y => y.id == x.id && (fieldAt y.header 1 1 == 1) == signal && fieldAt y.header 1 1 ≤ 1) = some x →
    ∃ t, exec (if signal then .dataSignal x.id else .data x.id) s = .next t ∧ (∀ y ∈ t.wire, y.id ≠ x.id) ∧
      if n 0 1 = 1 ∧ n 4 2 = s.pkgId ∧ s.mode = .service then ∃ g, t.frames = s.frames ++ [g] ∧ g.put = none ∧
        g.signal = signal ∧ g.spkg = n 2 2 ∧ g.tctx = n 6 1 ∧ g.thandle = n 7 1 ∧ g.seq = BitVec.ofNat 32 (n 8 4) ∧
        g.toff = n 12 4 ∧ g.data = some (x.data.take (n 16 2)) ∧ g.onWay = true
      else t.frames = s.frames

namespace Sys2Proof.Machine

/-! ### The matrix engine -/

/-- An entry that a warp has posted (R252). -/
def State.posted (t : State) (b w : Nat) (k : MxKind) : Prop := ∃ e ∈ t.mrt, e.blk = b ∧ e.warp = w ∧ e.kind = k

/-- The operands of an MMA of some lanes of a warp lie in scratchpad, aligned (R248). -/
def MmaOp.fits (m : MmaOp) (B : Block) (w : Nat) (lanes : List Nat) (idx : Nat → Nat) : Prop :=
  let a := ((B.warp w).reg (m.bd + 1)).toNat
  ((B.warp w).reg m.bd).toNat % 16 = 0 ∧ a % 2 ^ 20 % 16 = 0 ∧ ((B.warp w).reg m.bd).toNat + 12288 ≤ B.spSize ∧
    ∀ l ∈ lanes, a % 2 ^ 20 + idx l * 16 * (a / 2 ^ 20) + 384 ≤ B.spSize

/-- The pass of some lanes of a warp: each lane's row, its index and its A scales (R247). -/
def MmaOp.passOf (m : MmaOp) (B : Block) (w tile : Nat) (lanes : List Nat) (idx : Nat → Nat) (q : Option Nat) : MxKind :=
  m.pass (B.warp w) tile (lanes.map fun l => (l, idx l, m.scales m.sra ((B.warp w).lane l).scaleReg)) q

/-- An entry is the first of its name, and the array, which is free for a pass, or the drain unit takes it next (R253,
R262, R270). -/
def State.mxTakes (s : State) (e : MxEntry) (array : Bool) : Prop :=
  s.mrt.find? (fun x => x.id == e.id) = some e ∧ s.mxNext e.cl array = some e ∧ e.kind.isPass = array ∧
    (array = true → s.arrayFree e.cl = true) ∧ e.blk < s.blocks.length ∧ e.snap = (s.blk e.blk).sp

/-- A tile of +0 elements without poison, which depends on no pass; its sub-arrays are still to be tested (R260, R265,
R270, R271). -/
def clearedTile (T : Tile) : Tile :=
  { Tile.zero with untested := T.untested, away := T.away.map fun x => (x.1, 0, x.2.2) }

/-- A line that MXDS reads, as values (R264, R265). -/
def Tile.lineVals (T : Tile) (tr : Bool) (n : Nat) : List Val :=
  (List.range 32).map fun i => valueOf 24 (if tr then T.elem i n else T.elem n i).toNat

/-- The scale of a line and its code, 1 without scales (R265). -/
def drainScale (df sf : Nat) (vs : List Val) : Val × Nat :=
  if sf = 0 then (.one, 0) else let r := lineScale df sf (amaxOf vs); (r.1, r.2.1)

/-- The bytes of a line that MXDS writes: ACC40 as it is, else each element divided by the scale and rounded (R265). -/
def drainBytes (T : Tile) (df sf : Nat) (sat tr : Bool) (n : Nat) : List Byte :=
  let vs := T.lineVals tr n
  let s := (drainScale df sf vs).1
  packBytes (lineBits df) (if df = 24 then (List.range 32).map fun i => (if tr then T.elem i n else T.elem n i).toNat
    else vs.map fun v => (roundTo (if sf = 0 then v else v.div s) df 1 (sat || sf != 0) false false).1)

/-- Bytes from one offset on lie apart from those from another on. -/
def disjoint (a n b m : Nat) : Prop := overlap a n b m = false

/-- The fields of a REQ descriptor whose regions lie apart, but for those that may coincide (R268): source, destination,
old and new scales, and the sync word, which is apart from what is written. -/
def reqApart (d : List Byte) : Prop :=
  let f (off len : Nat) : Nat := fieldAt d off len
  let bytes := f 16 4 * (groupSize (f 20 1) 0 * fmtWidth (f 21 1) / 8)
  let scl := f 16 4 * scaleBytes (f 22 1)
  let compute := f 23 1 % 2 = 1
  (f 0 4 = f 4 4 ∨ disjoint (f 0 4) bytes (f 4 4) bytes) ∧ disjoint (f 8 4) scl (f 4 4) bytes ∧
    disjoint (f 12 4) scl (f 4 4) bytes ∧
    (compute → disjoint (f 12 4) scl (f 0 4) bytes ∧ (f 12 4 = f 8 4 ∨ disjoint (f 12 4) scl (f 8 4) scl)) ∧
    (f 24 4 ≠ 0xFFFFFFFF → disjoint (f 24 4) 16 (f 4 4) bytes ∧ disjoint (f 24 4) 16 (f 12 4) scl)

/-- The value of a source element of a group of REQ, the old scale, and the new one with its code (R268). -/
def reqVals (B : Block) (d : List Byte) (j : Nat) : List Val × Val × Val × Nat :=
  let f (off len : Nat) : Nat := fieldAt d off len
  let n := groupSize (f 20 1) 0
  let w := fmtWidth (f 21 1)
  let sb := scaleBytes (f 22 1)
  let vs := (unpack w n (Memory.readBytes B.sp (f 0 4 + j * (n * w / 8)) (n * w / 8))).map (valueOf (f 21 1))
  let code (off : Nat) : Nat := leNat (Memory.readBytes B.sp (off + j * sb) sb)
  let so := scaleVal (f 22 1) (code (f 8 4))
  let new := if f 23 1 % 2 = 1 then drainScale (f 21 1) (f 22 1) (vs.map fun v => v.mul so)
    else (scaleVal (f 22 1) (code (f 12 4)), code (f 12 4))
  (vs, so, new)

/-- An entry has been served. -/
def State.served (s t : State) (e : MxEntry) : Prop := t.mrt = s.mrt.filter fun x => x.id != e.id

end Sys2Proof.Machine

open Sys2Proof Sys2Proof.Machine

/-- MMA at every scope: its entries are in the table, one for each quarter of a lane-scope group, else one for each warp
(R244 to R252). -/
def Obligations.MmaPosts : Prop :=
  ∀ (f : FormQ) s is y, s.formed → s.selects is → s.calm is.blk → let x := Ex.of s is
    let sc := f.sc.toNat
    let m := mmaOf f x.pf
    let set (u : RdvUnit) : Option Nat := match u with | .set i => some i | _ => none
    let entryRoom (n : Nat) : Prop := n ≤ Config.mrt - (s.mrt.filter fun e => e.cl == x.b.clusterNo).length
    x.legal { mod := true, k := sc == 1 || sc == 2, ss := sc == 2, fmt := true }
      [⟨if sc = 2 then .g else .v, f.ix.toNat, 1, false⟩] (m.ok x.b.lregs sc && (x.inService || m.inTwilight)) = true →
    (x.w.lane (lowest x.is.lanes)).replay = false →
    (sc = 0 → let lanes := lanesOf is.lanes
      let idx := m.index x.b none is.warp
      (∀ l ∈ lanes, m.ready x.b none is.warp l = .go) → m.readyB x.w = .go → m.fits x.b is.warp lanes idx →
      m.acc < x.b.tiles.length → entryRoom 4 →
      ∃ t, exec (.mma f) s = .next t ∧ x.stepped t ∧ ∀ q < 4, lanes.filter (fun l => l / 8 == q) ≠ [] →
        t.posted is.blk is.warp (m.passOf x.b is.warp m.acc (lanes.filter fun l => l / 8 == q) idx (some q))) ∧
    ∀ u s1, x.unit sc = some u → sc = 1 ∨ sc = 2 → x.completes u x.pf.modOf.k.toNat s1 y →
      let lanes (w : Nat) : List Nat := lanesOf ((x.b.needed y).getD w 0)
      let ws := (List.range x.b.warps.length).filter fun w => (x.b.needed y).getD w 0 != 0
      (∀ w ∈ ws, m.readyB (x.b.warp w) = .go ∧ m.fits x.b w (lanes w) (m.index x.b (set u) w) ∧
        m.tileOf x.b (set u) w < x.b.tiles.length ∧ ∀ l ∈ lanes w, m.ready x.b (set u) w l = .go) →
      m.missing x.b (set u) = none → entryRoom ws.length →
      ∃ t, exec (.mma f) s = .next t ∧ x.past y t ∧ ∀ w ∈ ws,
        t.posted is.blk w (m.passOf x.b w (m.tileOf x.b (set u) w) (lanes w) (m.index x.b (set u) w) none)

/-- MXRES, MXREL, MXZERO, MXSTAT, MXTEST, MXPRI, MXDS, MXLD, REQ and MXDV (R258 to R268). -/
def Obligations.MatrixPosts : Prop :=
  ∀ s is s1 y, s.formed → s.selects is → s.calm is.blk → let x := Ex.of s is
    let room : Prop := (s.mrt.filter fun e => e.cl == x.b.clusterNo).length < Config.mrt
    let tile (a : BitVec 6) : Nat := (x.w.reg a.toNat).toNat % 64
    let off (a : BitVec 6) : Nat := (x.w.reg a.toNat).toNat
    let desc (a : BitVec 6) : List Byte := Memory.readBytes x.b.sp (off a) 32
    let sees (t : State) (k : MxKind) : Prop := x.past y t ∧ t.posted is.blk is.warp k
    (∀ f : FormDA, x.legal {} [wOpd f.d 1, wOpd f.a 1] = true → x.completes .block 15 s1 y →
      let n := ((x.b.warp x.b.firstLive).reg f.a.toNat).toNat
      let st : Nat := if n = 0 ∨ 32 < n then 1 else if x.b.tiles ≠ [] then 3
        else if s.freeTiles x.b.clusterNo < n then 2 else 0
      ∃ t, exec (.mxres f) s = .next t ∧ x.past y t ∧
        (∀ w < x.b.warps.length, (x.b.warp w).live ≠ 0 → (t.warp is.blk w).reg f.d.toNat = BitVec.ofNat 32 st) ∧
        (t.blk is.blk).tiles = if st = 0 then List.replicate n Tile.zero else x.b.tiles) ∧
    (x.legal {} [] = true → x.completes .block 15 s1 y → s.mxBusy is.blk = false →
      ∃ t, exec .mxrel s = .next t ∧ x.past y t ∧ (t.blk is.blk).tiles = []) ∧
    (∀ f : FormAB, f.b ≠ 0 → x.uniformGoes {} [wOpd f.a 1, litOpd f.b 32] true s1 y → room →
      tile f.a + f.b.toNat ≤ x.b.tiles.length →
      ∃ t, exec (.mxzero f) s = .next t ∧ sees t (.zero (tile f.a) f.b.toNat)) ∧
    (∀ f : FormMx, x.legal { mod := !f.blk, k := !f.blk } [wOpd f.d 1, wOpd f.a 1, litOpd f.b 1] = true →
      x.completes (if f.blk then .block else .warp is.warp) (if f.blk then 15 else x.pf.modOf.k.toNat) s1 y →
      let n := ((x.b.warp (if f.blk then x.b.firstLive else is.warp)).reg f.a.toNat).toNat % 64
      n = 63 ∨ n < x.b.tiles.length →
      ∃ t c, exec (.mxstat f) s = .next t ∧ x.past y t ∧
        (∀ w < x.b.warps.length, (if f.blk then (x.b.warp w).live ≠ 0 else w = is.warp) →
          (t.warp is.blk w).wait = some (.mxstat f.b.toNat n f.d.toNat c 0 f.blk)) ∧
        ∀ e ∈ s.mrt, e.id ∈ c ↔ ∃ e' ∈ s.mrt, e'.id = e.id ∧ e'.blk = is.blk ∧ e'.kind.isWalk = false ∧
          (f.blk = false → e'.warp = is.warp)) ∧
    (∀ f : FormED, x.uniformGoes {} [wOpd f.d 1] true s1 y →
      let on := ~~~(s.cluster x.b.clusterNo).fenced
      ∃ t, exec (.mxtest f) s = .next t ∧ x.past y t ∧
        if on = 0 then (t.warp is.blk is.warp).reg f.d.toNat = 0
        else (t.warp is.blk is.warp).wait = some (.mxtest on 0 f.d.toNat)) ∧
    (∀ f : FormEA, x.uniformGoes {} [wOpd f.a 1] true s1 y →
      (∃ t, exec (.mxpri f) s = .next t ∧ x.past y t ∧ (t.blk is.blk).mxPri = off f.a % 4) ∧
      (x.descriptor (off f.a) → badReqDesc x.b.spSize (desc f.a) = false → room →
        ∃ t, exec (.req f) s = .next t ∧ sees t (.req (desc f.a)))) ∧
    (∀ f : FormAB, x.uniformGoes {} [wOpd f.a 1, wOpd f.b 1] true s1 y → room → tile f.a < x.b.tiles.length →
      x.descriptor (off f.b) →
      (badTileDesc x.b.spSize false (desc f.b) = false →
        ∃ t, exec (.mxds f) s = .next t ∧ sees t (.drain (tile f.a) (desc f.b))) ∧
      (badTileDesc x.b.spSize true (desc f.b) = false →
        ∃ t, exec (.mxld f) s = .next t ∧ sees t (.load (tile f.a) (desc f.b)))) ∧
    ∀ (f : FormDAB) k, drainShape f.b.toNat = some k →
      x.legal { mod := true, k := true, mz := true } [⟨.v, f.d.toNat, 4, false⟩, wOpd f.a 1] = true →
      x.completes (.warp is.warp) x.pf.modOf.k.toNat s1 y → room → tile f.a < x.b.tiles.length →
      let n := (x.b.needed y).getD is.warp 0
      let chunk := off f.a / 256 % 16
      chunk < k.2 → (∀ l ∈ lanesOf n, ∀ i ∈ codes f.d.toNat 4, (x.w.lane l).full i = true) →
      (x.pf.modOf.mz = true → x.w.othersPend n (codes f.d.toNat 4) = false) →
      ∃ t, exec (.mxdv f) s = .next t ∧ sees t (.drainV (tile f.a) chunk f.b.toNat f.d.toNat n) ∧
        ∀ l ∈ lanesOf n, ∀ i ∈ codes f.d.toNat 4, (t.lane is.blk is.warp l).full i = false

/-- PASS, MXZERO_SERVE, MXDS_SERVE, MXDV_SERVE, MXLD_SERVE and REQ_SERVE on scratchpad unchanged since the post: rows
become the sums of their terms, lines go to scratchpad with their scales, quads to registers, groups move from the old
scale to the new one, poison goes along, the sync word is raised by the bytes written, and nothing else changes (R179,
R247, R260, R265 to R269). The scale of a line is the largest magnitude over the largest finite value, rounded up (R265).
-/
def Obligations.MatrixSteps : Prop :=
  (∀ s (e : MxEntry) tile rows boff abase pitch fa fb g sf sb scB q, s.formed → s.mxTakes e true →
    e.kind = .pass tile rows boff abase pitch fa fb g sf sb scB q → s.mxFused e = [e] → (rows.map (·.1)).Nodup →
    tile < (s.blk e.blk).tiles.length → (∀ r ∈ rows, r.1 < 32) → ((s.blk e.blk).tile tile).rows.length = 32 →
    let B := s.blk e.blk
    let K := passDepth (fmtWidth fa)
    let operand (off : Nat) : List Nat := unpack (fmtWidth fa) K (Memory.readBytes B.sp off 384)
    ∃ t, exec (.pass e.id) s = .next t ∧ s.served t e ∧ (t.blk e.blk).sp = B.sp ∧
      (∀ r ∈ rows, ∀ c < 32, ((t.blk e.blk).tile tile).elem r.1 c = BitVec.ofNat 40
        (passElem ((B.tile tile).elem r.1 c) fa fb (groupSize g K) sf (operand (abase + r.2.1 * 16 * pitch)) (operand (boff + 384 * c))
          r.2.2 (scB.getD c [])).1) ∧
      (∀ r, r ∉ rows.map (·.1) → ((t.blk e.blk).tile tile).row r = (B.tile tile).row r) ∧
      (∀ g < 4, let bad (r : Nat × Nat × List Nat) : Bool := B.spPoisoned boff 12288 ||
          B.spPoisoned (abase + r.2.1 * 16 * pitch) 384 || (s.cluster e.cl).suspect.getLsbD ((s.cluster e.cl).subOf g)
        ((t.blk e.blk).tile tile).poison.getLsbD g =
          ((B.tile tile).poison.getLsbD g || rows.any fun r => r.1 / 8 == g && bad r)) ∧
      ∀ i, i ≠ tile → (t.blk e.blk).tile i = B.tile i) ∧
  (∀ s (e : MxEntry) i n, s.formed → s.mxTakes e false → e.kind = .zero i n → i + n ≤ (s.blk e.blk).tiles.length →
    ∃ t, exec (.mxzeroServe e.id) s = .next t ∧ s.served t e ∧
      t = { s with mrt := t.mrt, blocks := t.blocks } ∧ (∀ b ≠ e.blk, t.blk b = s.blk b) ∧
      t.blk e.blk = { s.blk e.blk with tiles := (t.blk e.blk).tiles } ∧
      ∀ j, let T := (s.blk e.blk).tile j
        (t.blk e.blk).tile j = if i ≤ j ∧ j < i + n then clearedTile T else T) ∧
  (∀ s (e : MxEntry) i d, s.formed → s.mxTakes e false → e.kind = .drain i d → s.drainWaits e.id = false →
    s.calm e.blk → let B := s.blk e.blk
    let T := B.tile i
    let f (off len : Nat) : Nat := fieldAt d off len
    let df := f 16 1
    let sf := f 17 1
    let tr := (f 18 1).testBit 0
    let lb := lineBytes df
    let sb := scaleBytes sf
    let sync := f 12 4
    let inLines (a : Nat) : Prop := ∃ n < 32, f 0 4 + n * f 4 4 ≤ a ∧ a < f 0 4 + n * f 4 4 + lb
    let inScales (a : Nat) : Prop := f 8 4 ≤ a ∧ a < f 8 4 + 32 * sb
    let inSync (a : Nat) : Prop := sync ≠ 0xFFFFFFFF ∧ sync ≤ a ∧ a < sync + 16
    df ≤ 24 → df ≠ 21 → sf ≤ 3 → (df = 24 → sf = 0) → lb ≤ f 4 4 →
    (∀ a, inLines a → ¬inScales a ∧ ¬inSync a) → (∀ a, inScales a → ¬inSync a) →
    ∃ t, exec (.mxdsServe e.id) s = .next t ∧ s.served t e ∧ let B' := t.blk e.blk
      (∀ n < 32, Memory.readBytes B'.sp (f 0 4 + n * f 4 4) lb = drainBytes T df sf ((f 18 1).testBit 1) tr n ∧
        Memory.readBytes B'.sp (f 8 4 + n * sb) sb = leBytes sb (drainScale df sf (T.lineVals tr n)).2) ∧
      (∀ a, ¬inLines a → ¬inScales a → ¬inSync a → Memory.read B'.sp a = Memory.read B.sp a) ∧
      (sync ≠ 0xFFFFFFFF → if T.poison = 0 then B.syncAfter B' sync (32 * (lb + sb))
        else (B'.spWord (sync + 12)).getLsbD 0 = true) ∧
      (tr = false → ∀ n < 32, T.poison.getLsbD (n / 8) = true → B'.spPoisoned (f 0 4 + n * f 4 4) lb = true) ∧
      (∀ j, B'.tile j = if j = i ∧ (f 18 1).testBit 2 = true then clearedTile T else B.tile j) ∧
      (∀ b ≠ e.blk, t.blk b = s.blk b) ∧ B' = { B with sp := B'.sp, spPoison := B'.spPoison, tiles := B'.tiles }) ∧
  (∀ df (n d : Nat) (z : Int), df ≤ 20 ∨ df = 22 ∨ df = 23 → 0 < n → 0 < d → let q := (Val.fin false n d z).div (maxFinite df)
    (∃ k : Int, (lineScale df 2 (.fin false n d z)).1 = .fin false 1 1 (min 127 (max (-127) k)) ∧
      (lineScale df 2 (.fin false n d z)).2.1 = (min 127 (max (-127) k) + 127).toNat ∧
      (Val.fin false 1 1 k).lt q = false ∧ (Val.fin false 1 1 (k - 1)).lt q = true) ∧
    ∀ sf, sf = 1 ∨ sf = 3 → let c := (roundTo q (if sf = 1 then 3 else 0) 4 true false false).1
      (lineScale df sf (.fin false n d z)).1 = scaleVal sf c ∧ (lineScale df sf (.fin false n d z)).2.1 = c) ∧
  (∀ s (e : MxEntry) i chunk fmt d lanes, s.formed → s.mxTakes e false → e.kind = .drainV i chunk fmt d lanes →
    s.drainWaits e.id = false → e.warp < (s.blk e.blk).warps.length → d + 4 ≤ 64 →
    ∃ t, exec (.mxdvServe e.id) s = .next t ∧ s.served t e ∧
      (∀ l ∈ lanesOf lanes, (s.lane e.blk e.warp l).live = true →
        t.holds e.blk e.warp (.v l d) (drainQuad fmt chunk (((s.blk e.blk).tile i).row l)).1 ∧
        ∀ n ∈ codes d 4, (t.lane e.blk e.warp l).poisoned n = ((s.blk e.blk).tile i).poison.getLsbD (l / 8)) ∧
      (t.blk e.blk).sp = (s.blk e.blk).sp ∧ (t.blk e.blk).tiles = (s.blk e.blk).tiles ∧
      ∀ b w l n, b ≠ e.blk ∨ w ≠ e.warp ∨ lanes.getLsbD l = false ∨ n ∉ codes d 4 →
        (t.lane b w l).reg n = (s.lane b w l).reg n ∧ (t.lane b w l).full n = (s.lane b w l).full n) ∧
  (∀ s (e : MxEntry) i d, s.formed → s.mxTakes e false → e.kind = .load i d → i < (s.blk e.blk).tiles.length →
    let B := s.blk e.blk
    let df := fieldAt d 16 1
    let sf := fieldAt d 17 1
    let line (n : Nat) : List (BitVec 40) := (loadLine df sf
      (Memory.readBytes B.sp (fieldAt d 0 4 + n * fieldAt d 4 4) (lineBytes df))
      (Memory.readBytes B.sp (fieldAt d 8 4 + n * scaleBytes sf) (scaleBytes sf))).1
    ∃ t, exec (.mxldServe e.id) s = .next t ∧ s.served t e ∧ (t.blk e.blk).sp = B.sp ∧ ∀ r < 32, ∀ c < 32,
      ((t.blk e.blk).tile i).elem r c = if fieldAt d 18 1 % 2 = 1 then (line c).getD r 0 else (line r).getD c 0) ∧
  ∀ s (e : MxEntry) d, s.formed → s.mxTakes e false → e.kind = .req d → s.calm e.blk →
    let n := fieldAt d 16 4
    let gb := groupSize (fieldAt d 20 1) 0 * fmtWidth (fieldAt d 21 1) / 8
    let scl := scaleBytes (fieldAt d 22 1)
    ∃ t, exec (.reqServe e.id) s = .next t ∧ s.served t e ∧ (t.blk e.blk).tiles = (s.blk e.blk).tiles ∧
      (∀ a, ¬(fieldAt d 4 4 ≤ a ∧ a < fieldAt d 4 4 + n * gb) →
        ¬(fieldAt d 23 1 % 2 = 1 ∧ fieldAt d 12 4 ≤ a ∧ a < fieldAt d 12 4 + n * scl) →
        ¬(fieldAt d 24 4 ≠ 0xFFFFFFFF ∧ fieldAt d 24 4 ≤ a ∧ a < fieldAt d 24 4 + 16) →
        Memory.read (t.blk e.blk).sp a = Memory.read (s.blk e.blk).sp a) ∧
      (badReqDesc (s.blk e.blk).spSize d = false → reqApart d →
        (∀ j < n, let r := reqVals (s.blk e.blk) d j
          Memory.readBytes (t.blk e.blk).sp (fieldAt d 4 4 + j * gb) gb = packBytes (fmtWidth (fieldAt d 21 1))
            (r.1.map fun v => (roundTo ((v.mul r.2.1).div r.2.2.1) (fieldAt d 21 1) 1 true false false).1) ∧
          (fieldAt d 23 1 % 2 = 1 →
            Memory.readBytes (t.blk e.blk).sp (fieldAt d 12 4 + j * scl) scl = leBytes scl r.2.2.2)) ∧
        (fieldAt d 24 4 ≠ 0xFFFFFFFF → (s.blk e.blk).spPoison = [] → (s.blk e.blk).syncAfter (t.blk e.blk) (fieldAt d 24 4)
          (n * (gb + if fieldAt d 23 1 % 2 = 1 then scl else 0))))

/-- MXSTAT_RETURN and SELF_TEST: the status comes once the covered posts are done, one word for all warps at block scope;
a test that passes frees what depended on its sub-array, one that fails marks it and poisons, and MXTEST gathers the
outcomes (R261, R262, R270 to R272). That mode 1 waits for the tests of every tile of the block (assumption 39) is the
model's choice. -/
def Obligations.MatrixStatus : Prop :=
  (∀ (s : State) b w mode tile d c k whole, s.formed → b < s.blocks.length → w < (s.blk b).warps.length → d < 32 →
    (s.warp b w).wait = some (.mxstat mode tile d c k whole) →
    if s.mxReached b mode c k then
      ∃ t, exec (.mxstatReturn b w) s = .next t ∧
        let C := s.cluster (s.blk b).clusterNo
        let p := if tile = 63 then 0 else ((s.blk b).tile tile).poison.toNat
        let word := BitVec.ofNat 32 (p + 16 * C.suspect.toNat + 256 * C.fenced.toNat + 65536 * (s.blk b).tiles.length)
        ∀ v < (s.blk b).warps.length,
          if v = w ∨ whole = true ∧ (s.warp b v).wait = (s.warp b w).wait then
            (t.warp b v).wait = none ∧ (t.warp b v).reg d = word
          else t.warp b v = s.warp b v
    else exec (.mxstatReturn b w) s = .fault .notEnabled) ∧
  ∀ s cl sub good, cl < s.clusters.length → sub < 4 → (s.cluster cl).fenced.getLsbD sub = false →
    ∃ t, exec (.selfTest cl sub good) s = .next t ∧ (t.cluster cl).tests = (s.cluster cl).tests + 1 ∧
      (t.cluster cl).fails = (if good then (s.cluster cl).fails else (s.cluster cl).fails + 1) ∧
      (good = false → (t.cluster cl).suspect.getLsbD sub = true) ∧
      ∀ b < s.blocks.length,
        let here := (s.blk b).resident = true ∧ (s.blk b).clusterNo = cl
        (∀ i < (s.blk b).tiles.length, ∀ g < 4, let T := (s.blk b).tile i
          let T' := (t.blk b).tile i
          let away := T.away.any fun x => x.1 == cl && x.2.1.getLsbD (4 * g + sub)
          T'.rows = T.rows ∧ (good = true → T'.poison = T.poison ∧ (here → T'.dep.getLsbD (4 * g + sub) = false)) ∧
          (good = false → (T'.poison.getLsbD g = true ↔
            T.poison.getLsbD g = true ∨ away = true ∨ here ∧ T.dep.getLsbD (4 * g + sub) = true))) ∧
        ∀ w p f d, here → (s.warp b w).wait = some (.mxtest p f d) → w < (s.blk b).warps.length → d < 32 →
          (s.warp b w).w.length = 32 → let p' := p &&& ~~~(1#4 <<< sub)
          let f' := if good then f else f ||| (p &&& (1#4 <<< sub))
          if p' = 0 then (t.warp b w).wait = none ∧ (t.warp b w).reg d = f'.setWidth 32
          else (t.warp b w).wait = some (.mxtest p' f' d)

namespace Sys2Proof.Machine

/-! ### The prefix-tree walker -/

/-- A request that a walker has taken, its status register held (R97, R299). -/
def Ex.asked (x : Ex) (t : State) (d : BitVec 6) (k : WalkReqKind) : Prop :=
  ∃ id, (t.warp x.is.blk x.is.warp).hold = some id ∧
    t.walkReqs = x.s.walkReqs ++
      [{ id := id, cl := x.b.clusterNo, blk := x.is.blk, warp := x.is.warp, d := d.toNat, kind := k }]

/-- A walk is its walker's next and in a phase, with no page request kept back (R285, R294). -/
def State.turn (s : State) (k : Nat) (ph : WalkPhase) : Prop :=
  s.walkTurn k = true ∧ (s.walkAt k).phase = ph ∧ (s.walkAt k).want = none ∧ ((s.walkAt k).subs.map (·.idx)).Nodup

/-- A walk whose turn it is stands at a node boundary: no results are being written, and no subscriber waits there to be
LEFT (R290, R291). -/
def State.walking (s : State) (k : Nat) (ph : WalkPhase) : Prop :=
  s.turn k ph ∧ (s.walkAt k).outs = [] ∧ (s.walkAt k).cur = none ∧ ∀ x ∈ (s.walkAt k).subs, x.leaving = false

/-- What a walk reads of a node's block when all of it can be read and no unordered append touches what it sees: T, and
the bytes of each range (R288, R298). -/
def State.blockRead (s : State) (k n t : Nat) (bss : List (List Byte)) : Prop :=
  let w := s.walkAt k
  let place := clusterPlace w.cl
  t ≤ 64 ∧ (∀ a ∈ s.appended, a.ordered w = true) ∧
    s.sees place w.ctx (BitVec.ofNat 64 (w.f 0 8 + 16 * n + 6)) 2 (leBytes 2 t) ∧
    bss.length = (w.blockRanges n t).length ∧
    ∀ i va m, (w.blockRanges n t)[i]? = some (va, m) → s.sees place w.ctx va m (bss.getD i [])

/-- A visit has begun: T and the block have been read, and no pass has been posted (R288, R289). -/
def State.visitBegun (s t : State) (k n T : Nat) (bss : List (List Byte)) : Prop :=
  let w := t.walkAt k
  w.cur = some n ∧ w.curT = some T ∧ w.rows = some bss ∧ w.group = 0 ∧ t.mem = s.mem ∧ t.mrt = s.mrt

/-- A walk is at a node whose block it has read, and stands at one of its passes (R289). -/
def State.atNode (s : State) (k n T : Nat) (bss : List (List Byte)) (ph : WalkPhase) : Prop :=
  let w := s.walkAt k
  s.turn k ph ∧ w.outs = [] ∧ w.cur = some n ∧ w.curT = some T ∧ T ≤ 64 ∧ w.rows = some bss

/-- A walk has posted the entry of its next pass, with the class of the launch and the priority PRI (R252, R253,
R289). -/
def State.passPosted (s t : State) (k : Nat) : Prop :=
  let w := s.walkAt k
  t.mem = s.mem ∧ (t.walkAt k).group = w.group ∧ (t.walkAt k).rows = w.rows ∧ ∃ e : MxEntry,
    t.mrt = s.mrt ++ [e] ∧ e.cl = w.cl ∧ e.blk = w.blk ∧ e.warp = w.warp ∧ e.pri = w.pri ∧
      e.cls = (s.launch (s.blk w.blk).launch).rcd.cls ∧ e.posted = s.cycle ∧ e.kind = .walk k

/-- A walk at a node whose pass has not been posted: with room in the reservation table the pass is posted, with none it
waits (R252). -/
def State.posts (s : State) (k : Nat) (ev : Instr) : Prop :=
  s.visitEntry k = none →
    (0 < s.mrtFree (s.walkAt k).cl → ∃ t, exec ev s = .next t ∧ s.passPosted t k) ∧
    (s.mrtFree (s.walkAt k).cl = 0 → exec ev s = .fault .notEnabled)

/-- The arbiter grants the entry of a walk's pass (R253, R270). -/
def State.passGranted (s : State) (k : Nat) : Prop :=
  s.arrayFree (s.walkAt k).cl = true ∧ ∃ e, s.visitEntry k = some e ∧ s.mxNext (s.walkAt k).cl true = some e

/-- A subscriber after a pass: the heads of the pass's KV head are updated from the block (R288, R289). -/
def Walk.passOn (w : Walk) (n T : Nat) (bss : List (List Byte)) (x : Sub) : Sub :=
  (w.updateSub x w.group (w.groupVals n T w.group bss).1).1

/-- A pass is made for a list of subscribers: its entry leaves the table, each subscriber has its heads updated, no other
has; before the last KV head the walk stays at the node, and with the last each subscriber holds the node no more, and one
whose path is done has its results to write (R252, R288 to R290, R294). -/
def State.passMade (s t : State) (k n T : Nat) (bss : List (List Byte)) (set : List Nat) : Prop :=
  let w := s.walkAt k
  let last := w.f 35 1 ≤ w.group + 1
  t.mrt = (s.mrt.filter fun e => e.kind != .walk k) ∧
    (∀ i ∉ set, ((t.walkAt k).sub? i).map (·.heads) = (w.sub? i).map (·.heads)) ∧
    (¬last → (t.walkAt k).cur = some n ∧ (t.walkAt k).group = w.group + 1 ∧ (t.walkAt k).outs = []) ∧
    (last → (t.walkAt k).cur = none ∧ ∀ y ∈ (t.walkAt k).outs, y.idx ∈ set) ∧
    ∀ i ∈ set, ∀ x, w.sub? i = some x → ∃ z, (t.walkAt k).sub? i = some z ∧ z.heads = (w.passOn n T bss x).heads ∧
      (¬last → z.todo = x.todo ∧ z.passed = x.passed) ∧
      (last → z.todo = x.todo.filter (· != n) ∧ z.passed = x.passed.filter (· != n) ∧
        (z.todo = [] → z.passed = [] → x.leaving = false → x.st = .active ∨ x.st = .deferred →
          ⟨i, (w.outputs (w.passOn n T bss x)).1, 0, true⟩ ∈ (t.walkAt k).outs))

/-- The request of an id is its walker's next, from a warp that there is (R291). -/
def State.asks (s : State) (r : WalkReq) : Prop :=
  s.walkReqs.find? (fun x => x.id == r.id && s.reqFirst x) = some r ∧ r.blk < s.blocks.length ∧
    r.warp < (s.blk r.blk).warps.length ∧ r.d < 32

/-- The request has been answered with a status (R301). -/
def State.answered (t : State) (r : WalkReq) (v : Word) : Prop :=
  (t.warp r.blk r.warp).reg r.d = v ∧ ∀ x ∈ t.walkReqs, x.id ≠ r.id

end Sys2Proof.Machine

open Sys2Proof Sys2Proof.Machine

/-- WSTART, WJOIN, WLEAVE, WRETIRE, KVAPP, WWAIT and WSTAT (R299 to R305). -/
def Obligations.WalkPosts : Prop :=
  ∀ s is s1 y, s.formed → s.selects is → s.still is.blk → let x := Ex.of s is
    let R (c : BitVec 6) : Word := x.w.reg c.toNat
    let va (a : BitVec 6) : DWord := pair (R a) (x.w.reg (a.toNat + 1))
    let cl := x.b.clusterNo
    let room : Prop := (s.walkReqs.filter fun r => r.cl == cl).length < 64
    (∀ f : FormDA, x.uniformGoes { ord := [2] } [wOpd f.d 1, wOpd f.a 2] x.inService s1 y → cl < s.clusters.length →
      ∀ e pa, s.opens (clusterPlace cl) x.b.ctx (va f.a) 128 .load e pa → s.poisoned pa 128 = false →
      badWalkDesc (s.readPa pa 128) = false →
      (s.walks.filter fun w => w.cl == cl && !w.written).length < 8 →
      ∃ t W, exec (.wstart f) s = .next t ∧ x.past y t ∧ t.walks = s.walks ++ [W] ∧
        W.id = (s.cluster cl).walkIds ∧ W.cl = cl ∧ W.blk = is.blk ∧ W.warp = is.warp ∧ W.ctx = x.b.ctx ∧
        W.desc = s.readPa pa 128 ∧ W.phase = .queued ∧ W.written = false ∧
        (t.warp is.blk is.warp).reg f.d.toNat = (s.cluster cl).walkIds ∧
        (t.cluster cl).walkIds = (s.cluster cl).walkIds + 1) ∧
    (∀ f : FormDAB, x.uniformGoes {} [wOpd f.d 1, wOpd f.a 1, wOpd f.b 1] x.inService s1 y → room →
      (∃ t, exec (.wjoin f) s = .next t ∧ x.past y t ∧ x.asked t f.d (.join (R f.a) (R f.b).toNat)) ∧
      ∃ t, exec (.wleave f) s = .next t ∧ x.past y t ∧ x.asked t f.d (.leave (R f.a) (R f.b).toNat)) ∧
    (∀ f : FormDAB, x.uniformGoes {} [wOpd f.d 1, wOpd f.a 2, wOpd f.b 1] x.inService s1 y → room →
      let at_ := va f.a + BitVec.ofNat 64 (64 * (R f.b).toNat)
      ∀ e pa, (R f.b).toNat < 256 → s.opens (clusterPlace cl) x.b.ctx at_ 64 .store e pa →
      ∃ t, exec (.wretire f) s = .next t ∧ x.past y t ∧ x.asked t f.d (.retire at_)) ∧
    (∀ f : FormDA, x.uniformGoes { ord := [2] } [wOpd f.d 1, wOpd f.a 1] x.inService s1 y → room →
      let rcd := Memory.readBytes x.b.sp (R f.a).toNat 32
      x.descriptor (R f.a).toNat → badAppend x.b.spSize rcd = false →
      ∃ t, exec (.kvapp f) s = .next t ∧ x.past y t ∧
        x.asked t f.d (.append rcd (if x.pf.ord.isSome then some x.pf.ms else none))) ∧
    (∀ f : FormDA, x.uniformGoes {} [wOpd f.d 1, wOpd f.a 1] x.inService s1 y →
      ∃ t, exec (.wwait f) s = .next t ∧ x.past y t ∧
        match s.walkOf is.blk (R f.a) with
        | none => (t.warp is.blk is.warp).reg f.d.toNat = 0xFFFFFFFF
        | some k =>
          if (s.walkAt k).written then
            (t.warp is.blk is.warp).reg f.d.toNat = BitVec.ofNat 32 (s.walkAt k).code
          else (t.warp is.blk is.warp).wait = some (.walk k f.d.toNat)) ∧
    ∀ f : FormDAB,
      x.legal { mod := true, k := true, mz := true } [⟨.v, f.d.toNat, 1, false⟩, wOpd f.a 1, wOpd f.b 1] x.inService = true →
      x.completes (.warp is.warp) x.pf.modOf.k.toNat s1 y →
      let n := (x.b.needed y).getD is.warp 0
      (∀ l ∈ lanesOf n, (x.w.lane l).full f.d.toNat = true) →
      (x.pf.modOf.mz = true → x.w.othersPend n [f.d.toNat] = false) →
      ∃ t, exec (.wstat f) s = .next t ∧ x.past y t ∧ ∀ l ∈ lanesOf n,
        (t.lane is.blk is.warp l).full f.d.toNat = false ∧ ∃ r ∈ t.replies, r.blk = is.blk ∧ r.warp = is.warp ∧
          r.lane = l ∧ r.dest = .v l f.d.toNat ∧ r.pois = false ∧ r.vals = [
            match s.walkOf is.blk (R f.a), (R f.b).toNat / 2 ^ 28 with
            | none, 0 => if l = 0 then 6 else 0
            | some k, 0 => if l = 0 then BitVec.ofNat 32 (s.walkAt k).phase.code else (s.walkAt k).status.getD l 0
            | k, _ => (s.walkRecord k (R f.b)).getD l 0]

/-- WALK_VALIDATE, NODE_VISIT, REVISIT, CATCHUP and WALK_COMPLETE on memory that can be read: a bad root ends the
walk, a good tree starts it, a visit reads T and the block once, then posts an entry of the reservation table for each of
its passes, and a pass that the arbiter grants reaches exactly the subscribers of its set (R252, R253, R284 to R289, R292
to R296). The results of a subscriber are written one at a time, and none of a retired slot (R290, R297). That a pass
covers one KV head, and that a step reads all of a block, are the model's choices (assumptions 47, 48). -/
def Obligations.WalkSteps : Prop :=
  (∀ s k bs, s.walking k .queued → let w := s.walkAt k
    let place := clusterPlace w.cl
    1 ≤ w.nnodes → w.subs = [] → w.stack = [(0, none, none)] → w.entry = 0 → w.todo = [] → w.nodes ≠ [] →
    (w.node 0).reached = false → s.sees place w.ctx (BitVec.ofNat 64 (w.f 0 8)) 16 bs →
    (64 < fieldAt bs 6 2 ∨ w.f 12 4 ≤ fieldAt bs 8 4 →
      ∃ t, exec (.walkValidate k) s = .next t ∧ (t.walkAt k).code = 1 ∧ (t.walkAt k).firstF = 0 ∧
        (t.walkAt k).phase = .complete ∧ t.mem = s.mem) ∧
    ∀ ent (sub : Nat → List Byte), fieldAt bs 6 2 ≤ 64 → fieldAt bs 8 4 < w.f 12 4 → fieldAt bs 2 2 = 65535 →
      fieldAt bs 4 2 = 65535 → s.sees place w.ctx (BitVec.ofNat 64 (w.f 16 8 + 16 * fieldAt bs 8 4)) 16 ent →
      badBlockVa (fieldAt ent 0 8) = false → badBlockVa (fieldAt ent 8 8) = false →
      (∀ i < w.nsubs, s.sees place w.ctx (w.entryVa i 0) 64 (sub i) ∧ (fieldAt (sub i) 4 1 = 1 →
        fieldAt (sub i) 0 2 = 0 ∧ fieldAt (sub i) 8 8 % 16 = 0 ∧
        ∃ q, s.sees place w.ctx (BitVec.ofNat 64 (fieldAt (sub i) 8 8)) (2 * w.hd * w.heads) q)) →
      ∃ t, exec (.walkValidate k) s = .next t ∧ (t.walkAt k).phase = .main ∧ (t.walkAt k).todo = [0] ∧ t.mem = s.mem ∧
        (t.walkAt k).subs.map (·.idx) = (List.range w.nsubs).filter (fun i => fieldAt (sub i) 4 1 == 1) ∧
        ∀ z ∈ (t.walkAt k).subs, z.st = .active ∧ z.query.isSome = true ∧ z.todo = [0]) ∧
  (∀ s k n rest, let w := s.walkAt k
    w.todo = n :: rest →
    (s.walking k .main → w.setAt n = [] → ∃ t, exec (.nodeVisit k) s = .next t ∧ (t.walkAt k).todo = rest ∧
      (t.walkAt k).nVisit = w.nVisit ∧ t.mem = s.mem) ∧
    ∀ T bss, n < w.nodes.length →
      (s.walking k .main → w.setAt n ≠ [] → s.blockRead k n T bss →
        ∃ t, exec (.nodeVisit k) s = .next t ∧ s.visitBegun t k n T bss ∧ (t.walkAt k).nVisit = w.nVisit + 1 ∧
          ((t.walkAt k).node n).visited = true ∧ ((t.walkAt k).node n).set = w.setAt n ∧ ((t.walkAt k).node n).t = T) ∧
      let set := (w.node n).set
      (s.atNode k n T bss .main → set ≠ [] → s.posts k (.nodeVisit k) ∧
        (set.Nodup → s.passGranted k → ∃ t, exec (.nodeVisit k) s = .next t ∧ s.passMade t k n T bss set ∧
          (t.walkAt k).todo = if w.f 35 1 ≤ w.group + 1 then rest else w.todo))) ∧
  (∀ s k n rest, let w := s.walkAt k
    let group := (w.node n).set.filter fun i => (w.sub? i).any fun x => x.st == .active
    w.passed = n :: rest →
    (s.walking k .revisit → group = [] → ∃ t, exec (.revisit k) s = .next t ∧ (t.walkAt k).passed = rest ∧ t.mem = s.mem) ∧
    (s.turn k .revisit → w.outs = [] → group ≠ [] → w.waitsFor n = true →
      exec (.revisit k) s = .fault .notEnabled) ∧
    ∀ T bss, group ≠ [] → w.waitsFor n = false →
      (s.walking k .revisit → s.blockRead k n T bss → ∃ t, exec (.revisit k) s = .next t ∧ s.visitBegun t k n T bss ∧
        (t.walkAt k).nRevisit = w.nRevisit + 1) ∧
      (s.atNode k n T bss .revisit → s.posts k (.revisit k) ∧
        (group.Nodup → s.passGranted k → ∃ t, exec (.revisit k) s = .next t ∧ s.passMade t k n T bss group ∧
          (t.walkAt k).passed = if w.f 35 1 ≤ w.group + 1 then rest else w.passed))) ∧
  (∀ s k i rest x, let w := s.walkAt k
    w.deferred = i :: rest → w.sub? i = some x → x.st = .deferred → (∀ j ∈ rest, j ≠ i) →
    (∀ path q, s.walking k .catchup → x.query = none → w.path x.leaf = some path → x.qaddr.toNat % 16 = 0 →
      s.sees (clusterPlace w.cl) w.ctx x.qaddr (2 * w.hd * w.heads) q →
      ∃ t z, exec (.catchup k) s = .next t ∧ (t.walkAt k).sub? i = some z ∧ z.query.isSome = true ∧ z.todo = path ∧
        z.st = .deferred ∧ (t.walkAt k).nDefer = w.nDefer + 1 ∧ t.mem = s.mem) ∧
    ∀ n ns, x.query.isSome = true → x.todo = n :: ns →
      (s.walking k .catchup → (w.node n).faulted = true → ∃ t z, exec (.catchup k) s = .next t ∧
        (t.walkAt k).sub? i = some z ∧ z.st = .faulted ∧ z.fnode = BitVec.ofNat 32 n) ∧
      ∀ T bss, (w.node n).faulted = false →
        (s.walking k .catchup → s.blockRead k n T bss →
          ∃ t, exec (.catchup k) s = .next t ∧ s.visitBegun t k n T bss) ∧
        (s.atNode k n T bss .catchup → s.posts k (.catchup k) ∧
          (s.passGranted k → ∃ t, exec (.catchup k) s = .next t ∧ s.passMade t k n T bss [i]))) ∧
  (∀ s k y rest x, let w := s.walkAt k
    ∀ p ∈ [(WalkPhase.main, Instr.nodeVisit k), (.revisit, .revisit k), (.catchup, .catchup k)],
    s.formed → s.turn k p.1 → w.outs = y :: rest → w.sub? y.idx = some x → (∀ z ∈ w.subs, z.leaving = false) →
    let size := y.bytes.length / 64
    let place := clusterPlace w.cl
    (y.next < size → let va := BitVec.ofNat 64 (w.f 56 8 + y.idx * y.bytes.length + 64 * y.next)
      let y' : OutJob := { y with next := y.next + 1 }
      (x.retired = true → ∃ t, exec p.2 s = .next t ∧ t.mem = s.mem ∧ (t.walkAt k).late = w.late + 1 ∧
        (t.walkAt k).outs = y' :: rest) ∧
      (x.retired = false → ∀ e pa, s.opens place w.ctx va 1 .store e pa → ∃ t, exec p.2 s = .next t ∧
        t.readPa pa 64 = (y.bytes.drop (64 * y.next)).take 64 ∧ (t.walkAt k).outs = y' :: rest) ∧
      (x.retired = false → ∀ s' c, s.xlate place w.ctx va 1 .store = (s', .fault c) → ∃ t, exec p.2 s = .next t ∧
        (t.walkAt k).outs = { y' with clean := false } :: rest)) ∧
    (y.next = size → y.clean = true → x.retired = false → ∀ e pa, s.opens place w.ctx (w.entryVa y.idx 20) 1 .store e pa →
      ∃ t, exec p.2 s = .next t ∧ t.readPa pa 4 = leBytes 4 x.dropCode.1 ∧
        (t.walkAt k).outs = { y with next := y.next + 1 } :: rest) ∧
    (y.next = size + 1 ∨ y.next = size ∧ y.clean = false → x.retired = false →
      ∀ e pa, s.opens place w.ctx (w.entryVa y.idx 16) 1 .store e pa →
      let node : Word := if y.clean then 0xFFFFFFFF else 0xFFFFFFFD
      ∃ t z, exec p.2 s = .next t ∧ t.readPa pa 4 = leBytes 4 node.toNat ∧ (t.walkAt k).sub? y.idx = some z ∧
        z.fnode = node ∧ (t.walkAt k).outs = { y with next := size + 2 } :: rest) ∧
    (size + 2 ≤ y.next → ∃ t z, exec p.2 s = .next t ∧ (t.walkAt k).sub? y.idx = some z ∧
      (z.st = if y.clean then .done else .faulted) ∧ (t.walkAt k).outs = rest)) ∧
  ∀ s k e pa, s.formed → s.turn k .complete → let w := s.walkAt k
    s.opens (clusterPlace w.cl) w.ctx (BitVec.ofNat 64 (w.f 64 8)) 1 .store e pa →
    ∃ t, exec (.walkComplete k) s = .next t ∧ (t.walkAt k).written = true ∧
      t.readPa pa 64 = w.status.flatMap (fun v => leBytes 4 v.toNat)

/-- WJOIN_PERFORMED, WLEAVE_PERFORMED, WRETIRE_PERFORMED, KVAPP_COMPLETE and WWAIT_RELEASE: the statuses of the table,
and what each changes (R291, R297, R301, R302, R304, R305). That an append reads TOKENS at one step and performs the rest at
another, and the alignment that WRETIRE asks for, are the model's choices (assumptions 47, 48). -/
def Obligations.WalkRequests : Prop :=
  (∀ s r id i, s.formed → s.asks r → r.kind = .join id i ∨ r.kind = .leave id i →
    let join := r.kind = .join id i
    let ev : Instr := match r.kind with | .join _ _ => .wjoinPerformed r.id | _ => .wleavePerformed r.id
    (s.walkOf r.blk id = none → ∃ t, exec ev s = .next t ∧ t.answered r 0x100) ∧
    ∀ k, s.walkOf r.blk id = some k → let w := s.walkAt k
      (w.phase = .complete → ∃ t, exec ev s = .next t ∧ t.answered r 0x101) ∧
      (w.phase ≠ .complete → w.nsubs ≤ i → ∃ t, exec ev s = .next t ∧ t.answered r 0x102) ∧
      ∀ bs, w.phase ≠ .complete → i < w.nsubs → s.sees (clusterPlace w.cl) w.ctx (w.entryVa i 0) 64 bs →
        let known := w.phase ≠ .queued ∧ w.phase ≠ .validating
        (join → let leaf := fieldAt bs 0 2
          let bad := 1 < fieldAt bs 4 1 ∨ fieldAt bs 8 8 % 16 ≠ 0 ∨ w.nnodes ≤ leaf ∨ (known ∧ w.path leaf = none)
          (bad → ∃ t, exec ev s = .next t ∧ t.answered r 0x102) ∧
          (¬bad → (w.sub? i).isSome = true → ∃ t, exec ev s = .next t ∧ t.answered r 0x103) ∧
          (¬bad → w.sub? i = none → ∃ t z, exec ev s = .next t ∧ (t.walkAt k).sub? i = some z ∧ z.leaf = leaf ∧
            ((known ∧ z.st = .deferred ∧ t.answered r 3) ∨ (¬known ∧ z.st = .active ∧ t.answered r 1)))) ∧
        (¬join →
          (w.sub? i = none → ∃ t, exec ev s = .next t ∧ t.answered r 0x104) ∧
          ∀ x, w.sub? i = some x →
            (x.st = .faulted ∨ x.st = .left → ∃ t, exec ev s = .next t ∧ t.answered r (BitVec.ofNat 32 x.st.code)) ∧
            (x.st ≠ .faulted → x.st ≠ .left → x.st = .done ∨ x.leafBegun = true →
              ∃ t, exec ev s = .next t ∧ t.answered r 6) ∧
            (x.st ≠ .faulted → x.st ≠ .left → x.st ≠ .done → x.leafBegun = false →
              ∃ t z, exec ev s = .next t ∧ t.answered r 4 ∧ (t.walkAt k).sub? i = some z ∧ (x.leaving = false →
                if (w.applying x).isSome then z.leaving = true ∧ z.st = x.st else z.st = .left)))) ∧
  (∀ s r va, s.formed → s.asks r → r.kind = .retire va → let B := s.blk r.blk
    let place := clusterPlace r.cl
    (∀ s' c, s.xlate place B.ctx va 64 .store = (s', .fault c) →
      ∃ t, exec (.wretirePerformed r.id) s = .next t ∧ t.answered r 0xFFFFFFFF) ∧
    ∀ e pa, s.opens place B.ctx va 64 .store e pa → s.poisoned pa 64 = false →
      (∀ h ∈ s.holders r.cl B.ctx va, ∀ z ∈ (s.walkAt h.1).subs, z.leaving = false) →
      let gen := (leNat (s.readPa (pa + 2) 2) + 1) % 65536
      ∃ t, exec (.wretirePerformed r.id) s = .next t ∧ t.answered r (BitVec.ofNat 32 gen) ∧
        t.readPa (pa + 2) 3 = leBytes 2 gen ++ [0] ∧
        ∀ h ∈ s.holders r.cl B.ctx va, ∃ z, (t.walkAt h.1).sub? h.2 = some z ∧ z.retired = true) ∧
  (∀ s r d ms bs, s.formed → s.walkReqs.find? (fun x => x.id == r.id) = some r → r.kind = .append d ms →
    r.blk < s.blocks.length → r.warp < (s.blk r.blk).warps.length → r.d < 32 → s.calm r.blk →
    let B := s.blk r.blk
    let place := clusterPlace r.cl
    let node : DWord := BitVec.ofNat 64 (fieldAt d 0 8)
    let row := headDim (fieldAt d 21 1) * (fmtWidth (fieldAt d 22 1) / 8)
    s.sees place B.ctx node 16 bs →
    (r.t = none → let T := fieldAt bs 6 2
      (T = 64 → ∃ t, exec (.kvappComplete r.id) s = .next t ∧ t.answered r 1 ∧ t.mem = s.mem) ∧
      (64 < T → ∃ t, exec (.kvappComplete r.id) s = .next t ∧ t.answered r 2) ∧
      (T < 64 → ∃ t, exec (.kvappComplete r.id) s = .next t ∧ t.mem = s.mem ∧
        t.walkReqs = s.walkReqs.map fun x => if x.id == r.id then { x with t := some T } else x)) ∧
    ∀ T ent runs e pa, r.t = some T → T < 64 → s.sees place B.ctx (BitVec.ofNat 64 (fieldAt d 8 8 + 16 * fieldAt bs 8 4)) 16 ent →
      let piece := min row 256
      let rows (base : Nat) : List DWord := (List.range (fieldAt d 20 1)).flatMap fun g =>
        (List.range (row / piece)).map fun i => BitVec.ofNat 64 (base + (g * 64 + T) * row + piece * i)
      s.appendRuns place B.ctx piece (rows (fieldAt ent 0 8) ++ rows (fieldAt ent 8 8)) = (s, runs, none) →
      B.spPoisoned (fieldAt d 16 4) (2 * fieldAt d 20 1 * row) = false → s.opens place B.ctx node 16 .store e pa →
      ∃ t, exec (.kvappComplete r.id) s = .next t ∧ t.answered r 0 ∧ t.readPa (pa + 6) 2 = leBytes 2 (T + 1) ∧
        (∃ a, t.appended = s.appended ++ [a] ∧ a.cl = r.cl ∧ a.ms = ms.getD 0 ∧
          a.known = [(r.blk, r.warp)]) ∧
        ∀ i va p e', runs[i]? = some [(va, p, piece, e')] → overlap p piece (pa + 6) 2 = false →
          (∀ j rs, j ≠ i → runs[j]? = some rs → ∀ q ∈ rs, overlap p piece q.2.1 q.2.2.1 = false) →
          (∀ q ∈ s.rivals (pa + 6) T, overlap p piece q 1 = false) →
          t.readPa p piece = Memory.readBytes B.sp (fieldAt d 16 4 + i * piece) piece) ∧
  ∀ s b w k d, s.formed → s.runs b → b < s.blocks.length → w < (s.blk b).warps.length → d < 32 →
    (s.warp b w).wait = some (.walk k d) →
    ((s.walkAt k).written = true → ∃ t, exec (.wwaitRelease b w) s = .next t ∧ (t.warp b w).wait = none ∧
      (t.warp b w).reg d = BitVec.ofNat 32 (s.walkAt k).code) ∧
    ((s.walkAt k).written = false → exec (.wwaitRelease b w) s = .fault .notEnabled)

namespace Sys2Proof.Machine

/-! ### The step sequencer, the map engine and the sampling unit -/

/-- A request record of a number of bytes in scratchpad (R306). -/
def Ex.record (x : Ex) (off n : Nat) : Prop := off % 16 = 0 ∧ off + n ≤ x.b.spSize

/-- An operation that the sequencer of a cluster has taken, its status register held (R97, R307). -/
def Ex.queuedSeq (x : Ex) (t : State) (cl : Nat) (d : BitVec 6) (k : SeqKind) : Prop :=
  ∃ id, (t.warp x.is.blk x.is.warp).hold = some id ∧
    t.seqOps = x.s.seqOps ++ [⟨id, cl, x.is.blk, x.is.warp, d.toNat, k⟩]

/-- An operation that the map engine has taken, its status register held (R97, R323). -/
def Ex.queuedMap (x : Ex) (t : State) (d : BitVec 6) (m : MapBind) (k : MapKind) : Prop :=
  ∃ id, (t.warp x.is.blk x.is.warp).hold = some id ∧
    t.mapOps = x.s.mapOps ++ [⟨id, m.no, m.die, x.is.blk, x.is.warp, d.toNat, k⟩]

/-- A warp-scope post with a v destination issues: its checks pass, and the registers of its lanes are full (R98,
R99). -/
def Ex.postGoes (x : Ex) (ops : List Opd) (d : BitVec 6) (srcs : List Src) (s1 : State) (y : Inst) : Prop :=
  x.legal { mod := true, k := true, mz := true } (⟨.v, d.toNat, 1, false⟩ :: ops) x.inService = true ∧
    (x.w.lane (lowest x.is.lanes)).replay = false ∧ x.completes (.warp x.is.warp) x.pf.modOf.k.toNat s1 y ∧
    (x.pf.modOf.mz = true → x.w.othersPend ((x.b.needed y).getD x.is.warp 0) [d.toNat] = false) ∧
    ∀ l ∈ lanesOf ((x.b.needed y).getD x.is.warp 0), readiness (x.w.lane l).view srcs [d.toNat] = .go

/-- The next operation of its table, of a warp that there is, with its open step (R312). -/
def State.seqNext (s : State) (o : SeqOp) : Prop :=
  s.seqOps.find? (fun x => x.id == o.id && s.seqFirst x) = some o ∧ o.blk < s.blocks.length ∧
    o.warp < (s.blk o.blk).warps.length ∧ o.cl < s.clusters.length ∧ s.still o.blk

/-- The operation has been answered from its first register on. -/
def State.seqDone (t : State) (o : SeqOp) (vals : List Nat) : Prop :=
  (∀ i < vals.length, (t.warp o.blk o.warp).reg (o.d + i) = BitVec.ofNat 32 (vals.getD i 0)) ∧
    t.seqOps.find? (fun x => x.id == o.id) = none

/-- The tile record of an operation can be read and written: its place and bytes (R309). -/
def State.tileAt (s : State) (o : SeqOp) (va : DWord) (p : Nat) (r : List Byte) : Prop :=
  let place := clusterPlace o.cl
  let ctx := (s.blk o.blk).ctx
  s.runAt place ctx va 544 p ∧ s.sees place ctx va 544 r ∧ r.length = 544

/-- What one token does to a state of an automaton, given the bytes of its map (R320, R321). -/
def MapBind.after (m : MapBind) (table : Nat → List Byte) (st tok : Nat) : Nat :=
  if m.vocab ≤ tok then m.reject else (m.entry st (fieldAt (table tok) (m.eb * st) m.eb)).1

/-- An operation of the map engine, of a binding that it has. -/
def State.mapNext (s : State) (o : MapOp) (m : MapBind) : Prop :=
  s.mapOps.find? (fun x => x.id == o.id) = some o ∧ s.binds.find? (fun b => b.die == o.die && b.no == o.bind) = some m ∧
    o.blk < s.blocks.length ∧ o.warp < (s.blk o.blk).warps.length ∧ o.d < 32 ∧ badAutomaton m.desc = false

/-- The oldest operation of its block in the sampling unit (R329). -/
def State.topkNext (s : State) (o : TopkOp) : Prop :=
  s.topkOps.find? (fun x => x.blk == o.blk) = some o ∧ s.topkOps.find? (fun x => x.id == o.id) = some o ∧
    o.blk < s.blocks.length ∧ s.still o.blk

/-- The sampling operation has ended with a status and a count of NaN logits, as the history shows (R329, R331, R333).
-/
def State.topkEnded (s t : State) (o : TopkOp) (status nans : Nat) : Prop :=
  (t.blk o.blk).topkDone = (s.blk o.blk).topkDone + 1 ∧ t.topkOps = s.topkOps.filter (fun x => x.id != o.id) ∧
    (t.blk o.blk).topkHist.head? = some (o.ticket, BitVec.ofNat 32 (status + 256 * min nans (2 ^ 24 - 1)))

/-- A list of k entries is the first k of some candidates in the order of R330, completed where there are fewer. -/
def isTop (k : Nat) (cands l : List (Nat × Nat)) : Prop :=
  let pad : Nat × Nat := (0xFF800000, 0xFFFFFFFF)
  l.length = k ∧ l.Pairwise (fun a b => precedes b a = false) ∧ (∀ e ∈ l, e ∈ cands ∨ e = pad) ∧
    ∀ e ∈ cands, e ∈ l ∨ ∀ x ∈ l, precedes e x = false

/-- The candidate that a logit is, −INF for a NaN, +0 for −0 (R330). -/
def candidateOf (fmt : Nat) (bs : List Byte) (i idx : Nat) : Nat × Nat :=
  ((candidate (valueOf fmt (fieldAt bs (fmtWidth fmt / 8 * i) (fmtWidth fmt / 8)))).1, idx % 2 ^ 32)

end Sys2Proof.Machine

open Sys2Proof Sys2Proof.Machine

/-- SOPEN, SSIG, SCOMMIT, SCLOSE and SMAP (R307, R314 to R319). That SOPEN's operation carries the table's bytes as they
were at the post is the model's choice (assumption 50). -/
def Obligations.SequencerPosts : Prop :=
  ∀ s is s1 y, s.formed → s.selects is → s.still is.blk → let x := Ex.of s is
    let R (c : BitVec 6) : Word := x.w.reg c.toNat
    let va (a : BitVec 6) : DWord := pair (R a) (x.w.reg (a.toNat + 1))
    let rcd (a : BitVec 6) : List Byte := Memory.readBytes x.b.sp (R a).toNat 16
    (∀ f : FormDA, x.uniformGoes {} [wOpd f.d 1, wOpd f.a 2] x.inService s1 y →
      ∀ e pa, s.opens (clusterPlace x.b.clusterNo) x.b.ctx (va f.a) 64 .load e pa → s.poisoned pa 64 = false →
      badStepTable (s.readPa pa 64) = false →
      ∃ t, exec (.sopen f) s = .next t ∧ x.past y t ∧
        x.queuedSeq t x.b.clusterNo f.d (.open_ (va f.a) (s.readPa pa 64))) ∧
    (∀ (f : FormDAB) cl st, s.stepOf is.blk (R f.a) = some (cl, st) → x.record (R f.b).toNat 16 →
      (x.uniformGoes {} [wOpd f.d 4, wOpd f.a 1, wOpd f.b 1] x.inService s1 y →
        badSigRecord st x.b.spSize (rcd f.b) = false →
        ∃ t, exec (.ssig f) s = .next t ∧ x.past y t ∧ x.queuedSeq t cl f.d (.sig st.handle (rcd f.b))) ∧
      (x.uniformGoes {} [wOpd f.d 1, wOpd f.a 1, wOpd f.b 1] x.inService s1 y →
        fieldAt (rcd f.b) 0 4 < st.layers → fieldAt (rcd f.b) 4 4 < st.tilesPer →
        ∃ t, exec (.scommit f) s = .next t ∧ x.past y t ∧ x.queuedSeq t cl f.d (.commit st.handle (rcd f.b)))) ∧
    (∀ (f : FormDA) cl st, x.uniformGoes {} [wOpd f.d 1, wOpd f.a 1] x.inService s1 y →
      s.stepOf is.blk (R f.a) = some (cl, st) →
      ∃ t, exec (.sclose f) s = .next t ∧ x.past y t ∧ x.queuedSeq t cl f.d (.close st.handle)) ∧
    ∀ (f : FormDAB) cl st, x.postGoes [wOpd f.a 1, wOpd f.b 2] f.d [] s1 y → s.stepOf is.blk (R f.a) = some (cl, st) →
      let n := (x.b.needed y).getD is.warp 0
      ∃ t o, exec (.smap f) s = .next t ∧ x.past y t ∧ (∀ l ∈ lanesOf n, (t.lane is.blk is.warp l).full f.d.toNat = false) ∧
        t.seqOps = s.seqOps ++ [o] ∧ o.cl = cl ∧ o.blk = is.blk ∧ o.warp = is.warp ∧ o.d = f.d.toNat ∧
        o.kind = .map st.handle (R f.b) (x.w.reg (f.b.toNat + 1)) n

/-- SEQUENCER_OPERATION for each operation: the statuses, the decision on a tile, what a commit keeps, the end of a step
and the words of SMAP (R310 to R319). That an open step keeps the copied table, with TAU, MAXSKIP and FMT, is the model's
choice (assumption 50). -/
def Obligations.SequencerOperations : Prop :=
  ∀ s o, s.formed → s.seqNext o → let B := s.blk o.blk
    let C := s.cluster o.cl
    let place := clusterPlace o.cl
    let run (t : State) : Prop := exec (.sequencerOperation o.id) s = .next t
    (∀ table desc g, o.kind = .open_ table desc → o.d < 32 →
      s.sees place B.ctx (table + 32) 4 (leBytes 4 g) → g < 2 ^ 32 →
      ∃ t, run t ∧
        if 8 ≤ C.steps.length then t.seqDone o [0x100] ∧ t.clusters = s.clusters
        else if C.steps.any (fun z => z.ctx == B.ctx && z.table == table) then t.seqDone o [0x101] ∧ t.clusters = s.clusters
        else ∃ h z, h < 8 ∧ t.seqDone o [h] ∧ C.step? h = none ∧ (t.cluster o.cl).step? h = some z ∧ z.blk = o.blk ∧
          z.ctx = B.ctx ∧ z.table = table ∧ z.desc = desc ∧ z.gen = BitVec.ofNat 32 g ∧
          ∀ p, 4 ≤ z.regionBytes → s.runAt place B.ctx (z.regionVa g 0) z.regionBytes p →
            t.readPa p z.regionBytes = leBytes 4 g ++ List.replicate (z.regionBytes - 4) 0) ∧
    (∀ h d z p r, o.kind = .sig h d → o.d + 4 ≤ 32 → C.step? h = some z →
      s.tileAt o (z.recordVa (fieldAt d 0 4) (fieldAt d 4 4)) p r →
      B.tilePoisoned (z.f 29 1) (fieldAt d 8 4) (fieldAt d 12 4) = false →
      let sig := tileSig (B.tileRows (z.f 29 1) (fieldAt d 8 4) (fieldAt d 12 4))
      let fl := fieldAt r 9 1
      let out (skip : Bool) : List Nat := if skip then [fieldAt r 0 4, fieldAt r 4 4] else [0, 0]
      let decided := fl.testBit 1 = true ∧ fieldAt r 12 4 = z.gen.toNat
      let dist := if fl.testBit 0 then (sigDistance sig ((r.drop 32).take 256)).1 else 0x7F800000
      let skip := fl.testBit 0 && (valueOf 0 dist).le (valueOf 0 (z.f 24 4)) && decide (fieldAt r 8 1 < z.f 28 1)
      (decided → ∃ t, run t ∧ t.readPa p 544 = putBytes r 288 sig ∧
        t.seqDone o ([0x100 + (fl.testBit 2).toNat, fieldAt r 16 4] ++ out (fl.testBit 2))) ∧
      (¬decided → ∃ t, run t ∧ t.seqDone o ([skip.toNat, dist] ++ out skip) ∧
        (skip = false → t.readPa p 544 = putBytes (putBytes (putBytes r 8 [BitVec.ofNat 8 (fieldAt r 8 1),
          BitVec.ofNat 8 (fl % 2 + 2)]) 12 (leBytes 4 z.gen.toNat ++ leBytes 4 dist)) 288 sig))) ∧
    (∀ h d z s' f, o.kind = .sig h d → o.d + 4 ≤ 32 → C.step? h = some z →
      s.xlateRange place B.ctx .store (rangeFuel 544) (z.recordVa (fieldAt d 0 4) (fieldAt d 4 4)) 544 = (s', [], some f) →
      ∃ t, run t ∧ t.seqDone o [0x200] ∧ t.mem = s.mem ∧
        ∀ i, i ≠ o.d → (t.warp o.blk o.warp).reg i = (s.warp o.blk o.warp).reg i) ∧
    (∀ h d z p r, o.kind = .commit h d → o.d < 32 → C.step? h = some z →
      s.tileAt o (z.recordVa (fieldAt d 0 4) (fieldAt d 4 4)) p r →
      let fl := fieldAt r 9 1
      if fl.testBit 1 = true ∧ fieldAt r 12 4 = z.gen.toNat then
        ∃ t, run t ∧ t.seqDone o [0] ∧ (fl.testBit 2 = false → t.readPa p 544 =
          putBytes (putBytes r 32 ((r.drop 288).take 256)) 0 (leBytes 8 (fieldAt d 8 8) ++ [0, 3]))
      else ∃ t, run t ∧ t.seqDone o [0x102] ∧ t.mem = s.mem) ∧
    (∀ h z, o.kind = .close h → o.d < 32 → C.step? h = some z → let g := z.gen.toNat
      (∀ i < z.words, ∃ bs, s.sees place B.ctx (z.regionVa g (64 + 4 * i)) 4 bs) →
      (∀ i ∈ [4, 8], ∃ p, s.runAt place B.ctx (z.regionVa g i) 4 p) →
      ∃ t, run t ∧ t.seqDone o [z.gen.toNat] ∧ (t.cluster o.cl).step? h = none ∧
        ∀ p, s.runAt place B.ctx (z.table + 32) 4 p → t.readPa p 4 = leBytes 4 ((g + 1) % 2 ^ 32)) ∧
    ∀ h g first lanes z (head xs : Nat → Nat), o.kind = .map h g first lanes → C.step? h = some z →
      (∀ i < 3, s.sees place B.ctx (z.regionVa g.toNat 0 + BitVec.ofNat 64 (4 * i)) 4 (leBytes 4 (head i)) ∧ head i < 2 ^ 32) →
      (∀ i < 28, s.sees place B.ctx (z.regionVa g.toNat (64 + 4 * first.toNat) + BitVec.ofNat 64 (4 * i)) 4
        (leBytes 4 (xs i)) ∧ xs i < 2 ^ 32) →
      let held := g.toNat < z.gen.toNat + 1 ∧ z.gen.toNat + 1 ≤ g.toNat + z.ngen ∧ head 0 = g.toNat
      ∃ t, run t ∧ t.seqOps.find? (fun x => x.id == o.id) = none ∧ ∀ l ∈ lanesOf lanes,
        (s.lane o.blk o.warp l).live = true → o.d < 64 →
        (t.lane o.blk o.warp l).full o.d = true ∧
        (l < 28 → (held ∧ first.toNat + l < z.words → ((t.lane o.blk o.warp l).reg o.d).toNat = xs l) ∧
          (¬(held ∧ first.toNat + l < z.words) → (t.lane o.blk o.warp l).reg o.d = 0)) ∧
        (l = 28 → (t.lane o.blk o.warp l).reg o.d = g) ∧
        (l = 29 → (t.lane o.blk o.warp l).reg o.d = BitVec.ofNat 32 z.words) ∧
        (l = 30 → (held → ((t.lane o.blk o.warp l).reg o.d).toNat = head 1) ∧
          (¬held → (t.lane o.blk o.warp l).reg o.d = 0)) ∧
        (l = 31 → (¬held → (t.lane o.blk o.warp l).reg o.d = 2) ∧
          (held → (g = z.gen ∨ head 2 ≠ 1) → (t.lane o.blk o.warp l).reg o.d = 1) ∧
          (held → g ≠ z.gen → head 2 = 1 → (t.lane o.blk o.warp l).reg o.d = 0))

/-- MAPBIND, MAPCOMP, MAPMASK, MAPAPPLY and MAPSTAT (R97, R321, R323 to R328). That MAPAPPLY's entries are read at the post,
and that BAD_DESC is looked for before FULL, are the model's choices (assumptions 50, 51). -/
def Obligations.MapPosts : Prop :=
  ∀ s is s1 y, s.formed → s.selects is → s.still is.blk → let x := Ex.of s is
    let R (c : BitVec 6) : Word := x.w.reg c.toNat
    let va (a : BitVec 6) : DWord := pair (R a) (x.w.reg (a.toNat + 1))
    let rcd (a : BitVec 6) : List Byte := Memory.readBytes x.b.sp (R a).toNat 32
    let n := (x.b.needed y).getD is.warp 0
    (∀ (f : FormDA) e pa, x.uniformGoes {} [wOpd f.d 1, wOpd f.a 2] x.inService s1 y →
      s.opens x.b.die x.b.ctx (va f.a) 64 .load e pa → s.poisoned pa 64 = false →
      ∃ t, exec (.mapbind f) s = .next t ∧ x.past y t ∧
        let D := (t.warp is.blk is.warp).reg f.d.toNat
        if badAutomaton (s.readPa pa 64) then D = 0x10001 ∧ t.binds = s.binds
        else match s.freeBind x.b.die with
          | none => D = 0x10000 ∧ t.binds = s.binds
          | some i => D = BitVec.ofNat 32 i ∧
              t.binds = s.binds ++ [⟨x.b.die, i, is.blk, x.b.ctx, s.readPa pa 64, List.replicate 6 0⟩]) ∧
    (∀ (f : FormDAB) m, x.uniformGoes {} [wOpd f.d 1, wOpd f.a 1, wOpd f.b 1] x.inService s1 y →
      s.bindOf is.blk (R f.a) = some m → x.record (R f.b).toNat 32 →
      (badComp m (rcd f.b) = false →
        ∃ t, exec (.mapcomp f) s = .next t ∧ x.past y t ∧ x.queuedMap t f.d m (.comp (rcd f.b))) ∧
      (badMask m (rcd f.b) = false →
        ∃ t, exec (.mapmask f) s = .next t ∧ x.past y t ∧ x.queuedMap t f.d m (.mask (rcd f.b)))) ∧
    (∀ (f : FormDAB) m (ys : Nat → Nat),
      x.postGoes [⟨.v, f.a.toNat, 1, false⟩, wOpd f.b 1] f.d [⟨f.a.toNat, 1, false, .own⟩] s1 y →
      s.bindOf is.blk (R f.b) = some m →
      (∀ l ∈ lanesOf n,
        let tok := ((x.w.lane l).reg f.a.toNat).toNat % 2 ^ 20
        let st := ((x.w.lane l).reg f.a.toNat).toNat / 2 ^ 20
        if m.states ≤ st ∨ m.vocab ≤ tok ∨ st = m.reject then ys l = m.reject
        else ∃ e pa, s.opens m.die m.ctx (BitVec.ofNat 64 (m.f 0 8 + (tok * m.states + st) * m.eb)) m.eb .load e pa ∧
          ys l = (m.entry st (leNat (s.readPa pa m.eb))).1) →
      ∃ t, exec (.mapapply f) s = .next t ∧ x.past y t ∧ ∀ l ∈ lanesOf n,
        (t.lane is.blk is.warp l).full f.d.toNat = false ∧
        ∃ o ∈ t.mapOps, o.blk = is.blk ∧ o.warp = is.warp ∧ o.d = f.d.toNat ∧
          ∃ p, o.kind = .apply l (BitVec.ofNat 32 (ys l)) p) ∧
    ∀ (f : FormDA) m, x.postGoes [wOpd f.a 1] f.d [] s1 y → s.bindOf is.blk (R f.a) = some m → m.counts.length = 6 →
      ∃ t, exec (.mapstat f) s = .next t ∧ x.past y t ∧ ∀ l ∈ lanesOf n,
        (t.lane is.blk is.warp l).full f.d.toNat = false ∧ ∃ r ∈ t.replies, r.blk = is.blk ∧ r.warp = is.warp ∧
          r.lane = l ∧ r.dest = .v l f.d.toNat ∧ r.pois = false ∧ r.vals = [
            match l with
            | 0 => BitVec.ofNat 32 m.states
            | 1 => BitVec.ofNat 32 m.vocab
            | 2 => BitVec.ofNat 32 (m.f 28 1)
            | 3 => BitVec.ofNat 32 m.reject
            | l + 4 => if l < 6 then m.counts.getD l 0 else 0]

/-- MAPCOMP_COMPLETE, MAPAPPLY_FILL and MAPMASK_COMPLETE where memory can be read and written: the composed map is what
the string's tokens do in turn, from FROM or from every state; a mask is published whole (R321, R322, R325 to R327). That
an entry's poison goes with it into the filled register is the model's choice (assumption 51). -/
def Obligations.MapOperations : Prop :=
  (∀ s o m d bs table, s.formed → s.mapNext o m → o.kind = .comp d → badComp m d = false →
    let len := fieldAt d 8 4
    let toks := (List.range len).map fun i => fieldAt bs (4 * i) 4
    s.sees m.die m.ctx (BitVec.ofNat 64 (fieldAt d 0 8)) (4 * len) bs →
    (∀ k ∈ toks, k < m.vocab →
      s.sees m.die m.ctx (BitVec.ofNat 64 (m.f 0 8 + k * m.states * m.eb)) (m.states * m.eb) (table k)) →
    let result (st : Nat) : Nat := toks.foldl (m.after table) st
    (fieldAt d 14 1 = 0 → ∃ t, exec (.mapcompComplete o.id) s = .next t ∧ t.mem = s.mem ∧
      (t.warp o.blk o.warp).reg o.d = BitVec.ofNat 32 (result (fieldAt d 12 2))) ∧
    (fieldAt d 14 1 = 1 → ∀ p, s.runAt o.die (s.blk o.blk).ctx (BitVec.ofNat 64 (fieldAt d 16 8))
        (m.states * m.eb) p →
      ∃ t, exec (.mapcompComplete o.id) s = .next t ∧ (t.warp o.blk o.warp).reg o.d = 0 ∧
        t.readPa p (m.states * m.eb) = (List.range m.states).flatMap fun st => leBytes m.eb (result st))) ∧
  (∀ s o l v p, s.formed → s.mapOps.find? (fun x => x.id == o.id) = some o → o.kind = .apply l v p →
    o.blk < s.blocks.length → o.warp < (s.blk o.blk).warps.length → l < 32 → o.d < 64 →
    (s.lane o.blk o.warp l).live = true →
    ∃ t, exec (.mapapplyFill o.id) s = .next t ∧ t.holds o.blk o.warp (.v l o.d) [v] ∧
      (t.lane o.blk o.warp l).poisoned o.d = p) ∧
  ∀ s o m d bits p1 p2, s.formed → s.mapNext o m → o.kind = .mask d → badMask m d = false → let B := s.blk o.blk
    let st := fieldAt d 0 2
    let n := (m.vocab + 31) / 32 * 4
    let dst : DWord := BitVec.ofNat 64 (fieldAt d 8 8)
    let may (x : Nat) : Bool := st != m.reject && x < m.vocab && bits.testBit x
    (st ≠ m.reject → s.sees m.die m.ctx (BitVec.ofNat 64 (m.f 8 8 + st * m.maskBytes)) ((m.vocab + 7) / 8)
      (leBytes ((m.vocab + 7) / 8) bits)) →
    bits < 2 ^ (8 * ((m.vocab + 7) / 8)) → s.runAt o.die B.ctx dst 4 p1 → s.runAt o.die B.ctx (dst + 4) 60 p2 →
    let ctr : Nat := fieldAt d 4 4
    let done : CtrOp := { ctx := m.ctx, index := BitVec.ofNat 32 ctr, kind := .done false, blk := o.blk, warp := o.warp }
    (ctr = 0xFFFFFFFF ∨ (s.sendCounter done).2 = .done) →
    overlap p1 4 p2 60 = false →
    let header (t : State) : Prop := t.readPa p1 4 = leBytes 4 (1 + fieldAt d 2 1) ∧ t.readPa p2 12 = leBytes 4 st ++
      leBytes 4 m.vocab ++ leBytes 4 ((List.range m.vocab).filter may).length ∧ (t.warp o.blk o.warp).reg o.d = 0
    (∀ p, fieldAt d 2 1 = 0 → s.runAt o.die B.ctx (dst + 64) n p → overlap p n p1 4 = false → overlap p n p2 60 = false →
      ∃ t, exec (.mapmaskComplete o.id) s = .next t ∧ header t ∧
        ∀ x < 8 * n, (leNat (t.readPa p n)).testBit x = may x) ∧
    ∀ P : Nat → Nat, fieldAt d 2 1 = 1 →
      let w := fmtWidth (fieldAt d 3 1) / 8
      (∀ x < m.vocab, s.runAt o.die B.ctx (BitVec.ofNat 64 (fieldAt d 16 8) + BitVec.ofNat 64 (w * x)) w (P x) ∧
        overlap (P x) w p1 4 = false ∧ overlap (P x) w p2 60 = false ∧
        ∀ z < m.vocab, z ≠ x → overlap (P x) w (P z) w = false) →
      ∃ t, exec (.mapmaskComplete o.id) s = .next t ∧ header t ∧ ∀ x < m.vocab,
        (may x = true → t.readPa (P x) w = s.readPa (P x) w) ∧
        (may x = false → (valueOf (fieldAt d 3 1) (leNat (t.readPa (P x) w))) = .inf true)

/-- TKSEL, TKMRG, TKWAIT, TOPK_COMPLETE and TKWAIT_RELEASE: the written list is the first K of the candidates in the
order of R330 (R329 to R333). That NaN logits are counted among the candidates only, and that an index is taken modulo
2^32, are the model's choices (assumption 53). -/
def Obligations.TopkResults : Prop :=
  (∀ s is s1 y, s.formed → s.selects is → s.still is.blk → let x := Ex.of s is
    let R (c : BitVec 6) : Word := x.w.reg c.toNat
    ∀ f : FormDA, x.uniformGoes {} [wOpd f.d 1, wOpd f.a 1] true s1 y →
      let rcd := Memory.readBytes x.b.sp (R f.a).toNat 32
      (∀ q ∈ ([(.tksel f, false, badSelect), (.tkmrg f, true, badMerge)] :
          List (Instr × Bool × (Nat → List Byte → Bool))), x.record (R f.a).toNat 32 → q.2.2 x.b.spSize rcd = false →
        (s.topkOps.filter fun t => t.blk == is.blk).length < 16 →
        ∃ t o, exec q.1 s = .next t ∧ x.past y t ∧ t.topkOps = s.topkOps ++ [o] ∧ o.blk = is.blk ∧ o.merge = q.2.1 ∧
          o.rcd = rcd ∧ o.ticket = x.b.topkTickets ∧ (t.warp is.blk is.warp).reg f.d.toNat = x.b.topkTickets ∧
          (t.blk is.blk).topkTickets = x.b.topkTickets + 1) ∧
      (passed x.b.topkTickets (R f.a) = true → ∃ t, exec (.tkwait f) s = .next t ∧ x.past y t ∧
        if passed x.b.topkDone (R f.a) then
          (t.warp is.blk is.warp).reg f.d.toNat =
            ((x.b.topkHist.find? fun p => p.1 == R f.a).map (·.2)).getD 3
        else (t.warp is.blk is.warp).wait = some (.topk (R f.a) f.d.toNat))) ∧
  (∀ s o bs, s.formed → s.topkNext o → o.merge = true → let B := s.blk o.blk
    let n (off len : Nat) : Nat := fieldAt o.rcd off len
    let total := n 8 4 * n 12 1
    let cands := (List.range total).map fun i => candidateOf 0 ((List.range 4).flatMap fun j =>
      [bs.getD (8 * i + j) 0]) 0 (fieldAt bs (8 * i + 4) 4)
    badMerge B.spSize o.rcd = false → s.sees B.die B.ctx (BitVec.ofNat 64 (n 0 8)) (8 * total) bs →
    ∃ t l nans, exec (.topkComplete o.id) s = .next t ∧ s.topkEnded t o 0 nans ∧ isTop (n 13 1) cands l ∧
      Memory.readBytes (t.blk o.blk).sp (n 16 4) (8 * n 13 1) = entryBytes l) ∧
  (∀ s o bs mk bits, s.formed → s.topkNext o → o.merge = false → let B := s.blk o.blk
    let n (off len : Nat) : Nat := fieldAt o.rcd off len
    let base := n 8 4
    let count := n 12 4
    let mask : DWord := BitVec.ofNat 64 (n 24 8)
    badSelect B.spSize o.rcd = false → s.sees B.die B.ctx (BitVec.ofNat 64 (n 0 8)) (fmtWidth (n 17 1) / 8 * count) bs →
    (mask ≠ 0 → s.sees B.die B.ctx mask 4 (leBytes 4 mk) ∧ mk < 3) →
    (mask ≠ 0 → mk = 1 → s.sees B.die B.ctx (mask + BitVec.ofNat 64 (64 + 4 * (base / 32)))
      (4 * ((base + count - 1) / 32 - base / 32 + 1)) bits) →
    let may (e : Nat) : Bool := mask == 0 || mk == 2 || (leNat bits).testBit (base % 32 + e)
    let chosen := (List.range count).filter may
    if mask ≠ 0 ∧ mk = 0 then
      ∃ t, exec (.topkComplete o.id) s = .next t ∧ s.topkEnded t o 1 0 ∧ (t.blk o.blk).sp = B.sp
    else ∃ t l, exec (.topkComplete o.id) s = .next t ∧
      s.topkEnded t o 0 (chosen.filter fun e =>
        (valueOf (n 17 1) (fieldAt bs (fmtWidth (n 17 1) / 8 * e) (fmtWidth (n 17 1) / 8))).isNan).length ∧
      isTop (n 16 1) (chosen.map fun e => candidateOf (n 17 1) bs e (base + e)) l ∧
      Memory.readBytes (t.blk o.blk).sp (n 20 4) (8 * n 16 1) = entryBytes l) ∧
  ∀ s b w k d, s.formed → s.runs b → b < s.blocks.length → w < (s.blk b).warps.length → d < 32 →
    (s.warp b w).wait = some (.topk k d) →
    (passed (s.blk b).topkDone k = true → ∃ t, exec (.tkwaitRelease b w) s = .next t ∧ (t.warp b w).wait = none ∧
      (t.warp b w).reg d = (((s.blk b).topkHist.find? fun p => p.1 == k).map (·.2)).getD 3) ∧
    (passed (s.blk b).topkDone k = false → exec (.tkwaitRelease b w) s = .fault .notEnabled)

namespace Sys2Proof.Machine

/-! ### Decompression -/

/-- A job that runs or may start, of a block with nothing on its way; what it reads has not changed since it started
(R341). -/
def State.jobRuns (s : State) (j : Job) : Prop :=
  s.jobs.find? (fun x => x.id == j.id && !x.done) = some j ∧ s.jobMayRun j = true ∧ j.snap.getD s.mem = s.mem ∧ (∀ x ∈ s.jobs, x.id = j.id → x = j) ∧ j.blk < s.blocks.length ∧
    s.calm j.blk ∧ badCard (s.blk j.blk).spSize j.card = false

end Sys2Proof.Machine

open Sys2Proof Sys2Proof.Machine

/-- DSUB, DSTAT, DWAIT and DWAIT_RELEASE (R337, R341 to R345). -/
def Obligations.DecompressPosts : Prop :=
  (∀ s is s1 y, s.formed → s.selects is → s.still is.blk → let x := Ex.of s is
    let R (c : BitVec 6) : Word := x.w.reg c.toNat
    let recent (t : Word) : Prop := (x.b.jobTickets - 1 - t).toNat < 16
    let job (t : Word) : Option Job := s.jobs.find? fun j => j.blk == is.blk && j.ticket == t
    (∀ f : FormDA, x.uniformGoes { ord := [2] } [wOpd f.d 1, wOpd f.a 1] true s1 y → x.record (R f.a).toNat 64 →
      let card := Memory.readBytes x.b.sp (R f.a).toNat 64
      badCard x.b.spSize card = false → (s.jobs.filter fun j => j.blk == is.blk && !j.done).length < 16 →
      ∃ t, exec (.dsub f) s = .next t ∧ x.past y t ∧ (t.warp is.blk is.warp).reg f.d.toNat = x.b.jobTickets ∧
        (t.blk is.blk).jobTickets = x.b.jobTickets + 1 ∧
        ∃ j ∈ t.jobs, j.blk = is.blk ∧ j.ticket = x.b.jobTickets ∧ j.card = card ∧ j.nextChunk = 0 ∧ j.done = false) ∧
    (∀ f : FormDA, x.uniformGoes {} [wOpd f.d 2, wOpd f.a 1] true s1 y →
      ∃ t, exec (.dstat f) s = .next t ∧ x.past y t ∧
        let lo := (t.warp is.blk is.warp).reg f.d.toNat
        let hi := ((t.warp is.blk is.warp).reg (f.d.toNat + 1)).toNat
        (¬recent (R f.a) → lo = 0 ∧ hi = 0xFFFF0301) ∧
        ∀ j, recent (R f.a) → job (R f.a) = some j → j.code < 256 → j.failed.getD 0xFFFF < 65536 →
          lo = BitVec.ofNat 32 j.committed ∧ hi % 256 = j.code ∧ hi / 65536 = j.failed.getD 0xFFFF ∧
          hi / 256 % 256 = if j.done then 2 else if j.snap.isSome then 1 else 0) ∧
    ∀ f : FormDA, x.uniformGoes {} [wOpd f.d 1, wOpd f.a 1] true s1 y →
      ∃ t, exec (.dwait f) s = .next t ∧ x.past y t ∧
        (¬recent (R f.a) → (t.warp is.blk is.warp).reg f.d.toNat = 0xFFFF0001) ∧
        ∀ j, recent (R f.a) → job (R f.a) = some j →
          (j.done = true → (t.warp is.blk is.warp).reg f.d.toNat =
            BitVec.ofNat 32 (j.code + 65536 * j.failed.getD 0xFFFF)) ∧
          (j.done = false → (t.warp is.blk is.warp).wait = some (.job (R f.a) f.d.toNat))) ∧
  ∀ s b w k d, s.formed → s.runs b → b < s.blocks.length → w < (s.blk b).warps.length → d < 32 →
    (s.warp b w).wait = some (.job k d) →
    (∀ j, s.jobs.find? (fun j => j.blk == b && j.ticket == k && j.done) = some j →
      ∃ t, exec (.dwaitRelease b w) s = .next t ∧ (t.warp b w).wait = none ∧
        (t.warp b w).reg d = BitVec.ofNat 32 (j.code + 65536 * j.failed.getD 0xFFFF)) ∧
    (s.jobs.find? (fun j => j.blk == b && j.ticket == k && j.done) = none →
      exec (.dwaitRelease b w) s = .fault .notEnabled)

/-- CHUNK_COMMIT and JOB_COMPLETE on a bare block and on a container, with a dictionary or without: the job writes the
bytes that the sequences describe, the chunks of a container in ascending order at DST + c × CHUNKOUT, raises its sync
word by each chunk's bytes and at the end by the rest of DSTCAP, and ends; a bad header, an output past DSTCAP, an
unreadable source and any other failure of a chunk end it with their code, and none of the chunk is written (R335, R336,
R338 to R340). That a chunk is decoded and committed in one step is the model's choice (assumption 52). -/
def Obligations.DecompressSteps : Prop :=
  ∀ s j, s.formed → s.jobRuns j → let B := s.blk j.blk
    let n (off len : Nat) : Nat := fieldAt j.card off len
    let src : DWord := BitVec.ofNat 64 (n 8 8)
    let sync := n 28 4
    let ended (t : State) (code : Nat) (failed : Option Nat) : Prop :=
      (∃ z ∈ t.jobs, z.id = j.id ∧ z.done = true ∧ z.code = code ∧ z.failed = failed ∧ z.committed = j.committed) ∧
        B.syncRaised (t.blk j.blk) sync (n 24 4 - j.committed) (code != 0)
    let fails (code : Nat) : Prop := exec (.chunkCommit j.id) s = .fault .notEnabled ∧
      ∃ t, exec (.jobComplete j.id) s = .next t ∧ ended t code (some j.nextChunk)
    let wrote (off : Nat) (out : List Byte) : Prop :=
      (n 1 1 % 2 = 1 → ∃ t, exec (.chunkCommit j.id) s = .next t ∧
        (∃ z ∈ t.jobs, z.id = j.id ∧ z.nextChunk = j.nextChunk + 1 ∧ z.committed = j.committed + out.length ∧
          z.done = false) ∧
        ∀ i < out.length, ¬(sync ≤ n 16 8 + off + i ∧ n 16 8 + off + i < sync + 16) →
          Memory.read (t.blk j.blk).sp (n 16 8 + off + i) = out.getD i 0) ∧
      (n 1 1 % 2 = 0 → ∀ p, s.runAt B.die B.ctx (BitVec.ofNat 64 (n 16 8 + off)) out.length p →
        ∃ t, exec (.chunkCommit j.id) s = .next t ∧ t.readPa p out.length = out ∧
          B.syncRaised (t.blk j.blk) sync out.length false ∧
          ∃ z ∈ t.jobs, z.id = j.id ∧ z.nextChunk = j.nextChunk + 1 ∧ z.committed = j.committed + out.length ∧
            z.done = false)
    (∀ qs last dict h out, n 0 1 = 0 → j.nextChunk = 0 → j.plan = none → s.feeds B.die B.ctx src (lzBytes qs last) →
      n 4 4 = (lzBytes qs last).length → dict.length = n 40 4 → s.feeds B.die B.ctx (BitVec.ofNat 64 (n 32 8)) dict →
      lzHistory qs last dict = some h → out = h.drop dict.length →
      (out.length ≤ n 24 4 → wrote 0 out) ∧ (n 24 4 < out.length → fails 5)) ∧
    (n 0 1 = 0 → j.nextChunk = 1 → (∀ p, j.plan = some p → p.2.length = 1) →
      exec (.chunkCommit j.id) s = .fault .notEnabled ∧
        ∃ t, exec (.jobComplete j.id) s = .next t ∧ ended t 0 none) ∧
    (∀ code a, n 0 1 = 0 → j.nextChunk = 0 → j.plan = none → s.byteAt s.mem B.die B.ctx src = .inl (code, a) →
      code ≠ 0 → fails code) ∧
    (∀ out chunks dict decoded, n 0 1 = 1 → chunksOf out chunks dict decoded →
      s.feeds B.die B.ctx src (container out chunks) → n 4 4 = (container out chunks).length → dict.length = n 40 4 →
      s.feeds B.die B.ctx (BitVec.ofNat 64 (n 32 8)) dict → decoded.flatten.length ≤ n 24 4 →
      let offs := (List.range (chunks.length + 1)).map fun c => 20 + 4 * chunks.length + (chunks.take c).flatten.length
      let plan : DcePlan := (some out, offs.zip offs.tail)
      j.plan = some plan ∨ j.plan = none ∧ j.nextChunk = 0 →
        (j.nextChunk < chunks.length → wrote (j.nextChunk * out) (decoded.getD j.nextChunk []) ∧
          ∀ t, exec (.chunkCommit j.id) s = .next t → ∃ z ∈ t.jobs, z.id = j.id ∧ z.plan = some plan) ∧
        (j.nextChunk = chunks.length → exec (.chunkCommit j.id) s = .fault .notEnabled ∧
          ∃ t, exec (.jobComplete j.id) s = .next t ∧ ended t 0 none)) ∧
    (∀ h, n 0 1 = 1 → j.nextChunk = 0 → j.plan = none → n 4 4 < 16 ∨ s.feeds B.die B.ctx src h ∧ h.length = 16 ∧
      (fieldAt h 0 4 ≠ 0x4B484346 ∨ fieldAt h 4 4 = 0 ∨ 65535 < fieldAt h 4 4 ∨ fieldAt h 8 4 = 0 ∨
        4194304 < fieldAt h 8 4 ∨ fieldAt h 12 4 ≠ 0 ∨ n 4 4 < 20 + 4 * fieldAt h 4 4) → fails 2) ∧
    ∀ code a, (s.startJob j.id).jobNext j = .fails code a → code ≠ 0 → fails code

namespace Sys2Proof.Machine

/-! ### The host -/

/-- A queue that there is, on a die that answers to the host (R41, R434). -/
def State.hasQueue (s : State) (die q : Nat) : Prop :=
  die < s.dies.length ∧ q < (s.die die).cmdqs.length ∧ q < 128 ∧ s.answers? die = true

/-- The next command of a queue: the queue is enabled, has not stopped and does not wait, and its ring holds the
command, which breaks no table and, where it is serial, has no earlier command open (R33 to R35, R41, R42). -/
def State.commands (s : State) (die q opc : Nat) (c : List Byte) : Prop :=
  let Q := s.cmdq die q
  s.hasQueue die q ∧ Q.flags.getLsbD 0 = true ∧ Q.stopped = false ∧ Q.waiting = none ∧ Q.prod ≠ Q.consumed ∧
    c = s.readPa (Q.base.toNat + 64 * (Q.consumed.toNat % 256)) 64 ∧ fieldAt c 0 1 = opc ∧ badCommand c = false ∧
    (fieldAt c 1 1 = 1 → Q.open_ = [])

/-- A queue has consumed one command more (R42). -/
def State.consumed1 (s t : State) (die q : Nat) : Prop := (t.cmdq die q).consumed = (s.cmdq die q).consumed + 1

/-- The lowest class of a context's launches in flight, or a class where it has none (R415). -/
def State.lowestClass (s : State) (v cls low : Nat) : Prop :=
  let own (L : Launch) : Prop := L ∈ s.launches ∧ L.inFlight = true ∧ L.rcd.ctx = v
  (∀ L, own L → low ≤ L.rcd.cls) ∧ ((∃ L, own L ∧ L.rcd.cls = low) ∨ (∀ L, ¬own L) ∧ low = cls)

/-- A mailbox command that the firmware has taken and performs, on a powered device (R429). -/
def State.rings (s : State) (die opc : Nat) (c : List Byte) : Prop :=
  s.mbox = some (die, c) ∧ s.powered = true ∧ die < s.dies.length ∧ fieldAt c 0 1 = opc

/-- A mailbox command has completed with a status (R429, R430). -/
def State.replied (t : State) (die : Nat) (c : List Byte) (status : Nat) : Prop :=
  t.mbox = none ∧ (t.die die).mbdone = BitVec.ofNat 32 (fieldAt c 4 4) ∧
    fieldAt (t.die die).mbrsp 0 4 = fieldAt c 4 4 ∧ fieldAt (t.die die).mbrsp 4 4 = status

/-- A sealed grant finds too little on a die: a cluster of it is another sealed context's or holds a resident block, or
the sealed grants would exceed 20 clusters, 12 ways, 12 TB/s, 50 per cent of the flit slots or 8 sixteenths (R431). -/
def State.grantLacks (s : State) (grant : List Byte) (d : Nat) : Prop :=
  let sealed_ := s.ctxs.filter (·.sealed_)
  let held (g : List Byte) : Nat := ((List.range 24).filter (fieldAt g (12 * d) 3).testBit).length
  let sum (off : Nat) : Nat := (sealed_.map fun x => fieldAt x.grant (12 * d + off) 1).sum + fieldAt grant (12 * d + off) 1
  (∃ cl < 24, (fieldAt grant (12 * d) 3).testBit cl = true ∧
    ((∃ x ∈ sealed_, (fieldAt x.grant (12 * d) 3).testBit cl = true) ∨
      ∃ B ∈ s.blocks, B.resident = true ∧ B.die = d ∧ B.cluster = cl)) ∨
    20 < (sealed_.map fun x => held x.grant).sum + held grant ∨ 12 < sum 4 ∨ 12 < sum 5 ∨ 50 < sum 6 ∨ 8 < sum 7

end Sys2Proof.Machine

open Sys2Proof Sys2Proof.Machine

/-- QPROD_WRITE, QFLAGS_WRITE and the taking of each command: LAUNCH, SIGNAL, WAIT_COMMAND, COPY and PREEMPT; a bad
command stops its queue; a launch taken drops the code that cores hold of its context (R16, R33 to R35, R41, R42, R44,
R89, R415). That a SIGNAL or WAIT taken is dropped at the reset of its queue, and that QBASE is a physical address, are the
model's choices (assumptions 76, 77). -/
def Obligations.CommandQueues : Prop :=
  (∀ s die q v, s.hasQueue die q →
    ∃ t, exec (.qprodWrite die q v) s = .next t ∧ (t.cmdq die q).prod = v ∧
      let ahead := 256 < (v - (s.cmdq die q).consumed).toNat
      (t.cmdq die q).stopped = ((s.cmdq die q).stopped || decide ahead) ∧
      (t.cmdq die q).overrun = ((s.cmdq die q).overrun || decide ahead)) ∧
  (∀ s die q v, s.hasQueue die q →
    ∃ t, exec (.qflagsWrite die q v) s = .next t ∧ (t.cmdq die q).flags.getLsbD 0 = v.getLsbD 0 ∧
      if (s.cmdq die q).flags.getLsbD 0 = false ∧ v.getLsbD 0 = true then
        (t.cmdq die q).prod = 0 ∧ (t.cmdq die q).consumed = 0 ∧ (t.cmdq die q).stopped = false ∧
          (t.cmdq die q).overrun = false ∧ (t.cmdq die q).cmdFault = false ∧ (t.cmdq die q).waiting = none ∧
          (t.cmdq die q).signals = []
      else (t.cmdq die q).consumed = (s.cmdq die q).consumed ∧ (t.cmdq die q).stopped = (s.cmdq die q).stopped) ∧
  (∀ s die q c, s.commands die q 1 c → s.mayLaunch (s.cmdq die q).ctx die = true →
    ∃ t, exec (.launch die q) s = .next t ∧ s.consumed1 t die q ∧ ∀ s' r,
      ((s.consume die q).fresh).2.takeRecord die (s.cmdq die q).ctx (BitVec.ofNat 64 (fieldAt c 8 8)) none =
        (s', .inr (.inr r)) →
      ∃ L, t.launches = s.launches ++ [L] ∧ L.rcd = r ∧ L.home = die ∧ L.phase = .running ∧ L.next = 0 ∧ L.status = 0 ∧
        L.again = [] ∧ L.snap = s'.mem ∧ L.taken = s.cycle ∧ L.age ∈ (t.cmdq die q).open_ ∧
        (L.diesMask = if fieldAt c 16 1 % 16 = 0 then 15 else BitVec.ofNat 4 (fieldAt c 16 1)) ∧
        ∀ C ∈ t.cores, ∀ x ∈ C.code, x.ctx ≠ (s.cmdq die q).ctx) ∧
  (∀ s die q, s.hasQueue die q → let Q := s.cmdq die q
    let c := s.readPa (Q.base.toNat + 64 * (Q.consumed.toNat % 256)) 64
    Q.flags.getLsbD 0 = true → Q.stopped = false → Q.waiting = none → Q.prod ≠ Q.consumed → badCommand c = true →
    Q.signals = [] →
    ∃ t, exec (match fieldAt c 0 1 with
      | 2 => .signal die q
      | 3 => .waitCommand die q
      | 4 => .copy die q
      | 5 => .preempt die q
      | _ => .launch die q) s = .next t ∧ (t.cmdq die q).stopped = true ∧ (t.cmdq die q).consumed = Q.consumed ∧
        (t.cmdq die q).open_ = Q.open_) ∧
  (∀ s die q c, s.commands die q 2 c → (s.cmdq die q).signals = [] →
    ∃ t, exec (.signal die q) s = .next t ∧ ((s.cmdq die q).open_ ≠ [] → s.consumed1 t die q ∧
      ∃ n, (t.cmdq die q).signals = [(n, c)] ∧ (t.cmdq die q).open_ = (s.cmdq die q).open_ ++ [n])) ∧
  (∀ s die q c, s.commands die q 3 c →
    ∃ t, exec (.waitCommand die q) s = .next t ∧ s.consumed1 t die q ∧ (t.cmdq die q).waiting =
      some (BitVec.ofNat 64 (fieldAt c 8 8), BitVec.ofNat 64 (fieldAt c 16 8), fieldAt c 24 1, BitVec.ofNat 32 (fieldAt c 4 4))) ∧
  (∀ s die q c, s.commands die q 4 c →
    ∃ t y, exec (.copy die q) s = .next t ∧ s.consumed1 t die q ∧ t.hostCopies = s.hostCopies ++ [y] ∧
      y.n ∈ (t.cmdq die q).open_ ∧ y.die = die ∧ y.q = q ∧ y.ctx = (s.cmdq die q).ctx ∧
      y.src = BitVec.ofNat 64 (fieldAt c 8 8) ∧ y.dst = BitVec.ofNat 64 (fieldAt c 16 8) ∧ y.len = fieldAt c 24 8) ∧
  ∀ s die q c, s.commands die q 5 c → let v := fieldAt c 8 1
    let cls := fieldAt c 9 1
    let deadline (til : Option Nat) : Prop := ∃ low, s.lowestClass v cls low ∧
      let us := if fieldAt c 12 4 ≠ 0 then fieldAt c 12 4 else ((s.ctx v).dl.getD low 0).toNat
      til = if us = 0 then none else some (s.cycle + us * Config.usCycles)
    ∃ t, exec (.preempt die q) s = .next t ∧ s.consumed1 t die q ∧ ((s.ctx? v).isSome →
      ((s.ctx v).preState = .running →
        if ∃ L ∈ s.launches, L.inFlight = true ∧ L.rcd.ctx = v ∧ L.rcd.cls < cls then
          (t.ctx v).preState = .running ∧ (t.ctx v).preResult = 2
        else (t.ctx v).preState = .draining ∧ (t.ctx v).preCls = cls ∧ ∀ til, deadline til → (t.ctx v).deadline = til) ∧
      ((s.ctx v).preState = .draining → (t.ctx v).preState = .draining ∧ ∀ til, deadline til →
        (t.ctx v).deadline = match (s.ctx v).deadline, til with
          | none, x => x
          | some a, none => some a
          | some a, some b => some (min a b)) ∧
      ((s.ctx v).preState = .suspended ∨ (s.ctx v).preState = .saving → t.ctx v = s.ctx v))

/-- SIGNAL, WAIT_CONDITION_HOLDS and COMMAND_COPY_COMPLETE on memory that can be reached: the word stored or added to,
the wait that ends exactly when its word holds, the bytes copied (R34, R440). COUNTER_ARM, SVCREPLY_WRITE,
INVALIDATION_GO, INVALIDATION_COMPLETE and QUEUE_STALL (R47, R59, R76, R157). That QBASE is a physical address is the
model's choice (assumption 77). -/
def Obligations.CommandEffects : Prop :=
  ((∀ s die q c, s.formed → s.commands die q 2 c → (s.cmdq die q).signals = [] → (s.cmdq die q).open_ = [] →
    let Q := s.cmdq die q
    let va : DWord := BitVec.ofNat 64 (fieldAt c 8 8)
    (∀ p, fieldAt c 24 1 = 0 → s.runAt die Q.ctx va 8 p →
      ∃ t, exec (.signal die q) s = .next t ∧ s.consumed1 t die q ∧ (t.cmdq die q).open_ = [] ∧
        t.readPa p 8 = leBytes 8 (fieldAt c 16 8)) ∧
    ∀ e p, fieldAt c 24 1 = 1 → s.opens die Q.ctx va 8 .atomic e p → s.poisoned p 8 = false →
      overlap p 8 Q.ret.toNat 8 = false →
      ∃ t, exec (.signal die q) s = .next t ∧ s.consumed1 t die q ∧ (t.cmdq die q).open_ = [] ∧
        t.readPa p 8 = leBytes 8 ((leNat (s.readPa p 8) + fieldAt c 16 8) % 2 ^ 64)) ∧
  (∀ s die q va val mode seq bs, s.hasQueue die q → let Q := s.cmdq die q
    Q.waiting = some (va, val, mode, seq) →
    s.sees die Q.ctx va 8 bs → mode < 3 →
    let x : DWord := BitVec.ofNat 64 (leNat bs)
    let holds : Prop := match mode with | 0 => val.toNat ≤ x.toNat | 1 => x = val | _ => x ≠ val
    (holds → ∃ t, exec (.waitConditionHolds die q) s = .next t ∧ (t.cmdq die q).waiting = none ∧ t.mem = s.mem) ∧
    (¬holds → exec (.waitConditionHolds die q) s = .fault .notEnabled)) ∧
  ∀ s (c : HostCopy) p p' e, s.formed → s.hostCopies.find? (fun x => x.n == c.n && s.answers? x.die) = some c →
    c.die < s.dies.length → s.xlateRange c.die c.ctx .load (rangeFuel c.len) c.src c.len = (s, [(c.src, p, c.len, e)], none) →
    s.runAt c.die c.ctx c.dst c.len p' → s.poisoned p c.len = false → (∀ i < c.len, s.poisoned (p + i) 1 = false) →
    overlap p c.len p' c.len = false →
    ∃ t, exec (.commandCopyComplete c.n) s = .next t ∧ t.readPa p' c.len = s.readPa p c.len ∧
      (∀ a, ¬(p' ≤ a ∧ a < p' + c.len) → Memory.read t.mem a = Memory.read s.mem a) ∧
      (∀ y ∈ t.hostCopies, y.n ≠ c.n) ∧ c.n ∉ (t.cmdq c.die c.q).open_) ∧
  ((∀ s die off size v, s.answers? die = true → die < s.dies.length → off % 64 = 0 → off < 0x40000 → size = 4 ∨ size = 8 →
    off / 64 < (s.die die).counters.length → (s.die die).fired.length < Config.firedBuffer →
    let x := (s.die die).counters.getD (off / 64) default
    ∃ t, exec (.counterArm die off size v) s = .next t ∧
      let y := (t.die die).counters.getD (off / 64) default
      y.count = v.setWidth 32 ∧ y.st = (if v.setWidth 32 = 0#32 then .fired else .armed) ∧ y.cxl = false ∧
        y.template = x.template ∧ y.queue = if size = 8 then (v >>> 32).setWidth 6 else x.queue) ∧
  (∀ s ctx n b w d, s.formed → let c := s.ctx ctx
    (s.ctx? ctx).isSome → s.answers? c.taskDie = true → s.sysWaiter ctx n = some (b, w, d) → n ∈ c.svcWaiting →
    b < s.blocks.length → w < (s.blk b).warps.length → d < 32 →
    let slot := c.ring.toNat + 0x40 + 32 * c.ringN + 8 * (n.toNat % c.ringN)
    leNat (s.readPa slot 4) = n.toNat →
    ∃ t, exec (.svcreplyWrite ctx n) s = .next t ∧ (t.warp b w).wait = none ∧
      (t.warp b w).reg d = BitVec.ofNat 32 (leNat (s.readPa (slot + 4) 4))) ∧
  (∀ s die, s.answers? die = true → die < s.dies.length →
    ∃ t, exec (.invalidationGo die) s = .next t ∧ (t.die die).invalidating =
      (s.die die).invalidating ++ [((s.die die).vbase, (s.die die).nunits, (s.die die).ivctx.toNat)]) ∧
  (∀ s die base units ctx rest, die < s.dies.length → (s.die die).invalidating = (base, units, ctx) :: rest →
    ∃ t, exec (.invalidationComplete die) s = .next t ∧ (t.die die).invalidating = rest ∧
      (t.die die).ivdone = (s.die die).ivdone + 1 ∧
      ∀ x, x ∈ (t.die die).tlb ↔ x ∈ (s.die die).tlb ∧
        ¬(x.ctx = ctx ∧ (units = 0 ∨ overlap x.va x.size base.toNat (units.toNat * 65536) = true))) ∧
  ∀ s k r, s.stalls[k]? = some r → (s.blk r.blk).ctx = r.ctx → (s.blk r.blk).die < s.dies.length →
    let wdog := (s.ctx r.ctx).wdog.toNat
    let late := r.on.name.isSome = true ∧ r.logged = false ∧ s.stallOver r.blk r.on = false ∧ wdog ≠ 0 ∧ r.since + wdog * Config.usCycles ≤ s.cycle
    (late →
      ∃ t r', exec (.queueStall k) s = .next t ∧ t.stalls[k]? = some r' ∧ r'.logged = true ∧ .queueStall r.ctx ∈ t.intrs ∧
        (t.die (s.blk r.blk).die).elseq = (s.die (s.blk r.blk).die).elseq + 1) ∧
    (¬late → exec (.queueStall k) s = .fault .notEnabled))

/-- SAVING, FORCED_RESET and RESUME: a drained context is saved and suspended; one past its deadline has every block
discarded, its queues and buffers emptied, its counters IDLE, its command queues stopped and its launches ended with
FORCED_RESET; and RESUME lets it run again without old translations (R416, R418 to R420). That saving and reset take two
steps each is the model's choice (assumption 57). -/
def Obligations.ContextLife : Prop :=
  (∀ s v, (s.ctx? v).isSome → (s.ctx v).preState = .draining →
    ((∀ B ∈ s.blocks, B.ctx = v → B.resident = false) ∧ (∀ b < s.blocks.length, (s.blk b).ctx = v → s.enginesBusy b = false) →
      ∃ t, exec (.saving v) s = .next t ∧ (t.ctx v).preState = .saving ∧ (t.ctx v).deadline = none) ∧
    (∀ B ∈ s.blocks, B.ctx = v → B.resident = true → exec (.saving v) s = .fault .notEnabled) ∧
    ∀ d, (s.ctx v).deadline = some d → d ≤ s.cycle →
      ∃ t, exec (.forcedReset v) s = .next t ∧ (t.ctx v).preState = .resetting ∧
        (∀ B ∈ t.blocks, B.ctx = v → B.phase = .gone) ∧
        ∀ L ∈ t.launches, L.rcd.ctx = v → L.phase ≠ .running) ∧
  (∀ s v, (s.ctx? v).isSome → (s.ctx v).preState = .saving →
    ∃ t, exec (.saving v) s = .next t ∧ (t.ctx v).preState = .suspended ∧ (t.ctx v).preResult = 1 ∧
      (t.ctx v).saves = (s.ctx v).saves + 1 ∧ .preempted v ∈ t.intrs) ∧
  (∀ s v, (s.ctx? v).isSome → (s.ctx v).preState = .resetting →
    ∃ t, exec (.forcedReset v) s = .next t ∧ (t.ctx v).preState = .reset ∧ (t.ctx v).preResult = 3 ∧
      (∀ q ∈ (t.ctx v).queues, q.entries = []) ∧ .forcedReset v ∈ t.intrs ∧
      (∀ D ∈ t.dies, (∀ x ∈ D.fired, x.1 ≠ v) ∧ ∀ q ∈ D.cmdqs, q.ctx = v → q.stopped = true) ∧
      (∀ i, (s.ctx v).cbase ≤ i → i < (s.ctx v).cbase + (s.ctx v).ccount →
        ∀ x, (t.die (s.ctx v).taskDie).counters[i]? = some x → x.st = .idle) ∧
      ∀ l < s.launches.length, (s.launch l).inFlight = true → (s.launch l).rcd.ctx = v →
        (t.launch l).phase = .done ∧ (t.launch l).status = 14) ∧
  ∀ s v, (s.ctx? v).isSome → s.answers? (s.ctx v).taskDie = true →
    ∃ t, exec (.resume v) s = .next t ∧
      ((s.ctx v).preState = .suspended ∨ (s.ctx v).preState = .reset → (t.ctx v).preState = .running) ∧
      ((s.ctx v).preState = .suspended → ∀ d ∈ t.dies, ∀ x ∈ d.tlb, x.ctx ≠ v) ∧
      ((s.ctx v).preState = .draining ∨ (s.ctx v).preState = .saving ∨ (s.ctx v).preState = .resetting →
        (t.ctx v).preState = (s.ctx v).preState)

/-- The firmware takes the command of the first doorbell (R429). CREATE, DESTROY, FENCE, LINK, POWER and ENTER_SERVICE
through the mailbox: their statuses and what each changes (R39, R272, R403, R429 to R433, R436, R437). That BAD_COMMAND
comes before EXISTS is the model's choice (assumption 55). -/
def Obligations.MailboxCommands : Prop :=
  (∀ (s : State) die rest, s.doorbells = die :: rest → s.mbox = none → s.powered = true →
    ∃ t, s.perform .mail = .next t ∧ t.doorbells = rest ∧ t.mbox = some (die, (s.die die).mbcmd) ∧ t.dies = s.dies) ∧
  (∀ s die c, s.rings die 1 c →
    let n (off len : Nat) : Nat := fieldAt c off len
    (badCreate (s.mode == .twilight) c = true → ∃ t, exec (.create die) s = .next t ∧ t.replied die c 1 ∧ t.ctxs = s.ctxs) ∧
    (badCreate (s.mode == .twilight) c = false → (s.ctx? (n 8 1)).isSome →
      ∃ t, exec (.create die) s = .next t ∧ t.replied die c 2 ∧ t.ctxs = s.ctxs) ∧
    (badCreate (s.mode == .twilight) c = false → s.ctx? (n 8 1) = none → n 9 1 = 0 →
      (∀ x ∈ s.ctxs, x.taskDie = n 10 1 → overlap x.cbase x.ccount (n 12 2) (n 14 2) = false) →
      ∃ t x, exec (.create die) s = .next t ∧ t.replied die c 0 ∧ t.ctxs = s.ctxs ++ [x] ∧ x.id = n 8 1 ∧ x.sealed_ = false ∧
        x.taskDie = n 10 1 ∧ x.cbase = n 12 2 ∧ x.ccount = n 14 2 ∧ x.root.toNat = n 16 8 ∧ x.ringN = n 36 4 ∧
        x.ring.toNat = n 40 8 ∧ x.preState = .running ∧ x.handler = 0 ∧ x.dl = [0, 500, 2000, 10000] ∧ x.wdog = 100000 ∧
        x.handles.length = 64 ∧ x.queues.length = 64 ∧ ∀ q ∈ x.queues, q.entries = []) ∧
    (badCreate (s.mode == .twilight) c = false → s.ctx? (n 8 1) = none → n 9 1 = 1 →
      (s.mode = .twilight → ∃ t, exec (.create die) s = .next t ∧ t.replied die c 6 ∧ t.ctxs = s.ctxs) ∧
      (s.mode ≠ .twilight → (∀ x ∈ s.ctxs, x.taskDie = n 10 1 → overlap x.cbase x.ccount (n 12 2) (n 14 2) = false) →
        let grant := (c.drop 72).take 48
        ((∃ d < 4, s.grantLacks grant d) → ∃ t, exec (.create die) s = .next t ∧ t.replied die c 5 ∧ t.ctxs = s.ctxs) ∧
        ((∀ d < 4, ¬s.grantLacks grant d) → ∃ t x, exec (.create die) s = .next t ∧ t.replied die c 0 ∧
          t.ctxs = s.ctxs ++ [x] ∧ x.id = n 8 1 ∧ x.sealed_ = true ∧ x.grant = grant ∧ x.taskDie = n 10 1 ∧
          x.cbase = n 12 2 ∧ x.ccount = n 14 2 ∧ x.root.toNat = n 16 8 ∧ x.preState = .running)))) ∧
  (∀ s die c, s.rings die 2 c →
    let v := fieldAt c 8 1
    mbZero c 9 = true →
    (s.ctx? v = none → ∃ t, exec (.destroy die) s = .next t ∧ t.replied die c 3) ∧
    ((s.ctx? v).isSome → s.ctxInUse v = true → ∃ t, exec (.destroy die) s = .next t ∧ t.replied die c 4 ∧ t.ctxs = s.ctxs) ∧
    ((s.ctx? v).isSome → s.ctxInUse v = false → ∃ t, exec (.destroy die) s = .next t ∧ t.replied die c 0 ∧
      t.ctxs = s.ctxs.filter fun x => x.id != v)) ∧
  (∀ s die c, s.rings die 3 c →
    let cl := clusterNo (fieldAt c 8 1) (fieldAt c 9 1)
    let new : BitVec 4 := BitVec.ofNat 4 (fieldAt c 10 1)
    mbZero c 11 = true → fieldAt c 8 1 < 4 → fieldAt c 9 1 < Config.clusters → cl < s.clusters.length →
    (fieldAt c 10 1 < 15 → ∃ t, exec (.fenceCommand die) s = .next t ∧ t.replied die c 0 ∧ (t.cluster cl).fenced = new ∧
      ∀ g < 4, (t.cluster cl).suspect.getLsbD g =
        ((s.cluster cl).suspect.getLsbD g && !((s.cluster cl).fenced.getLsbD g && !new.getLsbD g))) ∧
    (fieldAt c 10 1 = 15 → ∃ t, exec (.fenceCommand die) s = .next t ∧ t.replied die c 7 ∧ t.clusters = s.clusters)) ∧
  (∀ s die c, s.rings die 4 c →
    let d := fieldAt c 8 1
    let m := fieldAt c 9 1
    mbZero c 11 = true → d < 4 → d < s.dies.length → m < 2 → fieldAt c 10 1 < 2 →
    ∃ t, exec (.link die) s = .next t ∧
      if fieldAt c 10 1 = 1 then
        if (s.die d).hostFailed.getLsbD m then t.replied die c 6
        else t.replied die c 0 ∧ ∀ i < 2, (t.die d).hostUp.getLsbD i = ((s.die d).hostUp.getLsbD i || i == m)
      else if (s.die d).hostUp.getLsbD (1 - m) then
        t.replied die c 0 ∧ ∀ i < 2, (t.die d).hostUp.getLsbD i = ((s.die d).hostUp.getLsbD i && i != m)
      else t.replied die c 7) ∧
  (∀ s die c, s.rings die 5 c →
    mbZero c 9 = true → fieldAt c 8 1 ≤ 15 → ∃ t, exec (.power die) s = .next t ∧ t.replied die c 0 ∧
      ∀ d < s.dies.length, (t.die d).idleOk = (fieldAt c 8 1).testBit d) ∧
  ∀ s die c, s.rings die 6 c → mbZero c 8 = true →
    let ready : Prop := (∀ d ∈ s.dies, d.trained = 3) ∧ (∀ L ∈ s.launches, L.inFlight = false) ∧
      ∀ B ∈ s.blocks, B.resident = false
    (ready → ∃ t, exec (.enterService die) s = .next t ∧ t.replied die c 0 ∧ t.mode = .service) ∧
    (¬ready → ∃ t, exec (.enterService die) s = .next t ∧ t.replied die c 4 ∧ t.mode = s.mode)

/-- MANAGEMENT_WRITE: each register of the space takes what is written and nothing else changes but the die's idle time;
a doorbell, GO, RESUME, SVCREPLY, QFLAGS, QPROD and a counter's COUNT act as their events do; other writes change nothing.
What a read of the read-only registers answers (R41, R47, R76, R182, R272, R372, R379, R403, R423, R427, R428, R429). That a
value outside a register's range is stored as written is the model's choice (assumptions 54, 87). -/
def Obligations.ManagementSpace : Prop :=
  (∀ s die off size v, s.powered = true → die < Config.dies → die < s.dies.length →
    (managed off size = true → s.answers? die = true → s.writeWaits die off v = false) →
    let D := s.die die
    let v32 : Word := v.setWidth 32
    let acts (i : Instr) : Prop := exec i s = exec (.managementWrite die off size v) s
    let s0 : State := { s with dies := s.dies.modify die fun d => { d with idleSince := s.cycle } }
    let good := managed off size = true ∧ s.answers? die = true
    let reg (off' size' : Nat) (P : State → Prop) : Prop := off = off' → size = size' → ∀ t,
      exec (.managementWrite die off size v) s = .next t → P t
    let gives (d : Die) (t : State) : Prop := t = { s with dies := s.dies.set die { d with idleSince := s.cycle } }
    (∃ t, exec (.managementWrite die off size v) s = .next t ∧ (t.die die).idleSince = s.cycle ∧
      (¬good ∨ off < 0x1000 ∨ 0x70000 ≤ off ∧ off < 0xC0000 ∨ die ≠ 0 ∧ 0xC0000 ≤ off ∧ off < 0xD0000 ∨ 0x140000 ≤ off ∨
        (∃ c, off / 0x1000 = 0x30 + c ∧ c < 64 ∧ (s.ctx? c = none ∨ (s.ctx c).taskDie ≠ die)) → t = s0)) ∧
    (good →
      (∀ q, q < 128 → q < D.cmdqs.length → (s.cmdq die q).ctx < 256 → let Q := s.cmdq die q
        let r := 0x10000 + 32 * q
        let put (Q' : CmdQ) : Die := { D with cmdqs := D.cmdqs.set q Q' }
        reg r 8 (gives (put { Q with base := v })) ∧ reg (r + 8) 8 (gives (put { Q with ret := v })) ∧
        (off = r + 24 → size = 4 → acts (.qprodWrite die q v32)) ∧
        reg (r + 16) 4 (fun t =>
          exec (.qflagsWrite die q ((v >>> 8).setWidth 8)) (s.updCmdq die q fun Q => { Q with ctx := v.toNat % 256 }) = .next t)) ∧
      reg 0x20000 8 (gives { D with vbase := v }) ∧ reg 0x20008 4 (gives { D with nunits := v32 }) ∧
      (let D' : Die := { D with ivctx := v.setWidth 8 };
        reg 0x2000C 4 fun t => if v.getLsbD 8 = true then
          exec (.invalidationGo die) { s with dies := s.dies.set die D' } = .next t
          else gives D' t) ∧
      reg 0x21000 8 (gives (if v.toNat % 64 = 0 then { D with elbase := v } else D)) ∧
      (∀ k ≤ 16, v32.toNat = 2 ^ k → reg 0x21008 4 (gives { D with eln := v32 })) ∧
      ((∀ k ≤ 16, v32.toNat ≠ 2 ^ k) → reg 0x21008 4 (gives D)) ∧
      (∀ k, D.mbcmd.length = 128 → k + size ≤ 128 → off = 0x1000 + k →
        reg (0x1000 + k) size (gives { D with mbcmd := D.mbcmd.take k ++ leBytes size v.toNat ++ D.mbcmd.drop (k + size) })) ∧
      reg 0x10C0 4 (fun t => t = { s0 with
        doorbells := if s.mbox.any (fun x => x.1 == die) then s.doorbells else s.doorbells ++ [die] }) ∧
      (∀ c, c < 64 → (s.ctx? c).isSome → (s.ctx c).taskDie = die → (s.ctxs.map (·.id)).Nodup → let x := s.ctx c
        let r := 0x30000 + 0x1000 * c
        let put (x' : Ctx) (t : State) : Prop := t = { s0 with ctxs := t.ctxs } ∧ t.ctx c = x' ∧ (t.ctxs.map (·.id)) =
          s.ctxs.map (·.id) ∧ ∀ d, d ≠ c → t.ctx d = s.ctx d
        (x.dl.length = 4 → x.watch.length = 4 →
          reg r 8 (put { x with handler := v }) ∧ reg (r + 8) 8 (put { x with saveArea := v }) ∧
          (∀ i < 4, reg (r + 0x10 + 4 * i) 4 (put { x with dl := x.dl.set i v32 })) ∧
          reg (r + 0x24) 4 (put { x with wdog := v32 }) ∧
          (∀ i < 4, let w (f : Watch → Watch) : Ctx := { x with watch := x.watch.modify i f }
            reg (r + 0x40 + 16 * i) 8 (put (w fun z => { z with base := v })) ∧
            reg (r + 0x48 + 16 * i) 4 (put (w fun z => { z with len := v32 })) ∧
            reg (r + 0x4C + 16 * i) 4 (put (w fun z => { z with kinds := v.setWidth 3 }))) ∧
          (off = r + 0x20 → size = 4 → if v.getLsbD 8 then acts (.resume c) else
            exec (.managementWrite die off size v) s = .next s0) ∧
          (off = r + 0x28 → size = 4 → acts (.svcreplyWrite c v32))) ∧
        (x.thresh.length = 24 → (∀ i < 24, reg (r + 0x80 + 4 * i) 4 (put { x with thresh := x.thresh.set i v32 })) ∧
          reg (r + 0xE0) 8 (put { x with cring := v }) ∧ reg (r + 0xE8) 4 (put { x with cringN := v32 })) ∧
        ∀ h < 64, x.handles.length = 64 → let H := x.handles.getD h default
          let e := r + 0x800 + 32 * h
          let set (H' : Handle) : State → Prop := put { x with handles := x.handles.set h H' }
          H.thandle < 256 → H.tpkg < 65536 → H.tctx < 65536 →
          let H' : Handle := { H with valid := v.getLsbD 0, thandle := v.toNat / 256 % 256, tpkg := v.toNat / 65536 % 65536 }
          reg e 8 (set { H with lbase := v }) ∧ reg (e + 8) 4 (set { H with lsize := v32 }) ∧
          reg (e + 12) 4 (set (if v.getLsbD 0 then { H' with rcv := 0, ack := 0, issued := 0, err := 0, sectors := [] }
            else H')) ∧
          reg (e + 16) 4 (set { H with tctx := v.toNat % 65536 })) ∧
      (die = 0 →
        reg 0xC0000 4 (fun t => t = { s0 with pkgId := v.toNat % 4096 }) ∧
        (∀ p < 16, reg (0xC0100 + 16 * p) 8 (fun t =>
          t = { s0 with ports := s.ports.modify p fun _ => ⟨v.setWidth 48, v.getLsbD 48⟩ })) ∧
        ∀ k < 4096, reg (0xC8000 + 8 * k) 8 (fun t =>
          t = { s0 with routes := s.routes.filter (fun x => x.pkg != k) ++
            [⟨k, v.setWidth 48, v.toNat / 2 ^ 48 % 16, v.toNat / 2 ^ 56 % 16 + 1, v.getLsbD 63⟩] })) ∧
      ∀ i, i < 4096 → i < D.counters.length → let x := D.counters.getD i default
        let set (x' : Counter) : State → Prop := gives { D with counters := D.counters.set i x' }
        (off = 0x100000 + 64 * i → acts (.counterArm die (64 * i) size v)) ∧
        (x.template.length = 8 → reg (0x100004 + 64 * i) 4 (set { x with queue := v.setWidth 6 }) ∧
          ∀ k < 8, reg (0x100020 + 64 * i + 4 * k) 4 (set { x with template := x.template.set k v32 })))) ∧
  ∀ (s : State) die, s.powered = true → s.answers? die = true → die < Config.dies →
    let D := s.die die
    (∀ q < 128, s.readManagement die (0x1001C + 32 * q) 4 = (s.cmdq die q).stopped.toNat +
      2 * (s.cmdq die q).overrun.toNat + 4 * (s.cmdq die q).cmdFault.toNat) ∧
    s.readManagement die 0x20010 8 = D.ivdone.toNat ∧ s.readManagement die 0x2100C 4 = D.elseq.toNat ∧
    (D.mbcmd.length = 128 → D.mbrsp.length = 64 → s.readManagement die 0x10C4 4 = D.mbdone.toNat) ∧
    ∀ cl < 24, let C := s.cluster (clusterNo die cl)
      let r := 0x80000 + 16 * cl
      s.readManagement die r 4 = C.suspect.toNat + 256 * C.fenced.toNat ∧ s.readManagement die (r + 4) 4 = C.tests.toNat ∧
        s.readManagement die (r + 8) 4 = C.fails.toNat

/-- HOST_CXL_MEM_WRITE, HOST_SNOOP, LINK_RETRY, MODULE_DOWN, TRAINING_COMPLETE, POWER_REMOVAL, POWER_ON, IDLE_ENTRY,
IDLE_EXIT, ECC_CORRECTED and UNCORRECTABLE_ERROR (R39, R81, R388, R422, R435, R437). That memory which nothing has written
reads as 0 after the loss of power, and that a die leaves IDLE at any time, as a management read would have it, are the
model's choices (assumptions 2, 82). -/
def Obligations.DeviceEvents : Prop :=
  (∀ s pa bs, s.memOk → s.powered = true → paRangeOk pa bs.length = true →
    let stored (t : State) : Prop := ∀ a, Memory.read t.mem a =
      if pa ≤ a ∧ a < pa + bs.length then bs.getD (a - pa) 0 else Memory.read s.mem a
    (isHost pa = false → ∃ t, exec (.hostCxlMemWrite pa bs) s = .next t ∧ stored t) ∧
    (isHost pa = true → ∀ held, ∃ t, exec (.hostSnoop pa bs held) s = .next t ∧ stored t ∧
      ∀ die < 4, ∀ n ∈ (t.die die).hostLines, n < pa / 128 ∨ (pa + bs.length - 1) / 128 < n)) ∧
  (∀ s die addr, s.powered = true → die < 4 → die < s.dies.length →
    let counted (t : State) : Prop := (t.die die).elseq = (s.die die).elseq + 1 ∧ .errorLog die ∈ t.intrs
    (∃ t, exec (.linkRetry die) s = .next t ∧ counted t) ∧ (∃ t, exec (.eccCorrected die addr) s = .next t ∧ counted t) ∧
    (∀ pa, ∃ t, exec (.uncorrectableError die (.sector pa)) s = .next t ∧ counted t ∧ ((s.die die).elbase = 0 →
      t.poisoned pa 1 = true)) ∧
    (∀ pa, pa < 0x20_0000_0000 → ∃ t, exec (.uncorrectableError die (.compressed pa)) s = .next t ∧ counted t ∧
      ((s.die die).elbase = 0 → ∀ i < 256, t.poisoned (pa / 256 * 256 + i) 1 = true)) ∧
    (∀ b off, b < s.blocks.length → (s.blk b).resident = true → (s.blk b).die = die → off < (s.blk b).spSize → ∃ t, exec (.uncorrectableError die (.spWord b off)) s = .next t ∧
      counted t ∧ (t.blk b).spPoisoned off 1 = true) ∧
    (∀ b w l n, s.formed → b < s.blocks.length → (s.blk b).resident = true → (s.blk b).die = die →
      w < (s.blk b).warps.length → l < 32 → n < 64 →
      (s.lane b w l).live = true → ∃ t, exec (.uncorrectableError die (.vreg b w l n)) s = .next t ∧ counted t ∧
        (t.lane b w l).poisoned n = true) ∧
    (∀ b i n e, b < s.blocks.length → (s.blk b).resident = true → (s.blk b).die = die → i < (s.blk b).sets.length →
      n < ((s.blk b).set i).g.length → e < (((s.blk b).set i).g.getD n []).length →
      ∃ t, exec (.uncorrectableError die (.greg b i n e)) s = .next t ∧ counted t ∧
        ((((t.blk b).set i).g.getD n []).getD e default).poison = true) ∧
    ((s.die die).hostUp = 3 → ∃ t, exec (.moduleDown die) s = .next t ∧
      ((t.die die).hostUp = 1 ∧ (t.die die).hostFailed.getLsbD 1 = true ∨
        (t.die die).hostUp = 2 ∧ (t.die die).hostFailed.getLsbD 0 = true)) ∧
    ∀ link : Bool, (s.die die).trained.getLsbD link.toNat = false →
      ∃ t, exec (.trainingComplete die link) s = .next t ∧
        ∀ i < 2, (t.die die).trained.getLsbD i = ((s.die die).trained.getLsbD i || i == link.toNat)) ∧
  (∀ s, (s.powered = true → ∃ t, exec .powerRemoval s = .next t ∧ t.mode = .off ∧ t.blocks = [] ∧ t.launches = [] ∧
      t.ctxs = [] ∧ t.cycle = 0 ∧ ∀ a, Memory.read t.mem a = if isHost a then Memory.read s.mem a else 0) ∧
    (s.powered = false → ∃ t, exec .powerOn s = .next t ∧ t.mode = .twilight ∧ t.blocks = [] ∧ t.ctxs = [])) ∧
  ∀ s die, s.answers? die = true → die < s.dies.length → let d := s.die die
    let late := d.idleSince + 100 * Config.usCycles ≤ s.cycle
    (d.idleOk = true → d.idle = false → s.dieBusy die = false → late →
      ∃ t, exec (.idleEntry die) s = .next t ∧ (t.die die).idle = true) ∧
    (d.idle = false → ¬late → exec (.idleEntry die) s = .fault .notEnabled) ∧
    (d.idle = true → ∃ t, exec (.idleExit die) s = .next t ∧ (t.die die).idle = false ∧
      (t.die die).idleSince = s.cycle) ∧
    (d.idle = false → exec (.idleExit die) s = .fault .notEnabled)

namespace Sys2Proof.Machine

/-! ### Traps, decoding, the step and the states that a step keeps -/

/-- The group is one lane, and a block that is not halted. -/
def Ex.single (x : Ex) (l : Nat) : Prop := l < 32 ∧ x.is.lanes = 1#32 <<< l ∧ x.b.halt = none

/-- The block of a group has been halted with a cause and a fault address by its lanes, which are as they were. -/
def State.trapped (t : State) (x : Ex) (c : Cause) (addr : DWord) : Prop :=
  ∃ h, (t.blk x.is.blk).halt = some h ∧ h.trap.cause = c ∧ h.trap.faddr = addr ∧ h.trap.warp = x.is.warp ∧
    h.trap.faultLanes = x.is.lanes ∧ h.handler = false ∧ (t.warp x.is.blk x.is.warp).lanes = x.w.lanes

/-- The first failing check of an access of a lane under R72, then the watch ranges and the poison (R413, R422). -/
def State.deniedBy (s : State) (b : Nat) (va : DWord) (n : Nat) (k : Access) (c : Cause) : Prop :=
  let B := s.blk b
  let place := corePlace B.coreNo
  let die := placeDie place
  let held (p : Tlb → Nat → Prop) : Prop := ∃ t, (s.die die).lookup place B.ctx va = some t ∧
    p t (replicaPa t.entry (va.toNat - t.va) (replicaDie (entryRepl t.entry) die))
  let kind := match k with | .load => 0 | .fetch => 2 | .store => 1 | .atomic => 1
  let allowed (t : Tlb) (pa : Nat) : Prop := paOk pa = true ∧ s.reachable pa = true ∧
    match k with
    | .load => True
    | .store => entryRo t.entry = false
    | .atomic => entryRo t.entry = false ∧ entryRepl t.entry = 0
    | .fetch => entryNx t.entry = false
  (canonical va = false ∧ c = .prot) ∨
  (canonical va = true ∧ va.toNat % n ≠ 0 ∧ c = .misalign) ∨
  (canonical va = true ∧ va.toNat % n = 0 ∧
    ((s.lookup place B.ctx va = none ∧ s.walk B.ctx va = .inl c) ∨
      held (fun t pa => ¬allowed t pa ∧ c = .prot) ∨
      held (fun t pa => allowed t pa ∧ s.watched B.ctx kind va n = true ∧ c = .watch) ∨
      held (fun t pa => allowed t pa ∧ s.watched B.ctx kind va n = false ∧ (k = .load ∨ k = .fetch) ∧
        s.poisoned pa n = true ∧ c = .poison)))

end Sys2Proof.Machine

open Sys2Proof Sys2Proof.Machine

/-- BREAK, illegal words and runs, and the reads of empty and poisoned registers. TRAP and BKPT halt the block with
BREAK for every lane of the group; TRAP gives the lowest lane's register and 1 as the fault address, BKPT zero (R154,
R404). A word without a meaning, and an instruction on registers whose run or operands its description does not
accept, raise ILLEGAL_OP with no other effect (R113); in Twilight mode so do WALK, STEP and MAP (R435). A lane that
reads an empty register waits with nothing written, and with its trap bit raises EMPTY_READ; a poisoned one raises
POISON (R98, R422). That EMPTY_READ comes before a wait for another source, and POISON after both, and that the
participants of an illegal word gather first, are the model's choices (assumptions 9, 10). -/
def Obligations.TrapsRaised : Prop :=
  ((∀ (f : FormEA) s is, s.formed → s.selects is → let x := Ex.of s is
    x.legal {} [⟨.v, f.a.toNat, 1, false⟩] = true → x.b.halt = none →
    (∀ l ∈ lanesOf is.lanes, readiness (x.w.lane l).view [⟨f.a.toNat, 1, false, .own⟩] [] = .go) →
    ∃ t h, exec (.trap f) s = .next t ∧ (t.blk is.blk).halt = some h ∧ h.trap.cause = .break_ ∧ h.trap.warp = is.warp ∧
      h.trap.faultLanes = is.lanes ∧ h.trap.faddr = (1#32 ++ (x.w.lane (lowest is.lanes)).reg f.a.toNat : DWord) ∧ h.handler = false ∧
      (t.blk is.blk).warps = x.b.warps) ∧
  ∀ s is, s.formed → s.selects is → let x := Ex.of s is
    x.legal {} [] = true → x.b.halt = none →
    ∃ t h, exec .bkpt s = .next t ∧ (t.blk is.blk).halt = some h ∧ h.trap.cause = .break_ ∧ h.trap.warp = is.warp ∧
      h.trap.faultLanes = is.lanes ∧ h.trap.faddr = 0 ∧ h.handler = false ∧ (t.blk is.blk).warps = x.b.warps) ∧
  (∀ w, decodeWord w = none → bits w 26 6 ≠ 0x3F → wordIllegal w) ∧
  (EachInteger fun r => ∀ (s : State) is, s.selects is → (Ex.of s is).legal r.acc (r.ops (Ex.of s is)) (r.extra (Ex.of s is)) = false →
    s.raisesIllegal is r.sc (exec r.instr s)) ∧
  (EachFloat fun r => ∀ (s : State) is, s.selects is → (Ex.of s is).legal r.acc (r.ops (Ex.of s is)) (r.extra (Ex.of s is)) = false →
    s.raisesIllegal is r.sc (exec r.instr s)) ∧
  (∀ (s : State) is, s.selects is → s.mode = .twilight → ∀ (f : FormDA) (g : FormDAB),
    ∀ i ∈ ([.wstart f, .wjoin g, .wleave g, .wwait f, .wstat g, .wretire g, .kvapp f, .sopen f, .ssig g, .scommit g, .smap g,
      .sclose f, .mapbind f, .mapstat f, .mapcomp g, .mapapply g, .mapmask g] : List Instr),
    s.raisesIllegal is 1 (exec i s)) ∧
  EachInteger fun r => ∀ (s : State) is l, s.formed → s.selects is → let x := Ex.of s is
    r.sc = 0 → x.single l → x.legal r.acc (r.ops x) (r.extra x) = true → (x.w.lane l).guard r.gn r.gp = true →
    let L := x.w.lane l
    let unfilled (z : Src) : Prop := z.kind = .own ∧ ∃ i < z.n, L.full (z.code + i) = false
    let marked (z : Src) : Prop := z.kind = .own ∧ ∃ i < z.n, L.poisoned (z.code + i) = true
    ((∃ z ∈ r.srcs x, z.trap = true ∧ unfilled z) → ∃ t, exec r.instr s = .next t ∧ t.trapped x .emptyRead 0) ∧
    ((∀ z ∈ r.srcs x, unfilled z → z.trap = false) → (∃ z ∈ r.srcs x, unfilled z) ∨ (∃ d ∈ r.dst.codes, L.full d = false) →
      ∃ t, exec r.instr s = .next t ∧ t.lane is.blk is.warp l = { L with status := .fill }) ∧
    ((∀ z ∈ r.srcs x, ¬unfilled z) → (∀ d ∈ r.dst.codes, L.full d = true) → (∃ z ∈ r.srcs x, marked z) →
      ∃ t, exec r.instr s = .next t ∧ t.trapped x .poison 0)

/-- The checks of an access in their order, at a load, a store and a fetch of one lane: a non-canonical address and
one that a page denies raise PROT, a misaligned one MISALIGN, a missing page the cause of the walk, a watched range
WATCH and a poisoned sector POISON, with the address as FADDR and nothing loaded, stored or moved (R72, R404, R413,
R422). -/
def Obligations.AccessTraps : Prop :=
  (∀ (f : FormM) s is l c, s.formed → s.selects is → let x := Ex.of s is
    let m := ldForm f x
    let size := sizeOf_ f.sz x.pf.modOf.wq
    let va := (x.w.lane l).view.wide f.a.toNat 2 + BitVec.ofNat 64 (offOf x.pf f.off.toNat 7 * size)
    f.sc = 0 → x.single l → x.legal m.acc m.ops m.extra = true → x.pf.sem = 0 →
    readiness (x.w.lane l).view m.srcs m.dst = .go → (x.w.lane l).watchSkip = 0 → s.deniedBy is.blk va size .load c →
    ∃ t, exec (.ld f) s = .next t ∧ t.trapped x c va ∧ t.mem = s.mem ∧ t.loads = s.loads) ∧
  (∀ (f : FormW) s is l c, s.formed → s.selects is → let x := Ex.of s is
    let m := stForm f false x
    let size := sizeOf_ f.sz x.pf.modOf.wq
    let va := (x.w.lane l).view.wide f.a.toNat 2 + BitVec.ofNat 64 (offOf x.pf f.off.toNat 6 * size)
    f.sc = 0 → x.single l → x.legal m.acc m.ops m.extra = true → x.pf.sem = 0 → (x.w.lane l).guard f.gn f.gp = true →
    readiness (x.w.lane l).view m.srcs m.dst = .go → (x.w.lane l).watchSkip = 0 → s.deniedBy is.blk va size .store c →
    ∃ t, exec (.st f) s = .next t ∧ t.trapped x c va ∧ t.mem = s.mem ∧ t.stores = s.stores) ∧
  ∀ (s : State) is c, let s' := s.selected is
    s'.selects is → s'.formed → (s'.blk is.blk).halt = none → (s'.lane is.blk is.warp (lowest is.lanes)).watchSkip = 0 →
    s'.deniedBy is.blk is.pc 4 .fetch c →
    ∃ t, s.perform (.issue is) = .next t ∧ t.trapped (Ex.of s' is) c is.pc ∧ t.mem = s.mem

/-- A step that issues a group runs the instruction that its word decodes to: the word is the one at the physical
address of the group's program counter, or an older one that the core's instruction cache holds of it (R89), and what
happens is exec of its instruction at the state in which the group is selected and the word fetched. A step is one of
the things that may happen next, after which time goes on; where that group's issue is the only one, the step is exec
of its instruction (R88, R89, R116; which of several happens first is the model's free choice, log entry 1). -/
def Obligations.StepRunsDecoded : Prop :=
  (∀ (s : State) is e pa i, (s.selected is).maps is.blk is.pc 4 .fetch e pa → decodeWord ((s.selected is).codeOf is pa) = some i →
    s.perform (.issue is) = exec i ((s.selected is).fetched is pa)) ∧
  (∀ (s s' : State) is e pa i, (s.selected is).laneAccess is.blk is.pc 4 .fetch
      (((s.selected is).lane is.blk is.warp (lowest is.lanes)).watchSkip.getLsbD 1) = (s', .ok e pa) →
    decodeWord (s'.codeOf is pa) = some i → s.perform (.issue is) = exec i (s'.fetched is pa)) ∧
  (∀ (s s' : State) is e pa i l r t, s.moves = l ++ .issue is :: r → (∀ m ∈ l ++ r, ∀ u, s.perform m ≠ .next u) →
    (s.selected is).laneAccess is.blk is.pc 4 .fetch
      (((s.selected is).lane is.blk is.warp (lowest is.lanes)).watchSkip.getLsbD 1) = (s', .ok e pa) →
    decodeWord (s'.codeOf is pa) = some i → exec i (s'.fetched is pa) = .next t → step s = .next t.passTime) ∧
  (∀ (s : State) (is : Issue) pa, let C := s.core (s.blk is.blk).coreNo
    let mine (x : CodeLine) : Prop := x.ctx = (s.blk is.blk).ctx ∧ x.line = pa / 128
    ((∀ x ∈ C.code, ¬mine x) → s.codeOf is pa = wordOf (s.readPa pa 4)) ∧
    ((∃ x ∈ C.code, mine x) → s.fetched is pa = s ∧ ∃ x ∈ C.code, mine x ∧
      s.codeOf is pa = wordOf ((x.bytes.drop (pa % 128)).take 4))) ∧
  ∀ (s : State), ((∀ m ∈ s.moves, ∀ t, s.perform m ≠ .next t) → step s = .next s.passTime) ∧
    ((∃ m ∈ s.moves, ∃ t, s.perform m = .next t) → ∃ m ∈ s.moves, ∃ t, s.perform m = .next t ∧
      (step s = .next t.passTime ∨ step s = .next { t with tick := t.tick + 1 }.passTime))

/-- Decoding and encoding agree in both directions: the word of an instruction decodes to it, with every operand at
every value that a word can hold, a word with a meaning is the word of what it decodes to, and a well-formed
instruction has a word (R90, R111, R112). -/
def Obligations.DecodeEncode : Prop :=
  (∀ i w, encode i = some w → decodeWord w = some i) ∧ (∀ w i, decodeWord w = some i → encode i = some w) ∧
  ∀ i, i.wf = true → ∃ w, encode i = some w ∧ decodeWord w = some i

/-- The words that the spec works out decode to the instructions that it gives for them (R112, R186), and a few with a
field out of its place do not decode. -/
def Obligations.DecodedWords : Prop :=
  decodeWord 0x041461C3#32 = some (.imulhS ⟨0, 5, 6, 7, false, false⟩) ∧
  decodeWord 0x18_27FFFF#32 = some (.movi ⟨0, 9, 0x3FFFF⟩) ∧
  decodeWord 0x5810_6202#32 = some (.lea2 ⟨0, 4, 6, 8, false, false⟩) ∧
  decodeWord 0x0400000C#32 = none ∧ decodeWord 0xFFFFFFFF#32 = none ∧ decodeWord 0#32 = none

/-- The device after reset: Twilight mode, no context, launch or block, ELBASE 0, ELN 1, ELSEQ 0, IDLEOK 0, no
sub-array suspect or fenced, no memory listed; its parts have their sizes and its memory is canonical (R272, R423,
R435, R437). That unwritten memory reads as 0 is the model's choice (log entry 2), as are the values of registers
whose reset value the spec leaves open (log entry 3), of which this says nothing. -/
def Obligations.ResetState : Prop :=
  let s := State.reset
  s.mode = .twilight ∧ s.ctxs = [] ∧ s.launches = [] ∧ s.blocks = [] ∧ s.intrs = [] ∧ s.cur = none ∧ s.poison = [] ∧
    s.mem = [] ∧ s.dies.length = Config.dies ∧ s.clusters.length = Config.dies * Config.clusters ∧
    s.cores.length = Config.dies * Config.clusters * Config.cores ∧
    (∀ d ∈ s.dies, d.elbase = 0 ∧ d.eln = 1 ∧ d.elseq = 0 ∧ d.idleOk = false ∧ d.idle = false ∧ d.tlb = [] ∧ d.fired = []) ∧
    (∀ c ∈ s.clusters, c.suspect = 0 ∧ c.fenced = 0 ∧ c.walkIds = 0 ∧ c.steps = []) ∧ (∀ c ∈ s.cores, c.l1 = []) ∧
    s.memOk ∧ s.sized

/-- Every step keeps physical memory and every scratchpad in canonical form, so that equal memories are equal data. -/
def Obligations.MemoryCanonical : Prop := ∀ (s t : State), s.memOk → step s = .next t → t.memOk

/-- Every step keeps the parts of every block and core at their sizes, each rendezvous instance within its unit, no L1
holds a line twice, and every atomic on its way has a name that was given before (the names are the model's own) (R9, R66, R124 to R126, R133, R146, R226, R364). -/
def Obligations.PartsFormed : Prop := ∀ (s t : State), s.sized → step s = .next t → t.sized
end

