-- ==== Sys2Proof/Laws/Memory.lean ====
section
/-! SUPPORT. Byte memory: reads after writes, and that every operation keeps the canonical form. -/

namespace Sys2Proof.Machine

/-- A byte just written reads back. -/
theorem Memory.read_write_same (m : List Host.Cell) (a : Nat) (b : Byte) (lo : Nat) (h : Memory.wfAbove lo m = true) :
    Memory.read (Memory.write m a b) a = b := by
  induction m generalizing lo with
  | nil => by_cases hb : b = Memory.unlisted <;> simp [Memory.write, Memory.read, hb]
  | cons c t ih =>
    obtain ⟨k, v⟩ := c
    simp only [Memory.wfAbove, Bool.and_eq_true, decide_eq_true_eq] at h
    have above : ∀ (m : List Host.Cell) (lo x : Nat), Memory.wfAbove lo m = true → x < lo → Memory.read m x = Memory.unlisted := by
      intro m
      induction m with
      | nil => intros; rfl
      | cons c t ih =>
        intro lo x h hx
        obtain ⟨k, v⟩ := c
        simp only [Memory.wfAbove, Bool.and_eq_true, decide_eq_true_eq] at h
        have : k ≠ x := by omega
        simpa [Memory.read, this] using ih (k + 1) x h.2 (by omega)
    simp only [Memory.write]
    split
    · by_cases hb : b = Memory.unlisted
      · have : k ≠ a := by omega
        simp [hb, Memory.read, this, above t (k + 1) a h.2 (by omega)]
      · simp [hb, Memory.read]
    · split
      · rename_i hk
        by_cases hb : b = Memory.unlisted
        · simp [hb, above t (k + 1) a h.2 (by omega)]
        · simp [hb, Memory.read]
      · have : k ≠ a := by omega
        simpa [Memory.read, this] using ih (k + 1) h.2

/-- Another byte reads as before. -/
theorem Memory.read_write_other (m : List Host.Cell) (a x : Nat) (b : Byte) (hx : x ≠ a) (lo : Nat)
    (h : Memory.wfAbove lo m = true) : Memory.read (Memory.write m a b) x = Memory.read m x := by
  induction m generalizing lo with
  | nil => by_cases hb : b = Memory.unlisted <;> simp [Memory.write, Memory.read, hb, Ne.symm hx]
  | cons c t ih =>
    obtain ⟨k, v⟩ := c
    simp only [Memory.wfAbove, Bool.and_eq_true, decide_eq_true_eq] at h
    simp only [Memory.write]
    split
    · by_cases hb : b = Memory.unlisted <;> simp [hb, Memory.read, Ne.symm hx]
    · split
      · rename_i hk
        have : k ≠ x := by omega
        by_cases hb : b = Memory.unlisted
        · simp [hb, Memory.read, this]
        · simp [hb, Memory.read, this, Ne.symm hx]
      · by_cases hk : k = x
        · simp [Memory.read, hk]
        · simpa [Memory.read, hk] using ih (k + 1) h.2

/-- A bound on the addresses may be lowered. -/
theorem Memory.wfAbove_mono (m : List Host.Cell) {lo hi : Nat} (h : lo ≤ hi) (hm : Memory.wfAbove hi m = true) :
    Memory.wfAbove lo m = true := by
  cases m with
  | nil => rfl
  | cons c t =>
    obtain ⟨k, v⟩ := c
    simp only [Memory.wfAbove, Bool.and_eq_true, decide_eq_true_eq] at hm ⊢
    exact ⟨⟨by omega, hm.1.2⟩, hm.2⟩

/-- A write keeps the form above a bound that its address keeps. -/
theorem Memory.wfAbove_write (m : List Host.Cell) (a : Nat) (b : Byte) {lo : Nat} (ha : lo ≤ a)
    (h : Memory.wfAbove lo m = true) : Memory.wfAbove lo (Memory.write m a b) = true := by
  induction m generalizing lo with
  | nil => by_cases hb : b = Memory.unlisted <;> simp [Memory.write, Memory.wfAbove, hb, ha]
  | cons c t ih =>
    obtain ⟨k, v⟩ := c
    simp only [Memory.wfAbove, Bool.and_eq_true, decide_eq_true_eq] at h
    simp only [Memory.write]
    split
    · by_cases hb : b = Memory.unlisted
      · simp [hb, Memory.wfAbove, h]
      · simp only [hb, if_false, Memory.wfAbove, Bool.and_eq_true, decide_eq_true_eq, bne_iff_ne, ne_eq, not_false_eq_true,
          and_true]
        exact ⟨ha, ⟨by omega, by simpa using h.1.2⟩, h.2⟩
    · split
      · rename_i hk
        by_cases hb : b = Memory.unlisted
        · simpa [hb] using Memory.wfAbove_mono t (by omega) h.2
        · simp only [hb, if_false, Memory.wfAbove, Bool.and_eq_true, decide_eq_true_eq, bne_iff_ne, ne_eq,
            not_false_eq_true, and_true]
          exact ⟨ha, by simpa [hk] using h.2⟩
      · simp only [Memory.wfAbove, Bool.and_eq_true, decide_eq_true_eq]
        exact ⟨h.1, ih (by omega) h.2⟩

/-- A write keeps the canonical form. -/
theorem Memory.wf_write (m : List Host.Cell) (a : Nat) (b : Byte) (h : Memory.wf m = true) :
    Memory.wf (Memory.write m a b) = true := Memory.wfAbove_write m a b (Nat.zero_le a) h

/-- Writing bytes keeps the canonical form. -/
theorem Memory.wf_writeBytes (bs : List Byte) (m : List Host.Cell) (a : Nat) (h : Memory.wf m = true) :
    Memory.wf (Memory.writeBytes m a bs) = true := by
  induction bs generalizing m a with
  | nil => exact h
  | cons b bs ih => exact ih _ _ (Memory.wf_write m a b h)

/-- Dropping cells keeps the canonical form. -/
theorem Memory.wfAbove_filter (p : Host.Cell → Bool) (m : List Host.Cell) {lo : Nat} (h : Memory.wfAbove lo m = true) :
    Memory.wfAbove lo (m.filter p) = true := by
  induction m generalizing lo with
  | nil => rfl
  | cons c t ih =>
    obtain ⟨k, v⟩ := c
    simp only [Memory.wfAbove, Bool.and_eq_true, decide_eq_true_eq] at h
    by_cases hp : p (k, v) = true
    · simp only [List.filter_cons_of_pos hp, Memory.wfAbove, Bool.and_eq_true, decide_eq_true_eq]
      exact ⟨h.1, ih h.2⟩
    · rw [List.filter_cons_of_neg hp]
      exact ih (Memory.wfAbove_mono t (by omega) h.2)

/-- Truncation keeps the canonical form. -/
theorem Memory.wf_truncate (m : List Host.Cell) (n : Nat) (h : Memory.wf m = true) :
    Memory.wf (Memory.truncate m n) = true := Memory.wfAbove_filter _ m h

/-- What every byte reads as after bytes have been written. -/
theorem Memory.read_writeBytes (bs : List Byte) (m : List Host.Cell) (a x : Nat) (h : Memory.wf m = true) :
    Memory.read (Memory.writeBytes m a bs) x =
      if a ≤ x ∧ x < a + bs.length then bs.getD (x - a) 0 else Memory.read m x := by
  induction bs generalizing m a with
  | nil =>
    have : ¬(a ≤ x ∧ x < a) := by omega
    simp [Memory.writeBytes, this]
  | cons b bs ih =>
    rw [Memory.writeBytes, ih _ _ (Memory.wf_write m a b h)]
    by_cases hx : x = a
    · subst hx
      have h1 : ¬(x + 1 ≤ x ∧ x < x + 1 + bs.length) := by omega
      have h2 : x ≤ x ∧ x < x + (b :: bs).length := by simp
      rw [if_neg h1, if_pos h2, Memory.read_write_same m x b 0 h]
      simp
    · rw [Memory.read_write_other m a x b hx 0 h]
      by_cases hr : a + 1 ≤ x ∧ x < a + 1 + bs.length
      · have h2 : a ≤ x ∧ x < a + (b :: bs).length := by simp only [List.length_cons]; omega
        rw [if_pos hr, if_pos h2]
        have : x - a = (x - (a + 1)) + 1 := by omega
        rw [this, List.getD_cons_succ]
      · have h2 : ¬(a ≤ x ∧ x < a + (b :: bs).length) := by simp only [List.length_cons]; omega
        rw [if_neg hr, if_neg h2]

/-- Memory with nothing listed is canonical, and every byte of it reads as unlisted. -/
@[simp] theorem Memory.wf_nil : Memory.wf [] = true := rfl

@[simp] theorem Memory.read_nil (a : Nat) : Memory.read [] a = Memory.unlisted := rfl

theorem State.reset_mem_wf : Memory.wf State.reset.mem = true := rfl

theorem State.wf_writePa (s : State) (pa : Nat) (bs : List Byte) (h : Memory.wf s.mem = true) :
    Memory.wf (s.writePa pa bs).mem = true := Memory.wf_writeBytes bs s.mem pa h

@[simp] theorem Memory.length_readBytes (m : List Host.Cell) (a n : Nat) : (Memory.readBytes m a n).length = n := by
  simp [Memory.readBytes]

@[simp] theorem length_leBytes (n v : Nat) : (leBytes n v).length = n := by simp [leBytes]

end Sys2Proof.Machine
end

