-- ==== Sys2Proof/Laws/State.lean ====
section
/-! SUPPORT. What the updates of a state leave as it was, field by field, and what they put in place. -/

namespace Sys2Proof.Machine

@[simp] theorem State.updBlk_mode (s : State) (b : Nat) (f : Block → Block) : (s.updBlk b f).mode = s.mode := rfl
@[simp] theorem State.updBlk_mem (s : State) (b : Nat) (f : Block → Block) : (s.updBlk b f).mem = s.mem := rfl
@[simp] theorem State.updBlk_poison (s : State) (b : Nat) (f : Block → Block) : (s.updBlk b f).poison = s.poison := rfl
@[simp] theorem State.updBlk_dies (s : State) (b : Nat) (f : Block → Block) : (s.updBlk b f).dies = s.dies := rfl
@[simp] theorem State.updBlk_clusters (s : State) (b : Nat) (f : Block → Block) : (s.updBlk b f).clusters = s.clusters := rfl
@[simp] theorem State.updBlk_cores (s : State) (b : Nat) (f : Block → Block) : (s.updBlk b f).cores = s.cores := rfl
@[simp] theorem State.updBlk_ctxs (s : State) (b : Nat) (f : Block → Block) : (s.updBlk b f).ctxs = s.ctxs := rfl
@[simp] theorem State.updBlk_launches (s : State) (b : Nat) (f : Block → Block) : (s.updBlk b f).launches = s.launches := rfl
@[simp] theorem State.updBlk_loads (s : State) (b : Nat) (f : Block → Block) : (s.updBlk b f).loads = s.loads := rfl
@[simp] theorem State.updBlk_stores (s : State) (b : Nat) (f : Block → Block) : (s.updBlk b f).stores = s.stores := rfl
@[simp] theorem State.updBlk_atoms (s : State) (b : Nat) (f : Block → Block) : (s.updBlk b f).atoms = s.atoms := rfl
@[simp] theorem State.updBlk_fences (s : State) (b : Nat) (f : Block → Block) : (s.updBlk b f).fences = s.fences := rfl
@[simp] theorem State.updBlk_replies (s : State) (b : Nat) (f : Block → Block) : (s.updBlk b f).replies = s.replies := rfl
@[simp] theorem State.updBlk_hostCopies (s : State) (b : Nat) (f : Block → Block) : (s.updBlk b f).hostCopies = s.hostCopies := rfl
@[simp] theorem State.updBlk_copies (s : State) (b : Nat) (f : Block → Block) : (s.updBlk b f).copies = s.copies := rfl
@[simp] theorem State.updBlk_mrt (s : State) (b : Nat) (f : Block → Block) : (s.updBlk b f).mrt = s.mrt := rfl
@[simp] theorem State.updBlk_jobs (s : State) (b : Nat) (f : Block → Block) : (s.updBlk b f).jobs = s.jobs := rfl
@[simp] theorem State.updBlk_walks (s : State) (b : Nat) (f : Block → Block) : (s.updBlk b f).walks = s.walks := rfl
@[simp] theorem State.updBlk_walkReqs (s : State) (b : Nat) (f : Block → Block) : (s.updBlk b f).walkReqs = s.walkReqs := rfl
@[simp] theorem State.updBlk_appended (s : State) (b : Nat) (f : Block → Block) : (s.updBlk b f).appended = s.appended := rfl
@[simp] theorem State.updBlk_pageWalks (s : State) (b : Nat) (f : Block → Block) : (s.updBlk b f).pageWalks = s.pageWalks := rfl
@[simp] theorem State.updBlk_seqOps (s : State) (b : Nat) (f : Block → Block) : (s.updBlk b f).seqOps = s.seqOps := rfl
@[simp] theorem State.updBlk_binds (s : State) (b : Nat) (f : Block → Block) : (s.updBlk b f).binds = s.binds := rfl
@[simp] theorem State.updBlk_mapOps (s : State) (b : Nat) (f : Block → Block) : (s.updBlk b f).mapOps = s.mapOps := rfl
@[simp] theorem State.updBlk_topkOps (s : State) (b : Nat) (f : Block → Block) : (s.updBlk b f).topkOps = s.topkOps := rfl
@[simp] theorem State.updBlk_ctrOps (s : State) (b : Nat) (f : Block → Block) : (s.updBlk b f).ctrOps = s.ctrOps := rfl
@[simp] theorem State.updBlk_deqWaits (s : State) (b : Nat) (f : Block → Block) : (s.updBlk b f).deqWaits = s.deqWaits := rfl
@[simp] theorem State.updBlk_frames (s : State) (b : Nat) (f : Block → Block) : (s.updBlk b f).frames = s.frames := rfl
@[simp] theorem State.updBlk_puts (s : State) (b : Nat) (f : Block → Block) : (s.updBlk b f).puts = s.puts := rfl
@[simp] theorem State.updBlk_frameSeq (s : State) (b : Nat) (f : Block → Block) : (s.updBlk b f).frameSeq = s.frameSeq := rfl
@[simp] theorem State.updBlk_seen (s : State) (b : Nat) (f : Block → Block) : (s.updBlk b f).seen = s.seen := rfl
@[simp] theorem State.updBlk_answers (s : State) (b : Nat) (f : Block → Block) : (s.updBlk b f).answers = s.answers := rfl
@[simp] theorem State.updBlk_doorbells (s : State) (b : Nat) (f : Block → Block) : (s.updBlk b f).doorbells = s.doorbells := rfl
@[simp] theorem State.updBlk_mbox (s : State) (b : Nat) (f : Block → Block) : (s.updBlk b f).mbox = s.mbox := rfl
@[simp] theorem State.updBlk_pkgId (s : State) (b : Nat) (f : Block → Block) : (s.updBlk b f).pkgId = s.pkgId := rfl
@[simp] theorem State.updBlk_ports (s : State) (b : Nat) (f : Block → Block) : (s.updBlk b f).ports = s.ports := rfl
@[simp] theorem State.updBlk_routes (s : State) (b : Nat) (f : Block → Block) : (s.updBlk b f).routes = s.routes := rfl
@[simp] theorem State.updBlk_stalls (s : State) (b : Nat) (f : Block → Block) : (s.updBlk b f).stalls = s.stalls := rfl
@[simp] theorem State.updBlk_intrs (s : State) (b : Nat) (f : Block → Block) : (s.updBlk b f).intrs = s.intrs := rfl
@[simp] theorem State.updBlk_cur (s : State) (b : Nat) (f : Block → Block) : (s.updBlk b f).cur = s.cur := rfl
@[simp] theorem State.updBlk_inputs (s : State) (b : Nat) (f : Block → Block) : (s.updBlk b f).inputs = s.inputs := rfl
@[simp] theorem State.updBlk_wire (s : State) (b : Nat) (f : Block → Block) : (s.updBlk b f).wire = s.wire := rfl
@[simp] theorem State.updBlk_tick (s : State) (b : Nat) (f : Block → Block) : (s.updBlk b f).tick = s.tick := rfl
@[simp] theorem State.updBlk_nextId (s : State) (b : Nat) (f : Block → Block) : (s.updBlk b f).nextId = s.nextId := rfl
@[simp] theorem State.updBlk_cycle (s : State) (b : Nat) (f : Block → Block) : (s.updBlk b f).cycle = s.cycle := rfl

@[simp] theorem State.updWarp_mode (s : State) (b w : Nat) (f : Warp → Warp) : (s.updWarp b w f).mode = s.mode := rfl
@[simp] theorem State.updWarp_mem (s : State) (b w : Nat) (f : Warp → Warp) : (s.updWarp b w f).mem = s.mem := rfl
@[simp] theorem State.updWarp_poison (s : State) (b w : Nat) (f : Warp → Warp) : (s.updWarp b w f).poison = s.poison := rfl
@[simp] theorem State.updWarp_dies (s : State) (b w : Nat) (f : Warp → Warp) : (s.updWarp b w f).dies = s.dies := rfl
@[simp] theorem State.updWarp_clusters (s : State) (b w : Nat) (f : Warp → Warp) : (s.updWarp b w f).clusters = s.clusters := rfl
@[simp] theorem State.updWarp_cores (s : State) (b w : Nat) (f : Warp → Warp) : (s.updWarp b w f).cores = s.cores := rfl
@[simp] theorem State.updWarp_ctxs (s : State) (b w : Nat) (f : Warp → Warp) : (s.updWarp b w f).ctxs = s.ctxs := rfl
@[simp] theorem State.updWarp_launches (s : State) (b w : Nat) (f : Warp → Warp) : (s.updWarp b w f).launches = s.launches := rfl
@[simp] theorem State.updWarp_loads (s : State) (b w : Nat) (f : Warp → Warp) : (s.updWarp b w f).loads = s.loads := rfl
@[simp] theorem State.updWarp_stores (s : State) (b w : Nat) (f : Warp → Warp) : (s.updWarp b w f).stores = s.stores := rfl
@[simp] theorem State.updWarp_atoms (s : State) (b w : Nat) (f : Warp → Warp) : (s.updWarp b w f).atoms = s.atoms := rfl
@[simp] theorem State.updWarp_fences (s : State) (b w : Nat) (f : Warp → Warp) : (s.updWarp b w f).fences = s.fences := rfl
@[simp] theorem State.updWarp_replies (s : State) (b w : Nat) (f : Warp → Warp) : (s.updWarp b w f).replies = s.replies := rfl
@[simp] theorem State.updWarp_hostCopies (s : State) (b w : Nat) (f : Warp → Warp) : (s.updWarp b w f).hostCopies = s.hostCopies := rfl
@[simp] theorem State.updWarp_copies (s : State) (b w : Nat) (f : Warp → Warp) : (s.updWarp b w f).copies = s.copies := rfl
@[simp] theorem State.updWarp_mrt (s : State) (b w : Nat) (f : Warp → Warp) : (s.updWarp b w f).mrt = s.mrt := rfl
@[simp] theorem State.updWarp_jobs (s : State) (b w : Nat) (f : Warp → Warp) : (s.updWarp b w f).jobs = s.jobs := rfl
@[simp] theorem State.updWarp_walks (s : State) (b w : Nat) (f : Warp → Warp) : (s.updWarp b w f).walks = s.walks := rfl
@[simp] theorem State.updWarp_walkReqs (s : State) (b w : Nat) (f : Warp → Warp) : (s.updWarp b w f).walkReqs = s.walkReqs := rfl
@[simp] theorem State.updWarp_appended (s : State) (b w : Nat) (f : Warp → Warp) : (s.updWarp b w f).appended = s.appended := rfl
@[simp] theorem State.updWarp_pageWalks (s : State) (b w : Nat) (f : Warp → Warp) : (s.updWarp b w f).pageWalks = s.pageWalks := rfl
@[simp] theorem State.updWarp_seqOps (s : State) (b w : Nat) (f : Warp → Warp) : (s.updWarp b w f).seqOps = s.seqOps := rfl
@[simp] theorem State.updWarp_binds (s : State) (b w : Nat) (f : Warp → Warp) : (s.updWarp b w f).binds = s.binds := rfl
@[simp] theorem State.updWarp_mapOps (s : State) (b w : Nat) (f : Warp → Warp) : (s.updWarp b w f).mapOps = s.mapOps := rfl
@[simp] theorem State.updWarp_topkOps (s : State) (b w : Nat) (f : Warp → Warp) : (s.updWarp b w f).topkOps = s.topkOps := rfl
@[simp] theorem State.updWarp_ctrOps (s : State) (b w : Nat) (f : Warp → Warp) : (s.updWarp b w f).ctrOps = s.ctrOps := rfl
@[simp] theorem State.updWarp_deqWaits (s : State) (b w : Nat) (f : Warp → Warp) : (s.updWarp b w f).deqWaits = s.deqWaits := rfl
@[simp] theorem State.updWarp_frames (s : State) (b w : Nat) (f : Warp → Warp) : (s.updWarp b w f).frames = s.frames := rfl
@[simp] theorem State.updWarp_puts (s : State) (b w : Nat) (f : Warp → Warp) : (s.updWarp b w f).puts = s.puts := rfl
@[simp] theorem State.updWarp_frameSeq (s : State) (b w : Nat) (f : Warp → Warp) : (s.updWarp b w f).frameSeq = s.frameSeq := rfl
@[simp] theorem State.updWarp_seen (s : State) (b w : Nat) (f : Warp → Warp) : (s.updWarp b w f).seen = s.seen := rfl
@[simp] theorem State.updWarp_answers (s : State) (b w : Nat) (f : Warp → Warp) : (s.updWarp b w f).answers = s.answers := rfl
@[simp] theorem State.updWarp_doorbells (s : State) (b w : Nat) (f : Warp → Warp) : (s.updWarp b w f).doorbells = s.doorbells := rfl
@[simp] theorem State.updWarp_mbox (s : State) (b w : Nat) (f : Warp → Warp) : (s.updWarp b w f).mbox = s.mbox := rfl
@[simp] theorem State.updWarp_pkgId (s : State) (b w : Nat) (f : Warp → Warp) : (s.updWarp b w f).pkgId = s.pkgId := rfl
@[simp] theorem State.updWarp_ports (s : State) (b w : Nat) (f : Warp → Warp) : (s.updWarp b w f).ports = s.ports := rfl
@[simp] theorem State.updWarp_routes (s : State) (b w : Nat) (f : Warp → Warp) : (s.updWarp b w f).routes = s.routes := rfl
@[simp] theorem State.updWarp_stalls (s : State) (b w : Nat) (f : Warp → Warp) : (s.updWarp b w f).stalls = s.stalls := rfl
@[simp] theorem State.updWarp_intrs (s : State) (b w : Nat) (f : Warp → Warp) : (s.updWarp b w f).intrs = s.intrs := rfl
@[simp] theorem State.updWarp_cur (s : State) (b w : Nat) (f : Warp → Warp) : (s.updWarp b w f).cur = s.cur := rfl
@[simp] theorem State.updWarp_inputs (s : State) (b w : Nat) (f : Warp → Warp) : (s.updWarp b w f).inputs = s.inputs := rfl
@[simp] theorem State.updWarp_wire (s : State) (b w : Nat) (f : Warp → Warp) : (s.updWarp b w f).wire = s.wire := rfl
@[simp] theorem State.updWarp_tick (s : State) (b w : Nat) (f : Warp → Warp) : (s.updWarp b w f).tick = s.tick := rfl
@[simp] theorem State.updWarp_nextId (s : State) (b w : Nat) (f : Warp → Warp) : (s.updWarp b w f).nextId = s.nextId := rfl
@[simp] theorem State.updWarp_cycle (s : State) (b w : Nat) (f : Warp → Warp) : (s.updWarp b w f).cycle = s.cycle := rfl

@[simp] theorem State.updLane_mode (s : State) (b w l : Nat) (f : Lane → Lane) : (s.updLane b w l f).mode = s.mode := rfl
@[simp] theorem State.updLane_mem (s : State) (b w l : Nat) (f : Lane → Lane) : (s.updLane b w l f).mem = s.mem := rfl
@[simp] theorem State.updLane_poison (s : State) (b w l : Nat) (f : Lane → Lane) : (s.updLane b w l f).poison = s.poison := rfl
@[simp] theorem State.updLane_dies (s : State) (b w l : Nat) (f : Lane → Lane) : (s.updLane b w l f).dies = s.dies := rfl
@[simp] theorem State.updLane_clusters (s : State) (b w l : Nat) (f : Lane → Lane) : (s.updLane b w l f).clusters = s.clusters := rfl
@[simp] theorem State.updLane_cores (s : State) (b w l : Nat) (f : Lane → Lane) : (s.updLane b w l f).cores = s.cores := rfl
@[simp] theorem State.updLane_ctxs (s : State) (b w l : Nat) (f : Lane → Lane) : (s.updLane b w l f).ctxs = s.ctxs := rfl
@[simp] theorem State.updLane_launches (s : State) (b w l : Nat) (f : Lane → Lane) : (s.updLane b w l f).launches = s.launches := rfl
@[simp] theorem State.updLane_loads (s : State) (b w l : Nat) (f : Lane → Lane) : (s.updLane b w l f).loads = s.loads := rfl
@[simp] theorem State.updLane_stores (s : State) (b w l : Nat) (f : Lane → Lane) : (s.updLane b w l f).stores = s.stores := rfl
@[simp] theorem State.updLane_atoms (s : State) (b w l : Nat) (f : Lane → Lane) : (s.updLane b w l f).atoms = s.atoms := rfl
@[simp] theorem State.updLane_fences (s : State) (b w l : Nat) (f : Lane → Lane) : (s.updLane b w l f).fences = s.fences := rfl
@[simp] theorem State.updLane_replies (s : State) (b w l : Nat) (f : Lane → Lane) : (s.updLane b w l f).replies = s.replies := rfl
@[simp] theorem State.updLane_hostCopies (s : State) (b w l : Nat) (f : Lane → Lane) : (s.updLane b w l f).hostCopies = s.hostCopies := rfl
@[simp] theorem State.updLane_copies (s : State) (b w l : Nat) (f : Lane → Lane) : (s.updLane b w l f).copies = s.copies := rfl
@[simp] theorem State.updLane_mrt (s : State) (b w l : Nat) (f : Lane → Lane) : (s.updLane b w l f).mrt = s.mrt := rfl
@[simp] theorem State.updLane_jobs (s : State) (b w l : Nat) (f : Lane → Lane) : (s.updLane b w l f).jobs = s.jobs := rfl
@[simp] theorem State.updLane_walks (s : State) (b w l : Nat) (f : Lane → Lane) : (s.updLane b w l f).walks = s.walks := rfl
@[simp] theorem State.updLane_walkReqs (s : State) (b w l : Nat) (f : Lane → Lane) : (s.updLane b w l f).walkReqs = s.walkReqs := rfl
@[simp] theorem State.updLane_appended (s : State) (b w l : Nat) (f : Lane → Lane) : (s.updLane b w l f).appended = s.appended := rfl
@[simp] theorem State.updLane_pageWalks (s : State) (b w l : Nat) (f : Lane → Lane) : (s.updLane b w l f).pageWalks = s.pageWalks := rfl
@[simp] theorem State.updLane_seqOps (s : State) (b w l : Nat) (f : Lane → Lane) : (s.updLane b w l f).seqOps = s.seqOps := rfl
@[simp] theorem State.updLane_binds (s : State) (b w l : Nat) (f : Lane → Lane) : (s.updLane b w l f).binds = s.binds := rfl
@[simp] theorem State.updLane_mapOps (s : State) (b w l : Nat) (f : Lane → Lane) : (s.updLane b w l f).mapOps = s.mapOps := rfl
@[simp] theorem State.updLane_topkOps (s : State) (b w l : Nat) (f : Lane → Lane) : (s.updLane b w l f).topkOps = s.topkOps := rfl
@[simp] theorem State.updLane_ctrOps (s : State) (b w l : Nat) (f : Lane → Lane) : (s.updLane b w l f).ctrOps = s.ctrOps := rfl
@[simp] theorem State.updLane_deqWaits (s : State) (b w l : Nat) (f : Lane → Lane) : (s.updLane b w l f).deqWaits = s.deqWaits := rfl
@[simp] theorem State.updLane_frames (s : State) (b w l : Nat) (f : Lane → Lane) : (s.updLane b w l f).frames = s.frames := rfl
@[simp] theorem State.updLane_puts (s : State) (b w l : Nat) (f : Lane → Lane) : (s.updLane b w l f).puts = s.puts := rfl
@[simp] theorem State.updLane_frameSeq (s : State) (b w l : Nat) (f : Lane → Lane) : (s.updLane b w l f).frameSeq = s.frameSeq := rfl
@[simp] theorem State.updLane_seen (s : State) (b w l : Nat) (f : Lane → Lane) : (s.updLane b w l f).seen = s.seen := rfl
@[simp] theorem State.updLane_answers (s : State) (b w l : Nat) (f : Lane → Lane) : (s.updLane b w l f).answers = s.answers := rfl
@[simp] theorem State.updLane_doorbells (s : State) (b w l : Nat) (f : Lane → Lane) : (s.updLane b w l f).doorbells = s.doorbells := rfl
@[simp] theorem State.updLane_mbox (s : State) (b w l : Nat) (f : Lane → Lane) : (s.updLane b w l f).mbox = s.mbox := rfl
@[simp] theorem State.updLane_pkgId (s : State) (b w l : Nat) (f : Lane → Lane) : (s.updLane b w l f).pkgId = s.pkgId := rfl
@[simp] theorem State.updLane_ports (s : State) (b w l : Nat) (f : Lane → Lane) : (s.updLane b w l f).ports = s.ports := rfl
@[simp] theorem State.updLane_routes (s : State) (b w l : Nat) (f : Lane → Lane) : (s.updLane b w l f).routes = s.routes := rfl
@[simp] theorem State.updLane_stalls (s : State) (b w l : Nat) (f : Lane → Lane) : (s.updLane b w l f).stalls = s.stalls := rfl
@[simp] theorem State.updLane_intrs (s : State) (b w l : Nat) (f : Lane → Lane) : (s.updLane b w l f).intrs = s.intrs := rfl
@[simp] theorem State.updLane_cur (s : State) (b w l : Nat) (f : Lane → Lane) : (s.updLane b w l f).cur = s.cur := rfl
@[simp] theorem State.updLane_inputs (s : State) (b w l : Nat) (f : Lane → Lane) : (s.updLane b w l f).inputs = s.inputs := rfl
@[simp] theorem State.updLane_wire (s : State) (b w l : Nat) (f : Lane → Lane) : (s.updLane b w l f).wire = s.wire := rfl
@[simp] theorem State.updLane_tick (s : State) (b w l : Nat) (f : Lane → Lane) : (s.updLane b w l f).tick = s.tick := rfl
@[simp] theorem State.updLane_nextId (s : State) (b w l : Nat) (f : Lane → Lane) : (s.updLane b w l f).nextId = s.nextId := rfl
@[simp] theorem State.updLane_cycle (s : State) (b w l : Nat) (f : Lane → Lane) : (s.updLane b w l f).cycle = s.cycle := rfl

@[simp] theorem State.trap_mode (s : State) (b : Nat) (t : Trap) (ws : List Nat) : (s.trap b t ws).mode = s.mode := rfl
@[simp] theorem State.trap_mem (s : State) (b : Nat) (t : Trap) (ws : List Nat) : (s.trap b t ws).mem = s.mem := rfl
@[simp] theorem State.trap_poison (s : State) (b : Nat) (t : Trap) (ws : List Nat) : (s.trap b t ws).poison = s.poison := rfl
@[simp] theorem State.trap_dies (s : State) (b : Nat) (t : Trap) (ws : List Nat) : (s.trap b t ws).dies = s.dies := rfl
@[simp] theorem State.trap_clusters (s : State) (b : Nat) (t : Trap) (ws : List Nat) : (s.trap b t ws).clusters = s.clusters := rfl
@[simp] theorem State.trap_cores (s : State) (b : Nat) (t : Trap) (ws : List Nat) : (s.trap b t ws).cores = s.cores := rfl
@[simp] theorem State.trap_ctxs (s : State) (b : Nat) (t : Trap) (ws : List Nat) : (s.trap b t ws).ctxs = s.ctxs := rfl
@[simp] theorem State.trap_launches (s : State) (b : Nat) (t : Trap) (ws : List Nat) : (s.trap b t ws).launches = s.launches := rfl
@[simp] theorem State.trap_loads (s : State) (b : Nat) (t : Trap) (ws : List Nat) : (s.trap b t ws).loads = s.loads := rfl
@[simp] theorem State.trap_stores (s : State) (b : Nat) (t : Trap) (ws : List Nat) : (s.trap b t ws).stores = s.stores := rfl
@[simp] theorem State.trap_atoms (s : State) (b : Nat) (t : Trap) (ws : List Nat) : (s.trap b t ws).atoms = s.atoms := rfl
@[simp] theorem State.trap_fences (s : State) (b : Nat) (t : Trap) (ws : List Nat) : (s.trap b t ws).fences = s.fences := rfl
@[simp] theorem State.trap_replies (s : State) (b : Nat) (t : Trap) (ws : List Nat) : (s.trap b t ws).replies = s.replies := rfl
@[simp] theorem State.trap_hostCopies (s : State) (b : Nat) (t : Trap) (ws : List Nat) : (s.trap b t ws).hostCopies = s.hostCopies := rfl
@[simp] theorem State.trap_copies (s : State) (b : Nat) (t : Trap) (ws : List Nat) : (s.trap b t ws).copies = s.copies := rfl
@[simp] theorem State.trap_mrt (s : State) (b : Nat) (t : Trap) (ws : List Nat) : (s.trap b t ws).mrt = s.mrt := rfl
@[simp] theorem State.trap_jobs (s : State) (b : Nat) (t : Trap) (ws : List Nat) : (s.trap b t ws).jobs = s.jobs := rfl
@[simp] theorem State.trap_walks (s : State) (b : Nat) (t : Trap) (ws : List Nat) : (s.trap b t ws).walks = s.walks := rfl
@[simp] theorem State.trap_walkReqs (s : State) (b : Nat) (t : Trap) (ws : List Nat) : (s.trap b t ws).walkReqs = s.walkReqs := rfl
@[simp] theorem State.trap_appended (s : State) (b : Nat) (t : Trap) (ws : List Nat) : (s.trap b t ws).appended = s.appended := rfl
@[simp] theorem State.trap_pageWalks (s : State) (b : Nat) (t : Trap) (ws : List Nat) : (s.trap b t ws).pageWalks = s.pageWalks := rfl
@[simp] theorem State.trap_seqOps (s : State) (b : Nat) (t : Trap) (ws : List Nat) : (s.trap b t ws).seqOps = s.seqOps := rfl
@[simp] theorem State.trap_binds (s : State) (b : Nat) (t : Trap) (ws : List Nat) : (s.trap b t ws).binds = s.binds := rfl
@[simp] theorem State.trap_mapOps (s : State) (b : Nat) (t : Trap) (ws : List Nat) : (s.trap b t ws).mapOps = s.mapOps := rfl
@[simp] theorem State.trap_topkOps (s : State) (b : Nat) (t : Trap) (ws : List Nat) : (s.trap b t ws).topkOps = s.topkOps := rfl
@[simp] theorem State.trap_ctrOps (s : State) (b : Nat) (t : Trap) (ws : List Nat) : (s.trap b t ws).ctrOps = s.ctrOps := rfl
@[simp] theorem State.trap_deqWaits (s : State) (b : Nat) (t : Trap) (ws : List Nat) : (s.trap b t ws).deqWaits = s.deqWaits := rfl
@[simp] theorem State.trap_frames (s : State) (b : Nat) (t : Trap) (ws : List Nat) : (s.trap b t ws).frames = s.frames := rfl
@[simp] theorem State.trap_puts (s : State) (b : Nat) (t : Trap) (ws : List Nat) : (s.trap b t ws).puts = s.puts := rfl
@[simp] theorem State.trap_frameSeq (s : State) (b : Nat) (t : Trap) (ws : List Nat) : (s.trap b t ws).frameSeq = s.frameSeq := rfl
@[simp] theorem State.trap_seen (s : State) (b : Nat) (t : Trap) (ws : List Nat) : (s.trap b t ws).seen = s.seen := rfl
@[simp] theorem State.trap_answers (s : State) (b : Nat) (t : Trap) (ws : List Nat) : (s.trap b t ws).answers = s.answers := rfl
@[simp] theorem State.trap_doorbells (s : State) (b : Nat) (t : Trap) (ws : List Nat) : (s.trap b t ws).doorbells = s.doorbells := rfl
@[simp] theorem State.trap_mbox (s : State) (b : Nat) (t : Trap) (ws : List Nat) : (s.trap b t ws).mbox = s.mbox := rfl
@[simp] theorem State.trap_pkgId (s : State) (b : Nat) (t : Trap) (ws : List Nat) : (s.trap b t ws).pkgId = s.pkgId := rfl
@[simp] theorem State.trap_ports (s : State) (b : Nat) (t : Trap) (ws : List Nat) : (s.trap b t ws).ports = s.ports := rfl
@[simp] theorem State.trap_routes (s : State) (b : Nat) (t : Trap) (ws : List Nat) : (s.trap b t ws).routes = s.routes := rfl
@[simp] theorem State.trap_stalls (s : State) (b : Nat) (t : Trap) (ws : List Nat) : (s.trap b t ws).stalls = s.stalls := rfl
@[simp] theorem State.trap_intrs (s : State) (b : Nat) (t : Trap) (ws : List Nat) : (s.trap b t ws).intrs = s.intrs := rfl
@[simp] theorem State.trap_cur (s : State) (b : Nat) (t : Trap) (ws : List Nat) : (s.trap b t ws).cur = s.cur := rfl
@[simp] theorem State.trap_inputs (s : State) (b : Nat) (t : Trap) (ws : List Nat) : (s.trap b t ws).inputs = s.inputs := rfl
@[simp] theorem State.trap_wire (s : State) (b : Nat) (t : Trap) (ws : List Nat) : (s.trap b t ws).wire = s.wire := rfl
@[simp] theorem State.trap_tick (s : State) (b : Nat) (t : Trap) (ws : List Nat) : (s.trap b t ws).tick = s.tick := rfl
@[simp] theorem State.trap_nextId (s : State) (b : Nat) (t : Trap) (ws : List Nat) : (s.trap b t ws).nextId = s.nextId := rfl
@[simp] theorem State.trap_cycle (s : State) (b : Nat) (t : Trap) (ws : List Nat) : (s.trap b t ws).cycle = s.cycle := rfl

@[simp] theorem State.updDie_mode (s : State) (d : Nat) (f : Die → Die) : (s.updDie d f).mode = s.mode := rfl
@[simp] theorem State.updDie_mem (s : State) (d : Nat) (f : Die → Die) : (s.updDie d f).mem = s.mem := rfl
@[simp] theorem State.updDie_poison (s : State) (d : Nat) (f : Die → Die) : (s.updDie d f).poison = s.poison := rfl
@[simp] theorem State.updDie_clusters (s : State) (d : Nat) (f : Die → Die) : (s.updDie d f).clusters = s.clusters := rfl
@[simp] theorem State.updDie_cores (s : State) (d : Nat) (f : Die → Die) : (s.updDie d f).cores = s.cores := rfl
@[simp] theorem State.updDie_ctxs (s : State) (d : Nat) (f : Die → Die) : (s.updDie d f).ctxs = s.ctxs := rfl
@[simp] theorem State.updDie_launches (s : State) (d : Nat) (f : Die → Die) : (s.updDie d f).launches = s.launches := rfl
@[simp] theorem State.updDie_blocks (s : State) (d : Nat) (f : Die → Die) : (s.updDie d f).blocks = s.blocks := rfl
@[simp] theorem State.updDie_loads (s : State) (d : Nat) (f : Die → Die) : (s.updDie d f).loads = s.loads := rfl
@[simp] theorem State.updDie_stores (s : State) (d : Nat) (f : Die → Die) : (s.updDie d f).stores = s.stores := rfl
@[simp] theorem State.updDie_atoms (s : State) (d : Nat) (f : Die → Die) : (s.updDie d f).atoms = s.atoms := rfl
@[simp] theorem State.updDie_fences (s : State) (d : Nat) (f : Die → Die) : (s.updDie d f).fences = s.fences := rfl
@[simp] theorem State.updDie_replies (s : State) (d : Nat) (f : Die → Die) : (s.updDie d f).replies = s.replies := rfl
@[simp] theorem State.updDie_hostCopies (s : State) (d : Nat) (f : Die → Die) : (s.updDie d f).hostCopies = s.hostCopies := rfl
@[simp] theorem State.updDie_copies (s : State) (d : Nat) (f : Die → Die) : (s.updDie d f).copies = s.copies := rfl
@[simp] theorem State.updDie_mrt (s : State) (d : Nat) (f : Die → Die) : (s.updDie d f).mrt = s.mrt := rfl
@[simp] theorem State.updDie_jobs (s : State) (d : Nat) (f : Die → Die) : (s.updDie d f).jobs = s.jobs := rfl
@[simp] theorem State.updDie_walks (s : State) (d : Nat) (f : Die → Die) : (s.updDie d f).walks = s.walks := rfl
@[simp] theorem State.updDie_walkReqs (s : State) (d : Nat) (f : Die → Die) : (s.updDie d f).walkReqs = s.walkReqs := rfl
@[simp] theorem State.updDie_appended (s : State) (d : Nat) (f : Die → Die) : (s.updDie d f).appended = s.appended := rfl
@[simp] theorem State.updDie_pageWalks (s : State) (d : Nat) (f : Die → Die) : (s.updDie d f).pageWalks = s.pageWalks := rfl
@[simp] theorem State.updDie_seqOps (s : State) (d : Nat) (f : Die → Die) : (s.updDie d f).seqOps = s.seqOps := rfl
@[simp] theorem State.updDie_binds (s : State) (d : Nat) (f : Die → Die) : (s.updDie d f).binds = s.binds := rfl
@[simp] theorem State.updDie_mapOps (s : State) (d : Nat) (f : Die → Die) : (s.updDie d f).mapOps = s.mapOps := rfl
@[simp] theorem State.updDie_topkOps (s : State) (d : Nat) (f : Die → Die) : (s.updDie d f).topkOps = s.topkOps := rfl
@[simp] theorem State.updDie_ctrOps (s : State) (d : Nat) (f : Die → Die) : (s.updDie d f).ctrOps = s.ctrOps := rfl
@[simp] theorem State.updDie_deqWaits (s : State) (d : Nat) (f : Die → Die) : (s.updDie d f).deqWaits = s.deqWaits := rfl
@[simp] theorem State.updDie_frames (s : State) (d : Nat) (f : Die → Die) : (s.updDie d f).frames = s.frames := rfl
@[simp] theorem State.updDie_puts (s : State) (d : Nat) (f : Die → Die) : (s.updDie d f).puts = s.puts := rfl
@[simp] theorem State.updDie_frameSeq (s : State) (d : Nat) (f : Die → Die) : (s.updDie d f).frameSeq = s.frameSeq := rfl
@[simp] theorem State.updDie_seen (s : State) (d : Nat) (f : Die → Die) : (s.updDie d f).seen = s.seen := rfl
@[simp] theorem State.updDie_answers (s : State) (d : Nat) (f : Die → Die) : (s.updDie d f).answers = s.answers := rfl
@[simp] theorem State.updDie_doorbells (s : State) (d : Nat) (f : Die → Die) : (s.updDie d f).doorbells = s.doorbells := rfl
@[simp] theorem State.updDie_mbox (s : State) (d : Nat) (f : Die → Die) : (s.updDie d f).mbox = s.mbox := rfl
@[simp] theorem State.updDie_pkgId (s : State) (d : Nat) (f : Die → Die) : (s.updDie d f).pkgId = s.pkgId := rfl
@[simp] theorem State.updDie_ports (s : State) (d : Nat) (f : Die → Die) : (s.updDie d f).ports = s.ports := rfl
@[simp] theorem State.updDie_routes (s : State) (d : Nat) (f : Die → Die) : (s.updDie d f).routes = s.routes := rfl
@[simp] theorem State.updDie_stalls (s : State) (d : Nat) (f : Die → Die) : (s.updDie d f).stalls = s.stalls := rfl
@[simp] theorem State.updDie_intrs (s : State) (d : Nat) (f : Die → Die) : (s.updDie d f).intrs = s.intrs := rfl
@[simp] theorem State.updDie_cur (s : State) (d : Nat) (f : Die → Die) : (s.updDie d f).cur = s.cur := rfl
@[simp] theorem State.updDie_inputs (s : State) (d : Nat) (f : Die → Die) : (s.updDie d f).inputs = s.inputs := rfl
@[simp] theorem State.updDie_wire (s : State) (d : Nat) (f : Die → Die) : (s.updDie d f).wire = s.wire := rfl
@[simp] theorem State.updDie_tick (s : State) (d : Nat) (f : Die → Die) : (s.updDie d f).tick = s.tick := rfl
@[simp] theorem State.updDie_nextId (s : State) (d : Nat) (f : Die → Die) : (s.updDie d f).nextId = s.nextId := rfl
@[simp] theorem State.updDie_cycle (s : State) (d : Nat) (f : Die → Die) : (s.updDie d f).cycle = s.cycle := rfl

@[simp] theorem State.updLaunch_mode (s : State) (l : Nat) (f : Launch → Launch) : (s.updLaunch l f).mode = s.mode := rfl
@[simp] theorem State.updLaunch_mem (s : State) (l : Nat) (f : Launch → Launch) : (s.updLaunch l f).mem = s.mem := rfl
@[simp] theorem State.updLaunch_poison (s : State) (l : Nat) (f : Launch → Launch) : (s.updLaunch l f).poison = s.poison := rfl
@[simp] theorem State.updLaunch_dies (s : State) (l : Nat) (f : Launch → Launch) : (s.updLaunch l f).dies = s.dies := rfl
@[simp] theorem State.updLaunch_clusters (s : State) (l : Nat) (f : Launch → Launch) : (s.updLaunch l f).clusters = s.clusters := rfl
@[simp] theorem State.updLaunch_cores (s : State) (l : Nat) (f : Launch → Launch) : (s.updLaunch l f).cores = s.cores := rfl
@[simp] theorem State.updLaunch_ctxs (s : State) (l : Nat) (f : Launch → Launch) : (s.updLaunch l f).ctxs = s.ctxs := rfl
@[simp] theorem State.updLaunch_blocks (s : State) (l : Nat) (f : Launch → Launch) : (s.updLaunch l f).blocks = s.blocks := rfl
@[simp] theorem State.updLaunch_loads (s : State) (l : Nat) (f : Launch → Launch) : (s.updLaunch l f).loads = s.loads := rfl
@[simp] theorem State.updLaunch_stores (s : State) (l : Nat) (f : Launch → Launch) : (s.updLaunch l f).stores = s.stores := rfl
@[simp] theorem State.updLaunch_atoms (s : State) (l : Nat) (f : Launch → Launch) : (s.updLaunch l f).atoms = s.atoms := rfl
@[simp] theorem State.updLaunch_fences (s : State) (l : Nat) (f : Launch → Launch) : (s.updLaunch l f).fences = s.fences := rfl
@[simp] theorem State.updLaunch_replies (s : State) (l : Nat) (f : Launch → Launch) : (s.updLaunch l f).replies = s.replies := rfl
@[simp] theorem State.updLaunch_hostCopies (s : State) (l : Nat) (f : Launch → Launch) : (s.updLaunch l f).hostCopies = s.hostCopies := rfl
@[simp] theorem State.updLaunch_copies (s : State) (l : Nat) (f : Launch → Launch) : (s.updLaunch l f).copies = s.copies := rfl
@[simp] theorem State.updLaunch_mrt (s : State) (l : Nat) (f : Launch → Launch) : (s.updLaunch l f).mrt = s.mrt := rfl
@[simp] theorem State.updLaunch_jobs (s : State) (l : Nat) (f : Launch → Launch) : (s.updLaunch l f).jobs = s.jobs := rfl
@[simp] theorem State.updLaunch_walks (s : State) (l : Nat) (f : Launch → Launch) : (s.updLaunch l f).walks = s.walks := rfl
@[simp] theorem State.updLaunch_walkReqs (s : State) (l : Nat) (f : Launch → Launch) : (s.updLaunch l f).walkReqs = s.walkReqs := rfl
@[simp] theorem State.updLaunch_appended (s : State) (l : Nat) (f : Launch → Launch) : (s.updLaunch l f).appended = s.appended := rfl
@[simp] theorem State.updLaunch_pageWalks (s : State) (l : Nat) (f : Launch → Launch) : (s.updLaunch l f).pageWalks = s.pageWalks := rfl
@[simp] theorem State.updLaunch_seqOps (s : State) (l : Nat) (f : Launch → Launch) : (s.updLaunch l f).seqOps = s.seqOps := rfl
@[simp] theorem State.updLaunch_binds (s : State) (l : Nat) (f : Launch → Launch) : (s.updLaunch l f).binds = s.binds := rfl
@[simp] theorem State.updLaunch_mapOps (s : State) (l : Nat) (f : Launch → Launch) : (s.updLaunch l f).mapOps = s.mapOps := rfl
@[simp] theorem State.updLaunch_topkOps (s : State) (l : Nat) (f : Launch → Launch) : (s.updLaunch l f).topkOps = s.topkOps := rfl
@[simp] theorem State.updLaunch_ctrOps (s : State) (l : Nat) (f : Launch → Launch) : (s.updLaunch l f).ctrOps = s.ctrOps := rfl
@[simp] theorem State.updLaunch_deqWaits (s : State) (l : Nat) (f : Launch → Launch) : (s.updLaunch l f).deqWaits = s.deqWaits := rfl
@[simp] theorem State.updLaunch_frames (s : State) (l : Nat) (f : Launch → Launch) : (s.updLaunch l f).frames = s.frames := rfl
@[simp] theorem State.updLaunch_puts (s : State) (l : Nat) (f : Launch → Launch) : (s.updLaunch l f).puts = s.puts := rfl
@[simp] theorem State.updLaunch_frameSeq (s : State) (l : Nat) (f : Launch → Launch) : (s.updLaunch l f).frameSeq = s.frameSeq := rfl
@[simp] theorem State.updLaunch_seen (s : State) (l : Nat) (f : Launch → Launch) : (s.updLaunch l f).seen = s.seen := rfl
@[simp] theorem State.updLaunch_answers (s : State) (l : Nat) (f : Launch → Launch) : (s.updLaunch l f).answers = s.answers := rfl
@[simp] theorem State.updLaunch_doorbells (s : State) (l : Nat) (f : Launch → Launch) : (s.updLaunch l f).doorbells = s.doorbells := rfl
@[simp] theorem State.updLaunch_mbox (s : State) (l : Nat) (f : Launch → Launch) : (s.updLaunch l f).mbox = s.mbox := rfl
@[simp] theorem State.updLaunch_pkgId (s : State) (l : Nat) (f : Launch → Launch) : (s.updLaunch l f).pkgId = s.pkgId := rfl
@[simp] theorem State.updLaunch_ports (s : State) (l : Nat) (f : Launch → Launch) : (s.updLaunch l f).ports = s.ports := rfl
@[simp] theorem State.updLaunch_routes (s : State) (l : Nat) (f : Launch → Launch) : (s.updLaunch l f).routes = s.routes := rfl
@[simp] theorem State.updLaunch_stalls (s : State) (l : Nat) (f : Launch → Launch) : (s.updLaunch l f).stalls = s.stalls := rfl
@[simp] theorem State.updLaunch_intrs (s : State) (l : Nat) (f : Launch → Launch) : (s.updLaunch l f).intrs = s.intrs := rfl
@[simp] theorem State.updLaunch_cur (s : State) (l : Nat) (f : Launch → Launch) : (s.updLaunch l f).cur = s.cur := rfl
@[simp] theorem State.updLaunch_inputs (s : State) (l : Nat) (f : Launch → Launch) : (s.updLaunch l f).inputs = s.inputs := rfl
@[simp] theorem State.updLaunch_wire (s : State) (l : Nat) (f : Launch → Launch) : (s.updLaunch l f).wire = s.wire := rfl
@[simp] theorem State.updLaunch_tick (s : State) (l : Nat) (f : Launch → Launch) : (s.updLaunch l f).tick = s.tick := rfl
@[simp] theorem State.updLaunch_nextId (s : State) (l : Nat) (f : Launch → Launch) : (s.updLaunch l f).nextId = s.nextId := rfl
@[simp] theorem State.updLaunch_cycle (s : State) (l : Nat) (f : Launch → Launch) : (s.updLaunch l f).cycle = s.cycle := rfl

@[simp] theorem State.updCtx_mode (s : State) (c : Nat) (f : Ctx → Ctx) : (s.updCtx c f).mode = s.mode := rfl
@[simp] theorem State.updCtx_mem (s : State) (c : Nat) (f : Ctx → Ctx) : (s.updCtx c f).mem = s.mem := rfl
@[simp] theorem State.updCtx_poison (s : State) (c : Nat) (f : Ctx → Ctx) : (s.updCtx c f).poison = s.poison := rfl
@[simp] theorem State.updCtx_dies (s : State) (c : Nat) (f : Ctx → Ctx) : (s.updCtx c f).dies = s.dies := rfl
@[simp] theorem State.updCtx_clusters (s : State) (c : Nat) (f : Ctx → Ctx) : (s.updCtx c f).clusters = s.clusters := rfl
@[simp] theorem State.updCtx_cores (s : State) (c : Nat) (f : Ctx → Ctx) : (s.updCtx c f).cores = s.cores := rfl
@[simp] theorem State.updCtx_launches (s : State) (c : Nat) (f : Ctx → Ctx) : (s.updCtx c f).launches = s.launches := rfl
@[simp] theorem State.updCtx_blocks (s : State) (c : Nat) (f : Ctx → Ctx) : (s.updCtx c f).blocks = s.blocks := rfl
@[simp] theorem State.updCtx_loads (s : State) (c : Nat) (f : Ctx → Ctx) : (s.updCtx c f).loads = s.loads := rfl
@[simp] theorem State.updCtx_stores (s : State) (c : Nat) (f : Ctx → Ctx) : (s.updCtx c f).stores = s.stores := rfl
@[simp] theorem State.updCtx_atoms (s : State) (c : Nat) (f : Ctx → Ctx) : (s.updCtx c f).atoms = s.atoms := rfl
@[simp] theorem State.updCtx_fences (s : State) (c : Nat) (f : Ctx → Ctx) : (s.updCtx c f).fences = s.fences := rfl
@[simp] theorem State.updCtx_replies (s : State) (c : Nat) (f : Ctx → Ctx) : (s.updCtx c f).replies = s.replies := rfl
@[simp] theorem State.updCtx_hostCopies (s : State) (c : Nat) (f : Ctx → Ctx) : (s.updCtx c f).hostCopies = s.hostCopies := rfl
@[simp] theorem State.updCtx_copies (s : State) (c : Nat) (f : Ctx → Ctx) : (s.updCtx c f).copies = s.copies := rfl
@[simp] theorem State.updCtx_mrt (s : State) (c : Nat) (f : Ctx → Ctx) : (s.updCtx c f).mrt = s.mrt := rfl
@[simp] theorem State.updCtx_jobs (s : State) (c : Nat) (f : Ctx → Ctx) : (s.updCtx c f).jobs = s.jobs := rfl
@[simp] theorem State.updCtx_walks (s : State) (c : Nat) (f : Ctx → Ctx) : (s.updCtx c f).walks = s.walks := rfl
@[simp] theorem State.updCtx_walkReqs (s : State) (c : Nat) (f : Ctx → Ctx) : (s.updCtx c f).walkReqs = s.walkReqs := rfl
@[simp] theorem State.updCtx_appended (s : State) (c : Nat) (f : Ctx → Ctx) : (s.updCtx c f).appended = s.appended := rfl
@[simp] theorem State.updCtx_pageWalks (s : State) (c : Nat) (f : Ctx → Ctx) : (s.updCtx c f).pageWalks = s.pageWalks := rfl
@[simp] theorem State.updCtx_seqOps (s : State) (c : Nat) (f : Ctx → Ctx) : (s.updCtx c f).seqOps = s.seqOps := rfl
@[simp] theorem State.updCtx_binds (s : State) (c : Nat) (f : Ctx → Ctx) : (s.updCtx c f).binds = s.binds := rfl
@[simp] theorem State.updCtx_mapOps (s : State) (c : Nat) (f : Ctx → Ctx) : (s.updCtx c f).mapOps = s.mapOps := rfl
@[simp] theorem State.updCtx_topkOps (s : State) (c : Nat) (f : Ctx → Ctx) : (s.updCtx c f).topkOps = s.topkOps := rfl
@[simp] theorem State.updCtx_ctrOps (s : State) (c : Nat) (f : Ctx → Ctx) : (s.updCtx c f).ctrOps = s.ctrOps := rfl
@[simp] theorem State.updCtx_deqWaits (s : State) (c : Nat) (f : Ctx → Ctx) : (s.updCtx c f).deqWaits = s.deqWaits := rfl
@[simp] theorem State.updCtx_frames (s : State) (c : Nat) (f : Ctx → Ctx) : (s.updCtx c f).frames = s.frames := rfl
@[simp] theorem State.updCtx_puts (s : State) (c : Nat) (f : Ctx → Ctx) : (s.updCtx c f).puts = s.puts := rfl
@[simp] theorem State.updCtx_frameSeq (s : State) (c : Nat) (f : Ctx → Ctx) : (s.updCtx c f).frameSeq = s.frameSeq := rfl
@[simp] theorem State.updCtx_seen (s : State) (c : Nat) (f : Ctx → Ctx) : (s.updCtx c f).seen = s.seen := rfl
@[simp] theorem State.updCtx_answers (s : State) (c : Nat) (f : Ctx → Ctx) : (s.updCtx c f).answers = s.answers := rfl
@[simp] theorem State.updCtx_doorbells (s : State) (c : Nat) (f : Ctx → Ctx) : (s.updCtx c f).doorbells = s.doorbells := rfl
@[simp] theorem State.updCtx_mbox (s : State) (c : Nat) (f : Ctx → Ctx) : (s.updCtx c f).mbox = s.mbox := rfl
@[simp] theorem State.updCtx_pkgId (s : State) (c : Nat) (f : Ctx → Ctx) : (s.updCtx c f).pkgId = s.pkgId := rfl
@[simp] theorem State.updCtx_ports (s : State) (c : Nat) (f : Ctx → Ctx) : (s.updCtx c f).ports = s.ports := rfl
@[simp] theorem State.updCtx_routes (s : State) (c : Nat) (f : Ctx → Ctx) : (s.updCtx c f).routes = s.routes := rfl
@[simp] theorem State.updCtx_stalls (s : State) (c : Nat) (f : Ctx → Ctx) : (s.updCtx c f).stalls = s.stalls := rfl
@[simp] theorem State.updCtx_intrs (s : State) (c : Nat) (f : Ctx → Ctx) : (s.updCtx c f).intrs = s.intrs := rfl
@[simp] theorem State.updCtx_cur (s : State) (c : Nat) (f : Ctx → Ctx) : (s.updCtx c f).cur = s.cur := rfl
@[simp] theorem State.updCtx_inputs (s : State) (c : Nat) (f : Ctx → Ctx) : (s.updCtx c f).inputs = s.inputs := rfl
@[simp] theorem State.updCtx_wire (s : State) (c : Nat) (f : Ctx → Ctx) : (s.updCtx c f).wire = s.wire := rfl
@[simp] theorem State.updCtx_tick (s : State) (c : Nat) (f : Ctx → Ctx) : (s.updCtx c f).tick = s.tick := rfl
@[simp] theorem State.updCtx_nextId (s : State) (c : Nat) (f : Ctx → Ctx) : (s.updCtx c f).nextId = s.nextId := rfl
@[simp] theorem State.updCtx_cycle (s : State) (c : Nat) (f : Ctx → Ctx) : (s.updCtx c f).cycle = s.cycle := rfl

@[simp] theorem State.updCore_mode (s : State) (n : Nat) (f : Core → Core) : (s.updCore n f).mode = s.mode := rfl
@[simp] theorem State.updCore_mem (s : State) (n : Nat) (f : Core → Core) : (s.updCore n f).mem = s.mem := rfl
@[simp] theorem State.updCore_poison (s : State) (n : Nat) (f : Core → Core) : (s.updCore n f).poison = s.poison := rfl
@[simp] theorem State.updCore_dies (s : State) (n : Nat) (f : Core → Core) : (s.updCore n f).dies = s.dies := rfl
@[simp] theorem State.updCore_clusters (s : State) (n : Nat) (f : Core → Core) : (s.updCore n f).clusters = s.clusters := rfl
@[simp] theorem State.updCore_ctxs (s : State) (n : Nat) (f : Core → Core) : (s.updCore n f).ctxs = s.ctxs := rfl
@[simp] theorem State.updCore_launches (s : State) (n : Nat) (f : Core → Core) : (s.updCore n f).launches = s.launches := rfl
@[simp] theorem State.updCore_blocks (s : State) (n : Nat) (f : Core → Core) : (s.updCore n f).blocks = s.blocks := rfl
@[simp] theorem State.updCore_loads (s : State) (n : Nat) (f : Core → Core) : (s.updCore n f).loads = s.loads := rfl
@[simp] theorem State.updCore_stores (s : State) (n : Nat) (f : Core → Core) : (s.updCore n f).stores = s.stores := rfl
@[simp] theorem State.updCore_atoms (s : State) (n : Nat) (f : Core → Core) : (s.updCore n f).atoms = s.atoms := rfl
@[simp] theorem State.updCore_fences (s : State) (n : Nat) (f : Core → Core) : (s.updCore n f).fences = s.fences := rfl
@[simp] theorem State.updCore_replies (s : State) (n : Nat) (f : Core → Core) : (s.updCore n f).replies = s.replies := rfl
@[simp] theorem State.updCore_hostCopies (s : State) (n : Nat) (f : Core → Core) : (s.updCore n f).hostCopies = s.hostCopies := rfl
@[simp] theorem State.updCore_copies (s : State) (n : Nat) (f : Core → Core) : (s.updCore n f).copies = s.copies := rfl
@[simp] theorem State.updCore_mrt (s : State) (n : Nat) (f : Core → Core) : (s.updCore n f).mrt = s.mrt := rfl
@[simp] theorem State.updCore_jobs (s : State) (n : Nat) (f : Core → Core) : (s.updCore n f).jobs = s.jobs := rfl
@[simp] theorem State.updCore_walks (s : State) (n : Nat) (f : Core → Core) : (s.updCore n f).walks = s.walks := rfl
@[simp] theorem State.updCore_walkReqs (s : State) (n : Nat) (f : Core → Core) : (s.updCore n f).walkReqs = s.walkReqs := rfl
@[simp] theorem State.updCore_appended (s : State) (n : Nat) (f : Core → Core) : (s.updCore n f).appended = s.appended := rfl
@[simp] theorem State.updCore_pageWalks (s : State) (n : Nat) (f : Core → Core) : (s.updCore n f).pageWalks = s.pageWalks := rfl
@[simp] theorem State.updCore_seqOps (s : State) (n : Nat) (f : Core → Core) : (s.updCore n f).seqOps = s.seqOps := rfl
@[simp] theorem State.updCore_binds (s : State) (n : Nat) (f : Core → Core) : (s.updCore n f).binds = s.binds := rfl
@[simp] theorem State.updCore_mapOps (s : State) (n : Nat) (f : Core → Core) : (s.updCore n f).mapOps = s.mapOps := rfl
@[simp] theorem State.updCore_topkOps (s : State) (n : Nat) (f : Core → Core) : (s.updCore n f).topkOps = s.topkOps := rfl
@[simp] theorem State.updCore_ctrOps (s : State) (n : Nat) (f : Core → Core) : (s.updCore n f).ctrOps = s.ctrOps := rfl
@[simp] theorem State.updCore_deqWaits (s : State) (n : Nat) (f : Core → Core) : (s.updCore n f).deqWaits = s.deqWaits := rfl
@[simp] theorem State.updCore_frames (s : State) (n : Nat) (f : Core → Core) : (s.updCore n f).frames = s.frames := rfl
@[simp] theorem State.updCore_puts (s : State) (n : Nat) (f : Core → Core) : (s.updCore n f).puts = s.puts := rfl
@[simp] theorem State.updCore_frameSeq (s : State) (n : Nat) (f : Core → Core) : (s.updCore n f).frameSeq = s.frameSeq := rfl
@[simp] theorem State.updCore_seen (s : State) (n : Nat) (f : Core → Core) : (s.updCore n f).seen = s.seen := rfl
@[simp] theorem State.updCore_answers (s : State) (n : Nat) (f : Core → Core) : (s.updCore n f).answers = s.answers := rfl
@[simp] theorem State.updCore_doorbells (s : State) (n : Nat) (f : Core → Core) : (s.updCore n f).doorbells = s.doorbells := rfl
@[simp] theorem State.updCore_mbox (s : State) (n : Nat) (f : Core → Core) : (s.updCore n f).mbox = s.mbox := rfl
@[simp] theorem State.updCore_pkgId (s : State) (n : Nat) (f : Core → Core) : (s.updCore n f).pkgId = s.pkgId := rfl
@[simp] theorem State.updCore_ports (s : State) (n : Nat) (f : Core → Core) : (s.updCore n f).ports = s.ports := rfl
@[simp] theorem State.updCore_routes (s : State) (n : Nat) (f : Core → Core) : (s.updCore n f).routes = s.routes := rfl
@[simp] theorem State.updCore_stalls (s : State) (n : Nat) (f : Core → Core) : (s.updCore n f).stalls = s.stalls := rfl
@[simp] theorem State.updCore_intrs (s : State) (n : Nat) (f : Core → Core) : (s.updCore n f).intrs = s.intrs := rfl
@[simp] theorem State.updCore_cur (s : State) (n : Nat) (f : Core → Core) : (s.updCore n f).cur = s.cur := rfl
@[simp] theorem State.updCore_inputs (s : State) (n : Nat) (f : Core → Core) : (s.updCore n f).inputs = s.inputs := rfl
@[simp] theorem State.updCore_wire (s : State) (n : Nat) (f : Core → Core) : (s.updCore n f).wire = s.wire := rfl
@[simp] theorem State.updCore_tick (s : State) (n : Nat) (f : Core → Core) : (s.updCore n f).tick = s.tick := rfl
@[simp] theorem State.updCore_nextId (s : State) (n : Nat) (f : Core → Core) : (s.updCore n f).nextId = s.nextId := rfl
@[simp] theorem State.updCore_cycle (s : State) (n : Nat) (f : Core → Core) : (s.updCore n f).cycle = s.cycle := rfl

@[simp] theorem State.updCluster_mode (s : State) (n : Nat) (f : Cluster → Cluster) : (s.updCluster n f).mode = s.mode := rfl
@[simp] theorem State.updCluster_mem (s : State) (n : Nat) (f : Cluster → Cluster) : (s.updCluster n f).mem = s.mem := rfl
@[simp] theorem State.updCluster_poison (s : State) (n : Nat) (f : Cluster → Cluster) : (s.updCluster n f).poison = s.poison := rfl
@[simp] theorem State.updCluster_dies (s : State) (n : Nat) (f : Cluster → Cluster) : (s.updCluster n f).dies = s.dies := rfl
@[simp] theorem State.updCluster_cores (s : State) (n : Nat) (f : Cluster → Cluster) : (s.updCluster n f).cores = s.cores := rfl
@[simp] theorem State.updCluster_ctxs (s : State) (n : Nat) (f : Cluster → Cluster) : (s.updCluster n f).ctxs = s.ctxs := rfl
@[simp] theorem State.updCluster_launches (s : State) (n : Nat) (f : Cluster → Cluster) : (s.updCluster n f).launches = s.launches := rfl
@[simp] theorem State.updCluster_blocks (s : State) (n : Nat) (f : Cluster → Cluster) : (s.updCluster n f).blocks = s.blocks := rfl
@[simp] theorem State.updCluster_loads (s : State) (n : Nat) (f : Cluster → Cluster) : (s.updCluster n f).loads = s.loads := rfl
@[simp] theorem State.updCluster_stores (s : State) (n : Nat) (f : Cluster → Cluster) : (s.updCluster n f).stores = s.stores := rfl
@[simp] theorem State.updCluster_atoms (s : State) (n : Nat) (f : Cluster → Cluster) : (s.updCluster n f).atoms = s.atoms := rfl
@[simp] theorem State.updCluster_fences (s : State) (n : Nat) (f : Cluster → Cluster) : (s.updCluster n f).fences = s.fences := rfl
@[simp] theorem State.updCluster_replies (s : State) (n : Nat) (f : Cluster → Cluster) : (s.updCluster n f).replies = s.replies := rfl
@[simp] theorem State.updCluster_hostCopies (s : State) (n : Nat) (f : Cluster → Cluster) : (s.updCluster n f).hostCopies = s.hostCopies := rfl
@[simp] theorem State.updCluster_copies (s : State) (n : Nat) (f : Cluster → Cluster) : (s.updCluster n f).copies = s.copies := rfl
@[simp] theorem State.updCluster_mrt (s : State) (n : Nat) (f : Cluster → Cluster) : (s.updCluster n f).mrt = s.mrt := rfl
@[simp] theorem State.updCluster_jobs (s : State) (n : Nat) (f : Cluster → Cluster) : (s.updCluster n f).jobs = s.jobs := rfl
@[simp] theorem State.updCluster_walks (s : State) (n : Nat) (f : Cluster → Cluster) : (s.updCluster n f).walks = s.walks := rfl
@[simp] theorem State.updCluster_walkReqs (s : State) (n : Nat) (f : Cluster → Cluster) : (s.updCluster n f).walkReqs = s.walkReqs := rfl
@[simp] theorem State.updCluster_appended (s : State) (n : Nat) (f : Cluster → Cluster) : (s.updCluster n f).appended = s.appended := rfl
@[simp] theorem State.updCluster_pageWalks (s : State) (n : Nat) (f : Cluster → Cluster) : (s.updCluster n f).pageWalks = s.pageWalks := rfl
@[simp] theorem State.updCluster_seqOps (s : State) (n : Nat) (f : Cluster → Cluster) : (s.updCluster n f).seqOps = s.seqOps := rfl
@[simp] theorem State.updCluster_binds (s : State) (n : Nat) (f : Cluster → Cluster) : (s.updCluster n f).binds = s.binds := rfl
@[simp] theorem State.updCluster_mapOps (s : State) (n : Nat) (f : Cluster → Cluster) : (s.updCluster n f).mapOps = s.mapOps := rfl
@[simp] theorem State.updCluster_topkOps (s : State) (n : Nat) (f : Cluster → Cluster) : (s.updCluster n f).topkOps = s.topkOps := rfl
@[simp] theorem State.updCluster_ctrOps (s : State) (n : Nat) (f : Cluster → Cluster) : (s.updCluster n f).ctrOps = s.ctrOps := rfl
@[simp] theorem State.updCluster_deqWaits (s : State) (n : Nat) (f : Cluster → Cluster) : (s.updCluster n f).deqWaits = s.deqWaits := rfl
@[simp] theorem State.updCluster_frames (s : State) (n : Nat) (f : Cluster → Cluster) : (s.updCluster n f).frames = s.frames := rfl
@[simp] theorem State.updCluster_puts (s : State) (n : Nat) (f : Cluster → Cluster) : (s.updCluster n f).puts = s.puts := rfl
@[simp] theorem State.updCluster_frameSeq (s : State) (n : Nat) (f : Cluster → Cluster) : (s.updCluster n f).frameSeq = s.frameSeq := rfl
@[simp] theorem State.updCluster_seen (s : State) (n : Nat) (f : Cluster → Cluster) : (s.updCluster n f).seen = s.seen := rfl
@[simp] theorem State.updCluster_answers (s : State) (n : Nat) (f : Cluster → Cluster) : (s.updCluster n f).answers = s.answers := rfl
@[simp] theorem State.updCluster_doorbells (s : State) (n : Nat) (f : Cluster → Cluster) : (s.updCluster n f).doorbells = s.doorbells := rfl
@[simp] theorem State.updCluster_mbox (s : State) (n : Nat) (f : Cluster → Cluster) : (s.updCluster n f).mbox = s.mbox := rfl
@[simp] theorem State.updCluster_pkgId (s : State) (n : Nat) (f : Cluster → Cluster) : (s.updCluster n f).pkgId = s.pkgId := rfl
@[simp] theorem State.updCluster_ports (s : State) (n : Nat) (f : Cluster → Cluster) : (s.updCluster n f).ports = s.ports := rfl
@[simp] theorem State.updCluster_routes (s : State) (n : Nat) (f : Cluster → Cluster) : (s.updCluster n f).routes = s.routes := rfl
@[simp] theorem State.updCluster_stalls (s : State) (n : Nat) (f : Cluster → Cluster) : (s.updCluster n f).stalls = s.stalls := rfl
@[simp] theorem State.updCluster_intrs (s : State) (n : Nat) (f : Cluster → Cluster) : (s.updCluster n f).intrs = s.intrs := rfl
@[simp] theorem State.updCluster_cur (s : State) (n : Nat) (f : Cluster → Cluster) : (s.updCluster n f).cur = s.cur := rfl
@[simp] theorem State.updCluster_inputs (s : State) (n : Nat) (f : Cluster → Cluster) : (s.updCluster n f).inputs = s.inputs := rfl
@[simp] theorem State.updCluster_wire (s : State) (n : Nat) (f : Cluster → Cluster) : (s.updCluster n f).wire = s.wire := rfl
@[simp] theorem State.updCluster_tick (s : State) (n : Nat) (f : Cluster → Cluster) : (s.updCluster n f).tick = s.tick := rfl
@[simp] theorem State.updCluster_nextId (s : State) (n : Nat) (f : Cluster → Cluster) : (s.updCluster n f).nextId = s.nextId := rfl
@[simp] theorem State.updCluster_cycle (s : State) (n : Nat) (f : Cluster → Cluster) : (s.updCluster n f).cycle = s.cycle := rfl

@[simp] theorem State.writePa_mode (s : State) (pa : Nat) (bs : List Byte) : (s.writePa pa bs).mode = s.mode := rfl
@[simp] theorem State.writePa_dies (s : State) (pa : Nat) (bs : List Byte) : (s.writePa pa bs).dies = s.dies := rfl
@[simp] theorem State.writePa_clusters (s : State) (pa : Nat) (bs : List Byte) : (s.writePa pa bs).clusters = s.clusters := rfl
@[simp] theorem State.writePa_cores (s : State) (pa : Nat) (bs : List Byte) : (s.writePa pa bs).cores = s.cores := rfl
@[simp] theorem State.writePa_ctxs (s : State) (pa : Nat) (bs : List Byte) : (s.writePa pa bs).ctxs = s.ctxs := rfl
@[simp] theorem State.writePa_launches (s : State) (pa : Nat) (bs : List Byte) : (s.writePa pa bs).launches = s.launches := rfl
@[simp] theorem State.writePa_blocks (s : State) (pa : Nat) (bs : List Byte) : (s.writePa pa bs).blocks = s.blocks := rfl
@[simp] theorem State.writePa_loads (s : State) (pa : Nat) (bs : List Byte) : (s.writePa pa bs).loads = s.loads := rfl
@[simp] theorem State.writePa_stores (s : State) (pa : Nat) (bs : List Byte) : (s.writePa pa bs).stores = s.stores := rfl
@[simp] theorem State.writePa_fences (s : State) (pa : Nat) (bs : List Byte) : (s.writePa pa bs).fences = s.fences := rfl
@[simp] theorem State.writePa_replies (s : State) (pa : Nat) (bs : List Byte) : (s.writePa pa bs).replies = s.replies := rfl
@[simp] theorem State.writePa_hostCopies (s : State) (pa : Nat) (bs : List Byte) : (s.writePa pa bs).hostCopies = s.hostCopies := rfl
@[simp] theorem State.writePa_copies (s : State) (pa : Nat) (bs : List Byte) : (s.writePa pa bs).copies = s.copies := rfl
@[simp] theorem State.writePa_mrt (s : State) (pa : Nat) (bs : List Byte) : (s.writePa pa bs).mrt = s.mrt := rfl
@[simp] theorem State.writePa_jobs (s : State) (pa : Nat) (bs : List Byte) : (s.writePa pa bs).jobs = s.jobs := rfl
@[simp] theorem State.writePa_walks (s : State) (pa : Nat) (bs : List Byte) : (s.writePa pa bs).walks = s.walks := rfl
@[simp] theorem State.writePa_walkReqs (s : State) (pa : Nat) (bs : List Byte) : (s.writePa pa bs).walkReqs = s.walkReqs := rfl
@[simp] theorem State.writePa_appended (s : State) (pa : Nat) (bs : List Byte) : (s.writePa pa bs).appended = s.appended := rfl
@[simp] theorem State.writePa_pageWalks (s : State) (pa : Nat) (bs : List Byte) : (s.writePa pa bs).pageWalks = s.pageWalks := rfl
@[simp] theorem State.writePa_seqOps (s : State) (pa : Nat) (bs : List Byte) : (s.writePa pa bs).seqOps = s.seqOps := rfl
@[simp] theorem State.writePa_binds (s : State) (pa : Nat) (bs : List Byte) : (s.writePa pa bs).binds = s.binds := rfl
@[simp] theorem State.writePa_mapOps (s : State) (pa : Nat) (bs : List Byte) : (s.writePa pa bs).mapOps = s.mapOps := rfl
@[simp] theorem State.writePa_topkOps (s : State) (pa : Nat) (bs : List Byte) : (s.writePa pa bs).topkOps = s.topkOps := rfl
@[simp] theorem State.writePa_ctrOps (s : State) (pa : Nat) (bs : List Byte) : (s.writePa pa bs).ctrOps = s.ctrOps := rfl
@[simp] theorem State.writePa_deqWaits (s : State) (pa : Nat) (bs : List Byte) : (s.writePa pa bs).deqWaits = s.deqWaits := rfl
@[simp] theorem State.writePa_frames (s : State) (pa : Nat) (bs : List Byte) : (s.writePa pa bs).frames = s.frames := rfl
@[simp] theorem State.writePa_puts (s : State) (pa : Nat) (bs : List Byte) : (s.writePa pa bs).puts = s.puts := rfl
@[simp] theorem State.writePa_frameSeq (s : State) (pa : Nat) (bs : List Byte) : (s.writePa pa bs).frameSeq = s.frameSeq := rfl
@[simp] theorem State.writePa_seen (s : State) (pa : Nat) (bs : List Byte) : (s.writePa pa bs).seen = s.seen := rfl
@[simp] theorem State.writePa_answers (s : State) (pa : Nat) (bs : List Byte) : (s.writePa pa bs).answers = s.answers := rfl
@[simp] theorem State.writePa_doorbells (s : State) (pa : Nat) (bs : List Byte) : (s.writePa pa bs).doorbells = s.doorbells := rfl
@[simp] theorem State.writePa_mbox (s : State) (pa : Nat) (bs : List Byte) : (s.writePa pa bs).mbox = s.mbox := rfl
@[simp] theorem State.writePa_pkgId (s : State) (pa : Nat) (bs : List Byte) : (s.writePa pa bs).pkgId = s.pkgId := rfl
@[simp] theorem State.writePa_ports (s : State) (pa : Nat) (bs : List Byte) : (s.writePa pa bs).ports = s.ports := rfl
@[simp] theorem State.writePa_routes (s : State) (pa : Nat) (bs : List Byte) : (s.writePa pa bs).routes = s.routes := rfl
@[simp] theorem State.writePa_stalls (s : State) (pa : Nat) (bs : List Byte) : (s.writePa pa bs).stalls = s.stalls := rfl
@[simp] theorem State.writePa_intrs (s : State) (pa : Nat) (bs : List Byte) : (s.writePa pa bs).intrs = s.intrs := rfl
@[simp] theorem State.writePa_cur (s : State) (pa : Nat) (bs : List Byte) : (s.writePa pa bs).cur = s.cur := rfl
@[simp] theorem State.writePa_inputs (s : State) (pa : Nat) (bs : List Byte) : (s.writePa pa bs).inputs = s.inputs := rfl
@[simp] theorem State.writePa_wire (s : State) (pa : Nat) (bs : List Byte) : (s.writePa pa bs).wire = s.wire := rfl
@[simp] theorem State.writePa_tick (s : State) (pa : Nat) (bs : List Byte) : (s.writePa pa bs).tick = s.tick := rfl
@[simp] theorem State.writePa_nextId (s : State) (pa : Nat) (bs : List Byte) : (s.writePa pa bs).nextId = s.nextId := rfl
@[simp] theorem State.writePa_cycle (s : State) (pa : Nat) (bs : List Byte) : (s.writePa pa bs).cycle = s.cycle := rfl

/-! ### What is read after an update -/

/-- An element of a list after one of its elements has been changed. -/
theorem getD_modify {α : Type} (l : List α) (i j : Nat) (f : α → α) (d : α) :
    (l.modify i f).getD j d = if i = j ∧ j < l.length then f (l.getD j d) else l.getD j d := by
  simp only [List.getD_eq_getElem?_getD, List.getElem?_modify]
  by_cases hj : j < l.length
  · by_cases hi : i = j <;> simp [hi, hj]
  · simp [hj]

@[simp] theorem State.blocks_length_updBlk (s : State) (b : Nat) (f : Block → Block) :
    (s.updBlk b f).blocks.length = s.blocks.length := by simp [State.updBlk]

theorem State.blk_updBlk (s : State) (b c : Nat) (f : Block → Block) :
    (s.updBlk b f).blk c = if b = c ∧ c < s.blocks.length then f (s.blk c) else s.blk c :=
  getD_modify s.blocks b c f default

@[simp] theorem State.blk_updBlk_same (s : State) (b : Nat) (f : Block → Block) (h : b < s.blocks.length) :
    (s.updBlk b f).blk b = f (s.blk b) := by simp [State.blk_updBlk, h]

theorem State.blk_updBlk_ne (s : State) (b c : Nat) (f : Block → Block) (h : b ≠ c) :
    (s.updBlk b f).blk c = s.blk c := by simp [State.blk_updBlk, h]

theorem Block.warp_updWarp (B : Block) (w v : Nat) (f : Warp → Warp) :
    (B.updWarp w f).warp v = if w = v ∧ v < B.warps.length then f (B.warp v) else B.warp v :=
  getD_modify B.warps w v f default

theorem Warp.lane_updLane (W : Warp) (l k : Nat) (f : Lane → Lane) :
    (W.updLane l f).lane k = if l = k ∧ k < W.lanes.length then f (W.lane k) else W.lane k :=
  getD_modify W.lanes l k f default

/-- A lane after the lanes of a mask have been changed. -/
theorem Warp.lane_mapLanes (W : Warp) (m : Word) (f : Nat → Lane → Lane) (l : Nat) :
    (W.mapLanes m f).lane l = if m.getLsbD l = true ∧ l < W.lanes.length then f l (W.lane l) else W.lane l := by
  simp only [Warp.mapLanes, Warp.lane, List.getD_eq_getElem?_getD, List.getElem?_mapIdx]
  by_cases hl : l < W.lanes.length
  · by_cases hm : m.getLsbD l = true <;> simp [hl, hm]
  · simp [hl]

theorem State.warp_updWarp_same (s : State) (b w : Nat) (f : Warp → Warp) (hb : b < s.blocks.length)
    (hw : w < (s.blk b).warps.length) : (s.updWarp b w f).warp b w = f (s.warp b w) := by
  simp [State.updWarp, State.warp, hb, Block.warp_updWarp, hw]

theorem State.lane_updLane_same (s : State) (b w l : Nat) (f : Lane → Lane) (hb : b < s.blocks.length)
    (hw : w < (s.blk b).warps.length) (hl : l < (s.warp b w).lanes.length) :
    (s.updLane b w l f).lane b w l = f (s.lane b w l) := by
  simp [State.updLane, State.lane, State.warp_updWarp_same s b w _ hb hw, Warp.lane_updLane, hl]

theorem State.die_updDie_same (s : State) (d : Nat) (f : Die → Die) (h : d < s.dies.length) :
    (s.updDie d f).die d = f (s.die d) := by
  exact (getD_modify s.dies d d f default).trans (if_pos ⟨rfl, h⟩)

theorem State.launch_updLaunch_same (s : State) (l : Nat) (f : Launch → Launch) (h : l < s.launches.length) :
    (s.updLaunch l f).launch l = f (s.launch l) := by
  exact (getD_modify s.launches l l f default).trans (if_pos ⟨rfl, h⟩)

theorem State.core_updCore_same (s : State) (n : Nat) (f : Core → Core) (h : n < s.cores.length) :
    (s.updCore n f).core n = f (s.core n) := by
  exact (getD_modify s.cores n n f default).trans (if_pos ⟨rfl, h⟩)

theorem State.cluster_updCluster_same (s : State) (n : Nat) (f : Cluster → Cluster) (h : n < s.clusters.length) :
    (s.updCluster n f).cluster n = f (s.cluster n) := by
  exact (getD_modify s.clusters n n f default).trans (if_pos ⟨rfl, h⟩)

/-- A context after an update of it that keeps its number. -/
theorem State.ctx?_updCtx_same (s : State) (c : Nat) (f : Ctx → Ctx) (hf : ∀ x, (f x).id = x.id) :
    (s.updCtx c f).ctx? c = (s.ctx? c).map f := by
  simp only [State.ctx?, State.updCtx]
  induction s.ctxs with
  | nil => rfl
  | cons x t ih =>
    by_cases hx : x.id = c
    · simp [hx, hf]
    · simpa [hx] using ih

/-! ### Registers -/

theorem Lane.reg_setRegs_one (l : Lane) (n k : Nat) (x : Word) (hn : n < l.v.length) :
    (l.setRegs n [x]).reg k = if k = n then x else l.reg k := by
  simp only [Lane.setRegs, Lane.reg, List.getD_eq_getElem?_getD]
  by_cases hk : k = n
  · subst hk; simp [hn]
  · simp [hk, List.getElem?_set_ne (Ne.symm hk)]

@[simp] theorem Lane.setRegs_nil (l : Lane) (n : Nat) : l.setRegs n [] = l := rfl

theorem Lane.setRegs_frame (xs : List Word) (l : Lane) (n : Nat) :
    (l.setRegs n xs).pc = l.pc ∧ (l.setRegs n xs).run = l.run ∧ (l.setRegs n xs).status = l.status ∧
      (l.setRegs n xs).preds = l.preds ∧ (l.setRegs n xs).v.length = l.v.length := by
  induction xs generalizing l n with
  | nil => exact ⟨rfl, rfl, rfl, rfl, rfl⟩
  | cons x xs ih =>
    have h := ih { l with v := l.v.set n x, empty := l.empty &&& ~~~(1#64 <<< n), poison := l.poison &&& ~~~(1#64 <<< n) } (n + 1)
    simpa [Lane.setRegs] using h

theorem Warp.reg_setReg (w : Warp) (n k : Nat) (x : Word) (hn : n < w.w.length) :
    (w.setReg n x).reg k = if k = n then x else w.reg k := by
  simp only [Warp.setReg, Warp.reg, List.getD_eq_getElem?_getD]
  by_cases hk : k = n
  · subst hk; simp [hn]
  · simp [hk, List.getElem?_set_ne (Ne.symm hk)]

theorem Warp.setRegs_frame (xs : List Word) (w : Warp) (n : Nat) :
    (w.setRegs n xs).lanes = w.lanes ∧ (w.setRegs n xs).k = w.k ∧ (w.setRegs n xs).live = w.live ∧
      (w.setRegs n xs).wait = w.wait := by
  induction xs generalizing w n with
  | nil => exact ⟨rfl, rfl, rfl, rfl⟩
  | cons x xs ih => simpa [Warp.setRegs, Warp.setReg] using ih (w.setReg n x) (n + 1)

@[simp] theorem Lane.advance_pc (l : Lane) (c n : Nat) : (l.advance c n).pc = l.pc + 4 := rfl

@[simp] theorem Lane.advance_run (l : Lane) (c n : Nat) : (l.advance c n).run = [] := rfl

@[simp] theorem Lane.advance_reg (l : Lane) (c n k : Nat) : (l.advance c n).reg k = l.reg k := rfl

@[simp] theorem Lane.advance_full (l : Lane) (c n k : Nat) : (l.advance c n).full k = l.full k := rfl

end Sys2Proof.Machine
end

