-- ==== Sys2Proof/Laws/Ops.lean ====
section
/-! SUPPORT. What the shared operations can do, each said once: an instruction of the selected group, the checks and the
scopes of the instructions on registers and on memory, translation, and the step. -/

namespace Sys2Proof.Machine

/-! ### Instructions of the selected group -/

theorem issuing_selected {s : State} {is : Issue} (h : s.cur = some is) (k : Ex → State) :
    issuing s k = .next { k (Ex.of s is) with cur := none } := by simp [issuing, h]

theorem issuing_none {s : State} (h : s.cur = none) (k : Ex → State) : issuing s k = .fault .noIssue := by
  simp [issuing, h]

/-- What an instruction of a group answers, if it answers a next state. -/
theorem issuing_next {s t : State} {k : Ex → State} (h : issuing s k = .next t) :
    ∃ is, s.cur = some is ∧ t = { k (Ex.of s is) with cur := none } := by
  simp only [issuing] at h
  split at h
  · cases h
  · rename_i is hc
    exact ⟨is, hc, by simpa using h.symm⟩

theorem Ex.wide_waits {x : Ex} {u : RdvUnit} {k : Nat} {s : State} (h : x.arrive u k = (s, none))
    (act : State → Inst → State) : x.wide u k act = s := by simp [Ex.wide, h]

theorem Ex.wide_issues {x : Ex} {u : RdvUnit} {k : Nat} {s : State} {y : Inst} (h : x.arrive u k = (s, some y))
    (act : State → Inst → State) : x.wide u k act = act s y := by simp [Ex.wide, h]

theorem Ex.alu_illegal {x : Ex} {acc : Acc} {ops : List Opd} {extra : Bool} (h : x.legal acc ops extra = false)
    (sc : Nat) (al : Alu) : x.alu sc acc ops extra al = x.illegalAt sc := by simp [Ex.alu, h]

theorem Ex.alu_lane {x : Ex} {acc : Acc} {ops : List Opd} {extra : Bool} (h : x.legal acc ops extra = true) (al : Alu) :
    x.alu 0 acc ops extra al = x.lanewise fun _ l => al.lane x.w l := by simp [Ex.alu, h]

/-- What an instruction on registers does: it traps, or does its part lane by lane, or arrives at its rendezvous. -/
theorem Ex.alu_cases (x : Ex) (sc : Nat) (acc : Acc) (ops : List Opd) (extra : Bool) (al : Alu) :
    x.alu sc acc ops extra al = x.illegalAt sc ∨
    (sc = 0 ∧ x.alu sc acc ops extra al = x.lanewise fun _ l => al.lane x.w l) ∨
    ∃ u, x.unit sc = some u ∧ ((∃ s, x.arrive u x.pf.modOf.k.toNat = (s, none) ∧ x.alu sc acc ops extra al = s) ∨
      ∃ s y, x.arrive u x.pf.modOf.k.toNat = (s, some y) ∧ x.alu sc acc ops extra al =
        match u with
        | .warp _ => al.atWarp x s y
        | .set i => al.atSet x i s y
        | .block => al.atBlock x s y) := by
  by_cases hl : x.legal acc ops extra = true
  · by_cases h0 : sc = 0
    · subst h0; exact .inr (.inl ⟨rfl, Ex.alu_lane hl al⟩)
    · cases hu : x.unit sc with
      | none => exact .inl (by simp [Ex.alu, hl, h0, hu])
      | some u =>
        refine .inr (.inr ⟨u, rfl, ?_⟩)
        rcases ha : x.arrive u x.pf.modOf.k.toNat with ⟨s, o⟩
        cases o with
        | none => exact .inl ⟨s, rfl, by simp [Ex.alu, hl, h0, hu, Ex.wide, ha]⟩
        | some y => exact .inr ⟨s, y, rfl, by simp only [Ex.alu, hl, h0, hu, Ex.wide, ha]; rfl⟩
  · exact .inl (Ex.alu_illegal (by simpa using hl) sc al)

theorem Ex.mem_illegal {x : Ex} {acc : Acc} {ops : List Opd} {extra : Bool} (sc : Nat)
    (h : x.legal acc ops (extra && sc ≤ 2) = false) (m : MemAct) : x.mem sc acc ops extra m = x.illegalAt sc := by
  simp [Ex.mem, h]

theorem Ex.mem_lane {x : Ex} {acc : Acc} {ops : List Opd} {extra : Bool} (h : x.legal acc ops extra = true) (m : MemAct) :
    x.mem 0 acc ops extra m = x.memLanes m (fun s w l => (s.lane x.is.blk w l).view) (fun _ l first => .v l first) := by
  simp [Ex.mem, h]

/-- What an instruction of warp scope that reaches memory or a queue does once its instance completes (R211). -/
theorem Ex.mem_warp {x : Ex} {acc : Acc} {ops : List Opd} {extra : Bool} (h : x.legal acc ops extra = true) (m : MemAct)
    (hr : (x.w.lane (lowest x.is.lanes)).replay = false) {s : State} {y : Inst}
    (hc : x.arrive (.warp x.is.warp) x.pf.modOf.k.toNat = (s, some y)) : x.mem 1 acc ops extra m = m.atWarp x s y := by
  simp [Ex.mem, h, Ex.unit, hr, Ex.wide, hc]

/-- The same for an instruction on w registers with one uniform effect. -/
theorem Ex.uniform_warp {x : Ex} {acc : Acc} {ops : List Opd} {extra : Bool} {s : State} {y : Inst}
    (h : x.legal { acc with mod := true, k := true } ops extra = true ∧ (x.w.lane (lowest x.is.lanes)).replay = false ∧
      x.arrive (.warp x.is.warp) x.pf.modOf.k.toNat = (s, some y)) (act : State → Who → (Nat → Word) → State × AccRes) :
    x.uniform acc ops extra act = MemAct.atWarp { srcs := [], act := fun s o v _ => act s o v.val } x s y :=
  Ex.mem_warp h.1 _ h.2.1 h.2.2

/-- A lane's part of an instruction on registers leaves its place as it was but for `advance`. -/
theorem LaneRes.apply_pc (r : LaneRes) (c : Nat) (l : Lane) :
    (r.apply c l).pc = (match r with | .done x _ => x.pc + 4 | _ => l.pc) := by cases r <;> rfl

/-! ### Taking a trap -/

/-- A trap of a block that is not halted halts it. -/
theorem Block.trap_halts {b : Block} (h : b.halt = none) (t : Trap) (ws : List Nat) :
    ∃ x, (b.trap t ws).halt = some x ∧ x.trap = t ∧ x.handler = false ∧ x.lost = false ∧ x.pending = [] := by
  refine ⟨_, by simp [Block.trap, h]; rfl, rfl, rfl, rfl, rfl⟩

/-- A trap changes nothing of a block but its halt. -/
theorem Block.trap_frame (b : Block) (t : Trap) (ws : List Nat) : b.trap t ws = { b with halt := (b.trap t ws).halt } := by
  unfold Block.trap
  split
  · rfl
  · split <;> rfl

/-! ### Translation (R72, R75) -/

/-- A translation that succeeds keeps its checks. -/
theorem State.xlate_ok {s t : State} {die ctx n : Nat} {va : DWord} {k : Access} {e : DWord} {pa : Nat}
    (h : s.xlate die ctx va n k = (t, .ok e pa)) :
    canonical va = true ∧ va.toNat % n = 0 ∧ paOk pa = true ∧ t.reachable pa = true ∧
      s.entryFor die ctx va = (t, .inr e) := by
  unfold State.xlate at h
  by_cases hc : canonical va = true
  · by_cases ha : va.toNat % n = 0
    · rcases he : s.entryFor die ctx va with ⟨u, c | e'⟩
      · simp [hc, ha, he] at h
      · cases k <;>
        · simp only [hc, ha, he, Bool.not_true, Bool.false_eq_true, if_false, bne_self_eq_false] at h
          split at h
          · cases h
          · rename_i hp
            simp only [Prod.mk.injEq, XRes.ok.injEq] at h
            obtain ⟨rfl, rfl, rfl⟩ := h
            simp only [Bool.or_eq_true, Bool.not_eq_true', not_or, Bool.not_eq_false] at hp
            exact ⟨hc, ha, hp.1.1, hp.2, rfl⟩
    · simp [hc, ha] at h
  · simp [hc] at h

/-- A buffer that takes an entry is all that changes, and the count of free choices. -/
theorem State.keepEntry_frame (s : State) (t : Tlb) (q : Nat) :
    s.keepEntry t q = { s with dies := (s.keepEntry t q).dies, tick := (s.keepEntry t q).tick } := by
  unfold State.keepEntry
  dsimp only
  split
  · rfl
  · split
    · rfl
    · split <;> rfl

theorem State.keepEntries_frame (t : Tlb) (qs : List Nat) (s : State) :
    qs.foldl (State.keepEntry · t) s =
      { s with dies := (qs.foldl (State.keepEntry · t) s).dies, tick := (qs.foldl (State.keepEntry · t) s).tick } := by
  induction qs generalizing s with
  | nil => rfl
  | cons q qs ih =>
    rw [List.foldl_cons, ih, State.keepEntry_frame s t q]

/-- A translation changes at most the translations that buffers hold, and the count of free choices. -/
theorem State.entryFor_frame (s : State) (die ctx : Nat) (va : DWord) :
    (s.entryFor die ctx va).1 =
      { s with dies := (s.entryFor die ctx va).1.dies, tick := (s.entryFor die ctx va).1.tick } := by
  unfold State.entryFor
  split
  · rfl
  · split
    · exact State.keepEntries_frame _ _ s
    · split
      · rfl
      · exact State.keepEntries_frame _ _ s

theorem State.entryFor_held {s : State} {die ctx : Nat} {va : DWord} {t : Tlb} (h : (s.die (placeDie die)).lookup die ctx va = some t) :
    s.entryFor die ctx va = (s, .inr t.entry) := by simp [State.entryFor, h]

/-! ### Bytes that an engine reads (R341, R349) -/

/-- A byte that has not changed since an engine's work began is read as it is. -/
@[simp] theorem State.oldOrNew_same (s : State) (pa : Nat) : s.oldOrNew s.mem pa = Memory.read s.mem pa := by
  simp [State.oldOrNew]

/-! ### The step -/

theorem nextOf_eq_some {o : Host.Outcome State Fault Refusal} {t : State} : nextOf o = some t ↔ o = .next t := by
  cases o <;> simp [nextOf]

theorem State.mem_options {s t : State} : t ∈ s.options ↔ ∃ m ∈ s.moves, s.perform m = .next t := by
  simp [State.options, List.mem_filterMap, nextOf_eq_some]

/-- A step always answers a next state. -/
theorem step_next (s : State) : step s = .next s.advance := rfl

/-- What a step can do: nothing where nothing can happen, else one of the things that may; then time goes on. -/
theorem State.advance_cases (s : State) :
    (s.options = [] ∧ s.advance = s.passTime) ∨
    ∃ m ∈ s.moves, ∃ t, s.perform m = .next t ∧
      (s.advance = t.passTime ∨ s.advance = { t with tick := t.tick + 1 }.passTime) := by
  cases ho : s.options with
  | nil => exact .inl ⟨rfl, by simp [State.advance, ho]⟩
  | cons t ts =>
    right
    cases ts with
    | nil =>
      obtain ⟨m, hm, hp⟩ := State.mem_options.1 (show t ∈ s.options by simp [ho])
      exact ⟨m, hm, t, hp, .inl (by simp [State.advance, ho])⟩
    | cons u us =>
      let i := Config.freeChoice s.tick % ((u :: us).length + 1)
      have hi : i < (t :: u :: us).length := by
        simp only [List.length_cons]; exact Nat.mod_lt _ (by omega)
      have hin : (t :: u :: us).getD i t ∈ s.options := by
        rw [ho, List.getD_eq_getElem?_getD, List.getElem?_eq_getElem hi]
        exact List.getElem_mem hi
      obtain ⟨m, hm, hp⟩ := State.mem_options.1 hin
      exact ⟨m, hm, _, hp, .inr (by simp only [State.advance, ho]; rfl)⟩

/-- A word that decodes is executed as its instruction. -/
theorem State.execWord_decoded {s : State} {w : Word} {i : Instr} (h : decodeWord w = some i) :
    s.execWord w = exec i s := by simp [State.execWord, h]

/-- A group whose fetch succeeds executes the word there. -/
theorem State.issue_fetched {s t : State} {is : Issue} {w : Word} (h : (s.selected is).fetch is = (t, .inr w)) :
    s.issue is = t.execWord w := by simp [State.issue, h]

/-- A fetch changes only the instruction cache of its core, and the count of free choices (R89). -/
theorem State.keepCode_frame (s : State) (n ctx pa : Nat) :
    s.keepCode n ctx pa = { s with cores := (s.keepCode n ctx pa).cores, tick := (s.keepCode n ctx pa).tick } := by
  unfold State.keepCode
  dsimp only
  split
  · rfl
  · split <;> rfl

@[simp] theorem State.fetched_mem (s : State) (is : Issue) (pa : Nat) : (s.fetched is pa).mem = s.mem := by
  rw [State.fetched, State.keepCode_frame]

@[simp] theorem State.fetched_blocks (s : State) (is : Issue) (pa : Nat) : (s.fetched is pa).blocks = s.blocks := by
  rw [State.fetched, State.keepCode_frame]

@[simp] theorem State.fetched_cur (s : State) (is : Issue) (pa : Nat) : (s.fetched is pa).cur = s.cur := by
  rw [State.fetched, State.keepCode_frame]

/-- A fetch keeps every line of the L1 of its core, and its pending signature. -/
theorem Core.code_kept (s : State) (n ctx pa m : Nat) :
    ((s.keepCode n ctx pa).core m).l1 = (s.core m).l1 ∧ ((s.keepCode n ctx pa).core m).pending = (s.core m).pending := by
  have upd : ∀ (s : State) (f : List CodeLine → List CodeLine),
      ((s.updCore n fun c => { c with code := f c.code }).core m).l1 = (s.core m).l1 ∧
        ((s.updCore n fun c => { c with code := f c.code }).core m).pending = (s.core m).pending := by
    intro s f
    simp only [State.core, State.updCore, List.getD_eq_getElem?_getD, List.getElem?_modify]
    by_cases h : n = m <;> simp only [h, if_true, if_false] <;> cases s.cores[m]? <;> exact ⟨rfl, rfl⟩
  unfold State.keepCode
  dsimp only
  split
  · exact ⟨rfl, rfl⟩
  · split
    · exact upd s _
    · have h := upd (s.pick (s.core n).code.length).2 (List.eraseIdx · (s.pick (s.core n).code.length).1)
      have g := upd ((s.pick (s.core n).code.length).2.updCore n fun c =>
        { c with code := c.code.eraseIdx (s.pick (s.core n).code.length).1 })
      exact ⟨(g _).1.trans h.1, (g _).2.trans h.2⟩

/-- Code dropped is the code of the context, and nothing else changes (R89). -/
theorem State.dropCode_frame (s : State) (ctx : Nat) : s.dropCode ctx = { s with cores := (s.dropCode ctx).cores } := rfl

/-- No core holds code of a context once it is dropped. -/
theorem State.dropCode_none (s : State) (ctx : Nat) : ∀ c ∈ (s.dropCode ctx).cores, ∀ x ∈ c.code, x.ctx ≠ ctx := by
  intro c hc x hx
  simp only [State.dropCode, List.mem_map] at hc
  obtain ⟨d, -, rfl⟩ := hc
  simp only [List.mem_filter, bne_iff_ne] at hx
  exact hx.2

/-- The passing of time changes only the cycle and the dies. -/
theorem State.passTime_frame (s : State) :
    s.passTime = { s with cycle := s.cycle + 1, dies := s.passTime.dies } := by
  have key : ∀ (l : List Nat) (u : State),
      l.foldl (fun s d => (s.noteWait d).noteIdle d) u =
        { u with dies := (l.foldl (fun s d => (s.noteWait d).noteIdle d) u).dies } := by
    intro l
    induction l with
    | nil => intro u; rfl
    | cons d l ih =>
      intro u
      have one : ∀ v : State, (v.noteWait d).noteIdle d = { v with dies := ((v.noteWait d).noteIdle d).dies } := by
        intro v
        have h1 : v.noteWait d = { v with dies := (v.noteWait d).dies } := by
          have key : ∀ (p : Prop) [Decidable p] (f : Die → Die),
              (if p then v else v.updDie d f) = { v with dies := (if p then v else v.updDie d f).dies } := by
            intro p _ f
            split <;> rfl
          exact key _ _
        have h2 : ∀ x : State, x.noteIdle d = { x with dies := (x.noteIdle d).dies } := by
          intro x
          unfold State.noteIdle
          split <;> rfl
        rw [h2, h1]
      rw [List.foldl_cons, ih, one]
  rw [State.passTime, key]

@[simp] theorem State.passTime_blocks (s : State) : s.passTime.blocks = s.blocks := by rw [State.passTime_frame]

@[simp] theorem State.passTime_mem (s : State) : s.passTime.mem = s.mem := by rw [State.passTime_frame]

@[simp] theorem State.passTime_cores (s : State) : s.passTime.cores = s.cores := by rw [State.passTime_frame]

end Sys2Proof.Machine
end

