-- ==== Sys2Proof/Tests/Slice0.lean ====
section
/-! SUPPORT. Tests: words and one-step results taken from the spec, terms that are not well formed, and for each statement
a concrete state and operands that meet its hypotheses. -/

namespace Sys2Proof.Machine

set_option Elab.async false

/-! ### A small device -/

def laneT : Lane :=
  { pc := 0x1000, v := List.replicate 64 0, empty := 0, poison := 0, preds := 0, run := [], runStart := 0, status := .ready,
    replay := false, watchSkip := 0 }

/-- A warp with lane 0 launched. -/
def warpT : Warp :=
  { lanes := laneT :: List.replicate 31 { laneT with status := .absent }, w := List.replicate 32 0, k := List.replicate 12 0,
    live := 1, clockHi := 0, issued := 0, drained := 0, wset := [], hold := none, wait := none }

/-- A running block of one warp with 16 KiB of scratchpad. -/
def blockT : Block :=
  { launch := 0, index := 0, depth := 0, ctx := 0, die := 0, cluster := 0, core := 0, phase := .running, lregs := 64,
    gregs := 32, regGran := 1, spGran := 1, l1Gran := 1, sets := [⟨1, 0, List.replicate 32 (List.replicate 32 ⟨0, true, false⟩)⟩],
    warps := [warpT], sp := [], spPoison := [], insts := [],
    bars := List.replicate 16 ⟨0, 0, 0⟩, pipes := List.replicate 16 [], popOrder := 0, tiles := [Tile.zero], mxPri := 0,
    copyQ := List.replicate 8 ⟨0, 0, 0, []⟩, jobTickets := 0, topkTickets := 0, topkDone := 0, topkHist := [], halt := none,
    spawnD := 0, arenaOff := 0, saveB := 0 }

/-- A context on die 0, with one handle and one queue of each die and number. -/
def ctxT : Ctx :=
  { newCtx 0 (List.replicate 128 0) with
    ringN := 4, ring := 0x8000, ccount := 1, handles := [⟨0, 0x10000, true, 0, 0xFFFF, 0, 0, 0, 0, 0, []⟩],
    queues := [⟨[], true, false⟩] }

/-- A die whose buffers map the first GiB of context 0 to itself, for core 0, cluster 0 and the die. -/
def dieT : Die :=
  { Die.reset with cmdqs := [CmdQ.reset], counters := [Counter.reset], tlb := [corePlace 0, clusterPlace 0, 0].map fun p => ⟨p, 0, 0, 2 ^ 30, 3⟩ }

def launchT : Launch := { newLaunch loadRecord 0 1 0 none 0 none .running with next := 1 }

/-- One die, cluster and core in service mode, with the block's lane 0 selected. -/
def stT : State :=
  { State.reset with
    mode := .service, dies := [dieT], clusters := [Cluster.reset], cores := [Core.reset], ctxs := [ctxT], launches := [launchT],
    blocks := [blockT], cur := some ⟨0, 0, 1, 0x1000⟩ }

/-- The selected group of `stT`. -/
def isT : Issue := ⟨0, 0, 1, 0x1000⟩

/-- The state with its block, its warp, its lane 0, its context, its die changed. -/
def State.withB (s : State) (f : Block → Block) : State := { s with blocks := s.blocks.map f }

def State.withW (s : State) (f : Warp → Warp) : State := s.withB fun b => { b with warps := b.warps.map f }

def State.withL (s : State) (f : Lane → Lane) : State :=
  s.withW fun w => { w with lanes := f (w.lane 0) :: w.lanes.tail }

def State.withC (s : State) (f : Ctx → Ctx) : State := { s with ctxs := s.ctxs.map f }

def State.withD (s : State) (f : Die → Die) : State := { s with dies := s.dies.map f }

/-- Whether a block without instances has its sizes. -/
def okBlock (b : Block) : Bool :=
  b.bars.length == 16 && b.pipes.length == 16 && b.copyQ.length == 8 && b.insts.isEmpty &&
    b.warps.all (fun w => w.lanes.length == 32 && w.w.length == 32 && w.k.length == 12 && w.lanes.all fun l => l.v.length == 64)
    && b.sets.all fun s => s.g.length == b.gregs && s.g.all fun e => e.length == 32 * popcount s.members

/-- Whether a core has whole lines, each once. -/
def okCore (c : Core) : Bool :=
  decide (c.l1.map fun x => (x.ctx, x.line)).Nodup && (c.l1.all fun x => x.bytes.length == 128) && c.code.all fun x => x.bytes.length == 128

/-- Whether the memories are in canonical form. -/
def State.memB (s : State) : Bool := Memory.wf s.mem && s.blocks.all fun b => Memory.wf b.sp

theorem memOk_ok {s : State} (h : s.memB = true) : s.memOk := by
  simp only [State.memB, Bool.and_eq_true, List.all_eq_true] at h
  exact h

/-- Whether the parts of a state have their sizes. -/
def State.sizedB (s : State) : Bool :=
  s.blocks.all okBlock && s.cores.all okCore && s.atoms.all fun o => decide (o.id < s.nextId)

theorem sized_ok {s : State} (h : s.sizedB = true) : s.sized := by
  simp only [State.sizedB, Bool.and_eq_true, List.all_eq_true, decide_eq_true_eq] at h
  refine ⟨fun b hb => ?_, fun c hc => ?_, h.2⟩
  · have h1 := h.1.1 b hb
    simp only [okBlock, Bool.and_eq_true, beq_iff_eq, List.all_eq_true, List.isEmpty_iff] at h1
    obtain ⟨⟨⟨⟨⟨h1, h2⟩, h3⟩, h4⟩, h5⟩, h6⟩ := h1
    exact ⟨h1, h2, h3, fun w hw => ⟨(h5 w hw).1.1.1, (h5 w hw).1.1.2, (h5 w hw).1.2, (h5 w hw).2⟩,
      fun st hs => h6 st hs, by simp [h4]⟩
  · have h2 := h.1.2 c hc
    simp only [okCore, Bool.and_eq_true, decide_eq_true_eq, List.all_eq_true, beq_iff_eq] at h2
    exact ⟨h2.1.1, h2.1.2, h2.2⟩

/-- The shape of a state and its memories, checked. -/
def State.formedB (s : State) : Bool := s.sizedB && s.memB

theorem formed_ok {s : State} (h : s.formedB = true) : s.formed := by
  obtain ⟨h1, h2⟩ := (Bool.and_eq_true _ _).mp h
  exact ⟨sized_ok h1, memOk_ok h2⟩

/-- The instance at which a group arrives, and the state after its arrival. -/
def Ex.instAt (x : Ex) (u : RdvUnit) (k : Nat) : Inst := ((x.arrive u k).2).getD default

def Ex.stateAt (x : Ex) (u : RdvUnit) (k : Nat) : State := (x.arrive u k).1

/-- Whether the arrival completes. -/
def Ex.arrives (x : Ex) (u : RdvUnit) (k : Nat) : Bool := (x.arrive u k).2.isSome && x.b.completes (x.instAt u k)

theorem completes_ok {x : Ex} {u : RdvUnit} {k : Nat} (h : x.arrives u k = true) :
    x.completes u k (x.stateAt u k) (x.instAt u k) := by
  simp only [Ex.arrives, Bool.and_eq_true] at h
  refine ⟨?_, h.2⟩
  rcases ha : x.arrive u k with ⟨s, o⟩
  cases o with
  | none => simp [ha] at h
  | some y => simp [Ex.stateAt, Ex.instAt, ha]

/-- A warp-scope instruction on w registers issues where its checks pass and its arrival completes. -/
theorem uniform_ok {x : Ex} {acc : Acc} {ops : List Opd} {extra : Bool}
    (h : (x.legal { acc with mod := true, k := true } ops extra && !(x.w.lane (lowest x.is.lanes)).replay &&
      x.arrives (.warp x.is.warp) x.pf.modOf.k.toNat) = true) :
    x.uniformGoes acc ops extra (x.stateAt (.warp x.is.warp) x.pf.modOf.k.toNat)
      (x.instAt (.warp x.is.warp) x.pf.modOf.k.toNat) := by
  simp only [Bool.and_eq_true, Bool.not_eq_true'] at h
  exact ⟨h.1.1, h.1.2, completes_ok h.2⟩

/-- The instance and the state after arrival of the one group of a small device at warp scope. -/
def State.yT (s : State) : Inst := (Ex.of s isT).instAt (.warp 0) 15

def State.sT (s : State) : State := (Ex.of s isT).stateAt (.warp 0) 15

def xT : Ex := Ex.of stT isT

/-! ### The hypotheses, checked -/

def State.selB (s : State) (is : Issue) : Bool :=
  decide (s.cur = some is ∧ is.lanes ≠ 0 ∧ is.blk < s.blocks.length ∧ is.warp < (s.blk is.blk).warps.length ∧
    ∀ l ∈ lanesOf is.lanes, (s.lane is.blk is.warp l).status = .ready)

theorem selects_ok {s : State} {is : Issue} (h : s.selB is = true) : s.selects is := by
  unfold State.selects
  exact of_decide_eq_true h

/-- Whether a state has no access on its way at all. -/
def State.calmB (s : State) : Bool := s.loads.isEmpty && s.stores.isEmpty && s.atoms.isEmpty && s.replies.isEmpty &&
  s.fences.isEmpty && s.deqWaits.isEmpty

theorem calm_ok {s : State} (b : Nat) (h : s.calmB = true) : s.calm b := by
  simp only [State.calmB, Bool.and_eq_true, List.isEmpty_iff] at h
  simp [State.calm, h]

/-- Whether, besides, no core holds a dirty line of a block. -/
theorem still_ok {s : State} {b : Nat}
    (h : (s.calmB && (s.core (s.blk b).coreNo).l1.all fun z => z.dirty == 0) = true) : s.still b := by
  simp only [Bool.and_eq_true, List.all_eq_true, beq_iff_eq] at h
  exact ⟨calm_ok b h.1, h.2⟩

/-- The instance of an instruction at its scope, and whether it goes on. -/
def Ex.goY (x : Ex) (sc : Nat) : Inst :=
  match sc with
  | 0 => default
  | _ => x.instAt ((x.unit sc).getD .block) x.pf.modOf.k.toNat

def Ex.goB (x : Ex) (sc : Nat) : Bool :=
  sc == 0 || match x.unit sc with
    | none => false
    | some u => x.arrives u x.pf.modOf.k.toNat

theorem goes_ok {x : Ex} {sc : Nat} (h : x.goB sc = true) : x.goes sc (x.goY sc) := by
  simp only [Ex.goB, Bool.or_eq_true, beq_iff_eq] at h
  rcases h with h | h
  · exact .inl h
  · rcases hu : x.unit sc with _ | u
    · simp [hu] at h
    · rcases sc with _ | n
      · exact .inl rfl
      · have := completes_ok (x := x) (u := u) (k := x.pf.modOf.k.toNat) (by simpa [hu] using h)
        exact .inr ⟨u, _, hu, by simpa [Ex.goY, hu] using this⟩

/-- Without MZ nothing is zeroed. -/
theorem zeroes_ok {x : Ex} {y : Inst} {dst : List Nat} (h : x.pf.modOf.mz = false) : x.zeroes y dst := by
  intro hm
  simp [h] at hm

/-- Whether the sources of everyone let an instruction issue. -/
def Ex.readyB (x : Ex) (sc : Nat) (gn : Bool) (gp : BitVec 3) (srcs : List Src) (dst : List Nat) : Bool :=
  !(x.w.lane (lowest x.is.lanes)).replay && !x.pf.modOf.mz &&
    (x.parties sc (x.goY sc)).all fun p => p.self.guard gn gp == false || sc == 1 || readiness p.view srcs dst == .go

theorem allReady_ok {x : Ex} {sc : Nat} {gn : Bool} {gp : BitVec 3} {srcs : List Src} {dst : List Nat}
    (h : x.readyB sc gn gp srcs dst = true) : x.allReady sc (x.goY sc) gn gp srcs dst := by
  simp only [Ex.readyB, Bool.and_eq_true, Bool.not_eq_true', List.all_eq_true, Bool.or_eq_true, beq_iff_eq] at h
  exact ⟨h.1.1, fun _ => zeroes_ok h.1.2, fun p hp => or_assoc.mp (h.2 p hp)⟩

def MemForm.issuesB (m : MemForm) (x : Ex) : Bool :=
  decide (m.sc ≤ 2) && x.legal m.acc m.ops m.extra && x.goB m.sc && x.readyB m.sc m.gn m.gp m.srcs m.dst

theorem issues_ok {m : MemForm} {x : Ex} (h : m.issuesB x = true) : m.issues x (x.goY m.sc) := by
  simp only [MemForm.issuesB, Bool.and_eq_true, decide_eq_true_eq] at h
  exact ⟨h.1.1.1, h.1.1.2, goes_ok h.1.2, allReady_ok h.2⟩

theorem acting_ok {m : MemForm} {x : Ex} {y : Inst} {P : Party → Prop} (h : ∀ p ∈ x.parties m.sc y, P p) :
    ∀ p, m.acting x y p → P p := fun p hp => h p hp.1

theorem watched_ok {s : State} {c : Nat} {va : DWord} {n : Nat}
    (h : ((s.ctx c).watch.all fun r => r.kinds == 0) = true) : ∀ kind, s.watched c kind va n = false := by
  intro kind
  simp only [List.all_eq_true, beq_iff_eq] at h
  simp only [State.watched, List.any_eq_false]
  intro r hr
  simp [h r hr]

/-- Whether a core's buffer holds a translation under which an access passes its checks. -/
def State.mapsB (s : State) (b : Nat) (va : DWord) (n : Nat) (k : Access) (e : DWord) (pa : Nat) : Bool :=
  let B := s.blk b
  let p := corePlace B.coreNo
  canonical va && va.toNat % n == 0 && pa % n == 0 &&
    (match (s.die (placeDie p)).lookup p B.ctx va with | none => false | some t => t.entry == e) &&
    pa == replicaPa e (s.pageOff p B.ctx va) (replicaDie (entryRepl e) (placeDie p)) && paOk pa && s.reachable pa &&
    (match k with
      | .load => s.poisoned pa n == false
      | .store => entryRo e == false
      | .atomic => entryRo e == false && entryRepl e == 0
      | .fetch => entryNx e == false && s.poisoned pa n == false) &&
    (s.ctx B.ctx).watch.all fun r => r.kinds == 0

theorem maps_ok {s : State} {b : Nat} {va : DWord} {n : Nat} {k : Access} {e : DWord} {pa : Nat}
    (h : s.mapsB b va n k e pa = true) : s.maps b va n k e pa := by
  simp only [State.mapsB, Bool.and_eq_true, beq_iff_eq] at h
  obtain ⟨⟨⟨⟨⟨⟨⟨⟨h1, h2⟩, h3⟩, h4⟩, h5⟩, h6⟩, h7⟩, h8⟩, h9⟩ := h
  refine ⟨h1, h2, h3, ?_, h5, h6, h7, ?_, watched_ok h9⟩
  · rcases ht : (s.die (placeDie (corePlace (s.blk b).coreNo))).lookup (corePlace (s.blk b).coreNo) (s.blk b).ctx va with _ | t
    · simp [ht] at h4
    · exact ⟨t, rfl, by simpa [ht] using h4⟩
  · cases k <;> simpa using h8

/-- Whether an instruction on registers may go on at its scope. -/
def RegInstr.readyB (r : RegInstr) (x : Ex) : Bool :=
  let ok (l : Lane) (v : View) : Bool := l.guard r.gn r.gp == false || readiness v (r.srcs x) r.dst.codes == .go
  x.legal r.acc (r.ops x) (r.extra x) &&
    match r.sc with
    | 0 => (lanesOf x.is.lanes).all fun l => ok (x.w.lane l) (x.w.lane l).view
    | 2 => match x.unit 2 with
      | some (.set i) => x.arrives (.set i) x.pf.modOf.k.toNat && !x.pf.modOf.mz &&
          (Inst.lanes (x.b.needed (x.instAt (.set i) x.pf.modOf.k.toNat))).all fun p =>
            ok ((x.b.warp p.1).lane p.2) ((x.b.set i).view ((x.b.set i).pos p.1) p.2 ((x.b.warp p.1).lane p.2))
      | _ => false
    | n => match x.unit n with
      | some u => x.arrives u x.pf.modOf.k.toNat
      | none => false

theorem ready_ok {r : RegInstr} {x : Ex} (h : r.readyB x = true) : r.ready x := by
  simp only [RegInstr.readyB, Bool.and_eq_true] at h
  refine ⟨h.1, ?_⟩
  have h2 := h.2
  split at h2
  · simp only [List.all_eq_true, Bool.or_eq_true, beq_iff_eq] at h2
    simpa [*, RegInstr.readyIn] using h2
  · split at h2
    · next i hu =>
      simp only [Bool.and_eq_true, Bool.not_eq_true', List.all_eq_true, Bool.or_eq_true, beq_iff_eq] at h2
      simp only [*]
      exact ⟨i, _, _, rfl, completes_ok h2.1.1, zeroes_ok h2.1.2, by simpa [RegInstr.readyIn] using h2.2⟩
    · simp at h2
  · split at h2
    · next u hu => simpa [*] using ⟨_, _, completes_ok h2⟩
    · simp at h2

/-! ### A witness for the hypotheses of each statement -/

theorem formedT : stT.formed := formed_ok (by decide +kernel)

theorem selectsT : stT.selects isT := selects_ok (by decide +kernel)

theorem calmT : stT.calm 0 := calm_ok 0 (by decide +kernel)

theorem stillT : stT.still 0 := still_ok (by decide +kernel)

/-- Scopes, each a boundary of the statements on registers. -/
def scopesT : List (BitVec 2) := [0, 1, 2, 3]

/-- An instruction on registers may go on at every scope: the hypotheses of RegInstr.performs and of what it keeps. -/
def everyScope (r : BitVec 2 → RegInstr) : Prop :=
  stT.formed ∧ stT.selects isT ∧ ∀ sc ∈ scopesT, (r sc).ready xT

theorem every_ok {r : BitVec 2 → RegInstr} (h : (scopesT.all fun sc => (r sc).readyB xT) = true) : everyScope r :=
  ⟨formedT, selectsT, fun sc hs => ready_ok (List.all_eq_true.mp h sc hs)⟩

def faT (sc : BitVec 2) : FormA := ⟨sc, 8, 16, 24, false, false⟩

def fa1T (sc : BitVec 2) : FormA1 := ⟨sc, 8, 16, false⟩

/-- The four bytes of a word in memory at 0x1000. -/
def State.withWord (s : State) (w : Word) : State := { s with mem := Memory.writeBytes s.mem 0x1000 (leBytes 4 w.toNat) }

/-- Whether a group's fetch reads a word. -/
def State.fetchB (s : State) (is : Issue) (w : Word) : Bool :=
  match (s.selected is).laneAccess is.blk is.pc 4 .fetch (((s.selected is).lane is.blk is.warp (lowest is.lanes)).watchSkip.getLsbD 1) with
  | (s', .ok _ pa) => decide (s'.cur = some is) && s'.codeOf is pa == w
  | _ => false

/-- The hypotheses of wordIllegal. -/
def fetches (w : Word) : Prop :=
  ∃ (s s' : State) (is : Issue) (e : DWord) (pa : Nat), (s.selected is).laneAccess is.blk is.pc 4 .fetch
      (((s.selected is).lane is.blk is.warp (lowest is.lanes)).watchSkip.getLsbD 1) = (s', .ok e pa) ∧ s'.cur = some is ∧
    s'.codeOf is pa = w

theorem fetch_ok {w : Word} (h : (stT.withWord w).fetchB isT w = true) : fetches w := by
  unfold State.fetchB at h
  split at h
  · next s' e pa hl =>
    simp only [Bool.and_eq_true, decide_eq_true_eq, beq_iff_eq] at h
    exact ⟨_, _, _, _, _, hl, h.1, h.2⟩
  · simp at h

theorem witness_IntegerResults :
    everyScope (fun sc => .binary .imulhS {} (fun _ a _ => a) (faT sc)) ∧ everyScope (fun sc => .unary .popc {} (fun _ a => a) (fa1T sc)) ∧
    everyScope (fun sc => bfiInstr (faT sc)) ∧ everyScope (fun sc => .ternary .imad {} 1 (fun _ _ _ c => c) (faT sc)) ∧
    everyScope (fun sc => .ternary .imadwS {} 2 (fun _ _ _ c => c) (faT sc)) ∧
    everyScope (fun sc => .immediate (.iaddi ⟨sc, 8, 16, false, 0x7FF⟩) sc 8 16 false 21 fun _ a => a) ∧
    everyScope (fun sc => .immediate (.shli ⟨sc, 8, 16, false, 31⟩) sc 8 16 false 0 fun _ a => a) ∧
    everyScope (fun sc => .immediate (.imuli ⟨sc, 8, 16, false, 0xFF⟩) sc 8 16 false 22 fun _ a => a) ∧
    everyScope (fun sc => moviInstr ⟨sc, 8, 0x3FFFF⟩) ∧
    -- the first function code without a meaning, and the last
    (bits 0x0400000C#32 26 6 = 1 ∧ 12 ≤ (bits 0x0400000C#32 0 4).toNat ∧ fetches 0x0400000C) ∧
    (bits 0x0C000009#32 26 6 = 3 ∧ 9 ≤ (bits 0x0C000009#32 0 4).toNat ∧ fetches 0x0C000009) ∧
    (bits 0x0C00000F#32 26 6 = 3 ∧ 9 ≤ (bits 0x0C00000F#32 0 4).toNat ∧ fetches 0x0C00000F) := by
  refine ⟨every_ok ?_, every_ok ?_, every_ok ?_, every_ok ?_, every_ok ?_, every_ok ?_, every_ok ?_, every_ok ?_, every_ok ?_,
    ⟨?_, ?_, fetch_ok ?_⟩, ⟨?_, ?_, fetch_ok ?_⟩, ⟨?_, ?_, fetch_ok ?_⟩⟩ <;> decide +kernel

theorem witness_CompareSelectResults :
    everyScope (fun sc => .compare .icmpEq (fun a b => a == b) ⟨sc, 6, 0, 16, 24, false, false⟩) ∧
    everyScope (fun sc => .compare .fcmpUn (fun _ _ => true) ⟨sc, 0, 3, 16, 24, false, false⟩) ∧
    everyScope (fun sc => .compareImm .icmpiEq (fun a b => a == b) ⟨sc, 0, 1, 16, false, 0xFF⟩) ∧
    everyScope (fun sc => selInstr ⟨sc, false, 7, 8, 16, 24, false, false⟩) ∧
    everyScope (fun sc => .ternary .prmb {} 1 (fun _ _ _ c => c) (faT sc)) ∧
    everyScope (fun sc => .binary .prmnSx {} (fun _ a _ => a) (faT sc)) ∧ everyScope (fun sc => pack2Instr (faT sc)) := by
  refine ⟨every_ok ?_, every_ok ?_, every_ok ?_, every_ok ?_, every_ok ?_, every_ok ?_, every_ok ?_⟩ <;> decide +kernel

theorem witness_FloatResults :
    everyScope (fun sc => convInstr ⟨sc, 8, 16, false, 0, 24, true⟩) ∧
    everyScope (fun sc => .binary .fadd { rm := true } (fun _ a _ => a) (faT sc)) ∧
    everyScope (fun sc => .unary .frint { rm := true } (fun _ a => a) (fa1T sc)) ∧
    everyScope (fun sc => .ternary .ffma { rm := true } 1 (fun _ _ _ c => c) (faT sc)) ∧
    everyScope (fun sc => .binary .hadd2 { rm := true } (fun _ a _ => a) (faT sc)) := by
  refine ⟨every_ok ?_, every_ok ?_, every_ok ?_, every_ok ?_, every_ok ?_⟩ <;> decide +kernel

theorem witness_RndhResult : everyScope (fun sc => .binary .rndh {} (fun _ => rndhOf) (faT sc)) := every_ok (by decide +kernel)

theorem witness_ApproximateResults :
    everyScope (fun sc => .unary .rcp {} (fun _ a => a) (fa1T sc)) ∧ everyScope (fun sc => .binary .smxm {} (fun _ a _ => a) (faT sc)) ∧
    everyScope (fun sc => smxInstr .smxs false (fun _ _ _ _ => 0) (fa1T sc)) ∧
    everyScope (fun sc => smxInstr .smxc true (fun _ _ _ _ => 0) (fa1T sc)) ∧
    -- operands under the bounds: 3, -3, 1/2 and 5/2, the ends of LOG2's second range among them
    ((f32 0xC0400000).isNan = false ∧ (f32 0xC0400000).isInf = false ∧ (f32 0xC0400000).isZero = false ∧
      max32.lt (Val.div .one (f32 0xC0400000)).abs = false) ∧
    (f32 0x40400000).neg = false ∧ (Val.fin false 91 10 0).le (f32 0x40400000).abs = false ∧
    (fraction 0x40200000 ∧ (f32 0x40200000).lt (.dyadic (-149) 0) = false ∧ (f32 0x40200000).lt (.dyadic 128 0) = true) ∧
    (f32 0x3FC00000 = .fin false 12582912 1 (-23) ∧ 12582912 ≠ 2 ^ Nat.log2 12582912) ∧
    (f32 0x40200000 = .fin false 10485760 1 (-22) ∧ 10485760 ≠ 2 ^ Nat.log2 10485760) ∧
    (f32 0x3EC00000 = .fin false 12582912 1 (-25)) ∧
    (f32 0x3EC00000).lt (.fin false 1 1 (-1)) = true ∧ (Val.fin false 2 1 0).lt (f32 0x40200000) = true ∧
    ((Val.fin true 5 1 (-1)).lt (.dyadic (-2000) 0) = false ∧ (Val.fin true 5 1 (-1)).lt (.dyadic 128 0) = true ∧
      (Val.fin true 5 1 (-1)).int? = none) := by
  refine ⟨every_ok ?_, every_ok ?_, every_ok ?_, every_ok ?_, ?_⟩
  all_goals first | decide +kernel | (unfold fraction; decide +kernel)

/-- An instruction of lane and set scope may go on at both. -/
theorem both_ok {r : Bool → RegInstr} (h : ([false, true].all fun b => (r b).readyB xT) = true) : ∀ b, (r b).ready xT := by
  intro b
  cases b
  · exact ready_ok (List.all_eq_true.mp h false (by simp))
  · exact ready_ok (List.all_eq_true.mp h true (by simp))

theorem witness_MoveAddressResults : stT.formed ∧ stT.selects isT ∧ (∀ b, (bcastwInstr ⟨b, 8, 31⟩).ready xT) ∧
    (∀ b, (ptovInstr ⟨b, 8, 7⟩).ready xT) ∧ (∀ b, (vtopInstr ⟨b, 6, 16, false⟩).ready xT) ∧
    everyScope (fun sc => .unary .movv {} (fun _ a => a) (fa1T sc)) ∧ everyScope (fun sc => leaInstr .lea4 4 (faT sc)) ∧
    everyScope (fun sc => pairInstr .sub64 (· - ·) (faT sc)) := by
  refine ⟨formedT, selectsT, both_ok ?_, both_ok ?_, both_ok ?_, every_ok ?_, every_ok ?_, every_ok ?_⟩ <;> decide +kernel

theorem quietT : stT.noThreshold 0 := by
  intro n
  match n with
  | 0 | 1 | 2 | 3 | 4 | 5 | 6 | 7 | 8 | 9 | 10 | 11 | 12 | 13 | 14 | 15 | 16 | 17 | 18 | 19 | 20 | 21 | 22 | 23 => rfl
  | n + 24 => rfl

theorem witness_RegisterFrame : stT.selects isT ∧ stT.noThreshold 0 ∧ (∃ t, exec (.iadd (faT 0)) stT = .next t) ∧
    ∃ t, exec (.fadd (faT 2)) stT = .next t :=
  ⟨selectsT, quietT, ⟨_, rfl⟩, ⟨_, rfl⟩⟩

/-! ### Cross-lane instructions, branches and masks -/

def CrossInstr.goB (r : CrossInstr) (x : Ex) : Bool :=
  x.legal (r.acc x) (r.ops x) (r.extra x) && x.arrives (.warp x.is.warp) (r.k x) &&
    (lanesOf ((x.b.needed (x.instAt (.warp x.is.warp) (r.k x))).getD x.is.warp 0)).all fun l =>
      readiness (x.w.lane l).view r.srcs (if r.toV x then [r.d] else []) == .go

/-- The hypotheses of CrossInstr.performs. -/
def CrossInstr.mayGo (r : CrossInstr) : Prop :=
  stT.formed ∧ stT.selects isT ∧ xT.legal (r.acc xT) (r.ops xT) (r.extra xT) = true ∧ ∃ s1 y,
    xT.completes (.warp isT.warp) (r.k xT) s1 y ∧ ∀ l ∈ lanesOf ((xT.b.needed y).getD isT.warp 0),
      readiness (xT.w.lane l).view r.srcs (if r.toV xT then [r.d] else []) = .go

theorem cross_ok {r : CrossInstr} (h : r.goB xT = true) : r.mayGo := by
  simp only [CrossInstr.goB, Bool.and_eq_true, List.all_eq_true, beq_iff_eq] at h
  exact ⟨formedT, selectsT, h.1.1, _, _, completes_ok h.1.2, h.2⟩

theorem noWaitT : xT.w.noWait := by
  have h : (xT.w.lanes.all fun l => l.status == .ready || l.status == .absent) = true := by decide +kernel
  simp only [List.all_eq_true, Bool.or_eq_true, beq_iff_eq] at h
  intro l k hk
  have hd : (xT.w.lane l).status = .ready ∨ (xT.w.lane l).status = .absent := by
    unfold Warp.lane
    rcases hl : xT.w.lanes[l]? with _ | x
    · exact .inr (by simp [List.getD, hl]; rfl)
    · have := h x (List.mem_of_getElem? hl)
      simpa [List.getD, hl] using this
  rcases hd with hd | hd <;> rw [hd] at hk <;> cases hk

theorem witness_CrossLaneResults :
    (xlaInstr .perm true (fun _ l => l) ⟨8, 16, 24, 15⟩).mayGo ∧ (xlaInstr .permx false (fun _ l => l) ⟨8, 16, 24, 15⟩).mayGo ∧
    (xlbInstr .ballot (fun _ m => m) ⟨8, 7, 15⟩).mayGo ∧ (matchInstr ⟨8, 16, 15⟩).mayGo ∧
    (xlrInstr .redadd (fun _ => 0) ⟨8, 16, 15⟩).mayGo ∧ (scanInstr ⟨8, 16, 15⟩).mayGo ∧
    (readlInstr ⟨8, 16, 24, false⟩).mayGo ∧ (ktowInstr ⟨8, 11⟩).mayGo ∧
    (xT.legal { mod := true, k := true } [⟨.kd, 11, 1, false⟩, ⟨.w, 16, 1, false⟩] = true ∧
      xT.completes (.warp 0) 15 stT.sT stT.yT ∧ xT.w.noWait) ∧
    xT.setHere = some 0 ∧ xT.legal { mod := true, ss := true }
      [⟨.v, 8, 1, false⟩, ⟨.g, 31, 1, false⟩, ⟨.w, 0, 1, false⟩] = true ∧
    (∀ l ∈ lanesOf isT.lanes, (xT.w.lane l).full 8 = true ∧ ((xT.b.set 0).elem 31 0 l).full = true ∧
      ((xT.b.set 0).elem 31 0 l).poison = false) ∧
    xT.legal { mod := true, ss := true } [⟨.g, 31, 1, false⟩, ⟨.v, 8, 1, false⟩, ⟨.w, 0, 1, false⟩] = true ∧
    ∀ l ∈ lanesOf isT.lanes, readiness (xT.w.lane l).view [⟨8, 1, false, .own⟩] [] = .go ∧ ((xT.b.set 0).elem 31 0 l).full = true := by
  refine ⟨cross_ok ?_, cross_ok ?_, cross_ok ?_, cross_ok ?_, cross_ok ?_, cross_ok ?_, cross_ok ?_, cross_ok ?_,
    ⟨?_, completes_ok ?_, noWaitT⟩, ?_, ?_, ?_, ?_, ?_⟩ <;> decide +kernel

/-- MOVS at every scope. -/
theorem witness_SpecialRegisterReads : stT.formed ∧ stT.selects isT ∧
    (∀ sc ∈ [0, 1, 2, 3], xT.legal (({ hi := false : Acc }).scoped sc (sc == 2)) [⟨scopeClass sc, 8, 1, false⟩] true = true ∧
      xT.goes sc (xT.goY sc) ∧ xT.allReady sc (xT.goY sc) false 7 [] [8]) ∧
    -- what the records of the launch say
    (0 < (stT.launch 0).rcd.blkX ∧ 0 < (stT.launch 0).rcd.blkY ∧ (stT.launch 0).rcd.blkX * (stT.launch 0).rcd.blkY < 2 ^ 32) ∧
    (stT.blk 0).handlerOf 0 = none := by
  have h : ([0, 1, 2, 3].all fun sc => xT.legal (({ hi := false : Acc }).scoped sc (sc == 2)) [⟨scopeClass sc, 8, 1, false⟩] true &&
    xT.goB sc && xT.readyB sc false 7 [] [8]) = true := by decide +kernel
  simp only [List.all_eq_true, Bool.and_eq_true] at h
  exact ⟨formedT, selectsT, fun sc hs => ⟨(h sc hs).1.1, goes_ok (h sc hs).1.2, allReady_ok (h sc hs).2⟩,
    by decide +kernel, by decide +kernel⟩

theorem completesT : xT.completes (.warp 0) 15 stT.sT stT.yT := completes_ok (by decide +kernel)

theorem witness_BranchCallResults : stT.formed ∧ stT.selects isT ∧ xT.w.noWait ∧ xT.completes (.warp 0) 15 stT.sT stT.yT ∧
    (∀ b, xT.legal { imm := some 8, mod := b, k := b } [⟨.k, 11, 1, false⟩] = true) ∧
    (∀ l ∈ lanesOf isT.lanes, (xT.w.lane l).guard false 7 = true ∧ (xT.w.lane l).full 63 = true) ∧
    xT.legal {} [⟨.v, 62, 2, false⟩] = true ∧ xT.legal {} [⟨.v, 61, 1, false⟩] = true ∧
    ∀ l ∈ lanesOf isT.lanes, (readiness (xT.w.lane l).view [⟨62, 2, false, .own⟩] [63] = .go) ∧ ((xT.w.lane l).reg 62).toNat % 4 = 0 := by
  refine ⟨formedT, selectsT, noWaitT, completesT, ?_, ?_, ?_, ?_, ?_⟩ <;> decide +kernel

theorem witness_MaskWaitResults : stT.formed ∧ stT.selects isT ∧ xT.w.noWait ∧ xT.completes (.warp 0) 15 stT.sT stT.yT ∧
    (∀ b, ∀ p ∈ maskEffects b 11 11 15 31 31, xT.legal { mod := b, k := b } p.2.1 = true) ∧
    xT.legal {} [⟨.kd, 11, 1, false⟩] = true ∧ xT.w.mask 11 &&& xT.w.live &&& ~~~isT.lanes = 0 := by
  refine ⟨formedT, selectsT, noWaitT, completesT, ?_, ?_, ?_⟩ <;> decide +kernel

/-! ### Barriers, threads, handlers and counters -/

/-- The warp's wait changed. -/
def State.withWait (s : State) (k : WaitFor) : State := s.withW fun w => { w with wait := some k }

theorem formed_all {ss : List State} (h : ss.all State.formedB = true) :
    ∀ s ∈ ss, s.formed := fun s hs => formed_ok (List.all_eq_true.mp h s hs)

/-- A warp-scope instruction on w registers issues in the small device. -/
theorem uniformT {s : State} {acc : Acc} {ops : List Opd} {extra : Bool}
    (h : ((Ex.of s isT).legal { acc with mod := true, k := true } ops extra &&
      !((Ex.of s isT).w.lane (lowest isT.lanes)).replay && (Ex.of s isT).arrives (.warp 0) 15 &&
      (Ex.of s isT).pf.modOf.k.toNat == 15) = true) :
    (Ex.of s isT).uniformGoes acc ops extra s.sT s.yT := by
  simp only [Bool.and_eq_true, Bool.not_eq_true', beq_iff_eq] at h
  refine ⟨h.1.1.1, h.1.1.2, ?_⟩
  rw [h.2]
  exact completes_ok h.1.2

/-- A block waiting in BARW, its barrier's phase not yet passed and just passed. -/
def barT (p : Word) : State := (stT.withWait (.barrier 15 7 0 1)).withB fun b => { b with bars := b.bars.set 15 ⟨0, 0, p⟩ }

theorem noDeqT : stT.noDeq 0 := fun _ ho => nomatch ho

theorem witness_BarrierResults : stT.formed ∧ stT.selects isT ∧
    (∀ sc ∈ [1, 2, 3], ∃ u s1 y, xT.legal { mod := true, k := sc == 1 || sc == 2, ss := sc == 2, ord := [3] } [] = true ∧
      xT.unit sc = some u ∧ xT.completes u 15 s1 y) ∧ stT.noDeq 0 ∧
    xT.uniformGoes { ord := [2] } [wOpd 8 1, wOpd 31 1, litOpd 15 15] true stT.sT stT.yT ∧
    xT.uniformGoes {} [wOpd 8 2, litOpd 0 15] true stT.sT stT.yT ∧
    xT.legal { mod := true, k := true, ord := [1] } [wOpd 8 1, litOpd 15 15] = true ∧
    xT.completes (.warp 0) 15 stT.sT stT.yT ∧
    ∀ p ∈ [7, 8], (barT p).formed ∧ (barT p).runs 0 ∧ ((barT p).warp 0 0).wait = some (.barrier 15 7 0 1) := by
  refine ⟨formedT, selectsT, ?_, noDeqT, uniformT ?_, uniformT ?_, ?_, completesT, ?_⟩
  · intro sc hs
    simp only [List.mem_cons, List.not_mem_nil, or_false] at hs
    rcases hs with rfl | rfl | rfl
    · exact ⟨.warp 0, _, _, by decide +kernel, by decide +kernel, completes_ok (by decide +kernel)⟩
    · exact ⟨.set 0, _, _, by decide +kernel, by decide +kernel, completes_ok (by decide +kernel)⟩
    · exact ⟨.block, _, _, by decide +kernel, by decide +kernel, completes_ok (by decide +kernel)⟩
  · decide +kernel
  · decide +kernel
  · decide +kernel
  · intro p hp
    have h : ([7, 8].all fun p => (barT p).formedB && decide ((barT p).blk 0).halt.isNone &&
      (((barT p).blk 0).phase == .running) && ((barT p).warp 0 0).wait == some (.barrier 15 7 0 1)) = true := by decide +kernel
    have := List.all_eq_true.mp h p hp
    simp only [Bool.and_eq_true, beq_iff_eq, decide_eq_true_eq] at this
    exact ⟨formed_ok (by simpa using this.1.1.1), ⟨this.1.2, by simpa using this.1.1.2⟩, this.2⟩

/-- Lane 0 in some status. -/
def laneIn (k : LaneStatus) : State := stT.withL fun l => { l with status := k }

/-- The small device with its block halted at lane 0 by BREAK, and in its handler. -/
def haltT (h : Halt → Halt) : State :=
  (stT.withC fun c => { c with handler := 0x2000 }).withB fun b => { b with halt := some (h ⟨⟨0, .break_, 1, 1, 0, [], List.replicate 32 1, 0, [], false⟩, [true], [0], [], false, false⟩) }

theorem witness_ThreadResults : stT.formed ∧ stT.selects isT ∧ xT.legal {} [] = true ∧
    (∀ sc ∈ [0, 1, 2, 3], xT.legal { mod := sc == 1 || sc == 2, k := sc == 1 || sc == 2, ss := sc == 2 } [] = true ∧
      xT.goes sc (xT.goY sc)) ∧
    xT.legal {} [⟨.v, 63, 1, false⟩] = true ∧ (∀ l ∈ lanesOf isT.lanes, readiness (xT.w.lane l).view [⟨63, 1, false, .own⟩] [] = .go) ∧
    xT.uniformGoes {} [wOpd 31 1, litOpd 3 3] true stT.sT stT.yT ∧
    (∀ k ∈ [.sleep 0, .sleep 1, .stl 0, .stl 1], (laneIn k).formed ∧ ((laneIn k).lane 0 0 0).status = k) ∧
    -- in a handler
    ((haltT fun h => { h with handler := true }).selects isT ∧
      (Ex.of (haltT fun h => { h with handler := true }) isT).b.inHandler 0 = true) := by
  have h : ([0, 1, 2, 3].all fun sc => xT.legal { mod := sc == 1 || sc == 2, k := sc == 1 || sc == 2, ss := sc == 2 } [] &&
    xT.goB sc) = true := by decide +kernel
  simp only [List.all_eq_true, Bool.and_eq_true] at h
  have h2 : ([.sleep 0, .sleep 1, .stl 0, .stl 1].all fun k => (laneIn k).formedB &&
    ((laneIn k).lane 0 0 0).status == k) = true := by decide +kernel
  refine ⟨formedT, selectsT, ?_, fun sc hs => ⟨(h sc hs).1, goes_ok (h sc hs).2⟩, ?_, ?_, uniformT ?_, fun k hk => ?_, selects_ok ?_, ?_⟩
  · decide +kernel
  · decide +kernel
  · decide +kernel
  · decide +kernel
  · have := List.all_eq_true.mp h2 k hk
    simp only [Bool.and_eq_true, beq_iff_eq] at this
    exact ⟨formed_ok this.1, this.2⟩
  · decide +kernel
  · decide +kernel

/-- A trap of another warp waits for the handler. -/
def State.withPending (s : State) (w : Nat) : State :=
  s.withB fun b => { b with halt := b.halt.map fun h => { h with pending := [{ h.trap with warp := w }] } }

/-- Two warps, the first at fault. -/
def haltT2 (stopped : List Bool) : State :=
  (haltT fun h => { h with stopped := stopped }).withB fun b => { b with warps := [warpT, warpT] }

theorem witness_TrapEntryAndReturn :
    ((haltT2 [true, false]).formed ∧ ∃ h, ((haltT2 [true, false]).blk 0).halt = some h ∧ 1 ≠ h.trap.warp ∧
      h.stopped.length = ((haltT2 [true, false]).blk 0).warps.length ∧ h.stopped.getD 1 true = false) ∧
    ((haltT id).formed ∧ ∃ h, ((haltT id).blk 0).halt = some h ∧ h.trap.warp < ((haltT id).blk 0).warps.length ∧ h.lost = false ∧
      h.handler = false ∧ (∀ x ∈ h.stopped, x = true) ∧ (haltT id).fillsBusy 0 = false ∧
      ((haltT id).ctx ((haltT id).blk 0).ctx).handler ≠ 0) ∧
    let s := haltT fun h => { h with handler := true }
    s.formed ∧ s.selects isT ∧ (Ex.of s isT).legal { mod := true } [] = true ∧
      (∃ h, (Ex.of s isT).b.halt = some h ∧ h.handler = true ∧ h.trap.warp = 0 ∧ h.pending = [] ∧ (s.blk 0).mismatches = []) ∧
      -- a second warp's trap waits
      (∃ h, (((haltT2 [true, true]).withPending 1).blk 0).halt = some h ∧ h.pending ≠ []) ∧
      (Ex.of s isT).completes (.warp 0) 15 s.sT s.yT := by
  refine ⟨⟨formed_ok ?_, _, rfl, ?_, ?_, ?_⟩, ⟨formed_ok ?_, _, rfl, ?_, ?_, ?_, ?_, ?_, ?_⟩, formed_ok ?_, selects_ok ?_, ?_, ⟨_, rfl, ?_, ?_, ?_, ?_⟩,
    ⟨_, rfl, ?_⟩, completes_ok ?_⟩ <;> decide +kernel

/-- A device with an instance of lane 0 at the warp's rendezvous, all its lanes arrived or none. -/
def rdvT (m : Word) : State := stT.withB fun b => { b with insts := [⟨.warp 0, 0x1000, [1], [m], false, 0⟩] }

theorem formed_rdv (m : Word) : (rdvT m).formed := by
  refine ⟨⟨fun b hb => ?_, fun c hc => formedT.1.2.1 c hc, formedT.1.2.2⟩, memOk_ok (by simp [rdvT, State.memB, State.withB, stT, blockT]; decide)⟩
  have hb' : b = { blockT with insts := [⟨.warp 0, 0x1000, [1], [m], false, 0⟩] } := by simpa [rdvT, State.withB, stT] using hb
  have h0 := formedT.1.1 blockT (by simp [stT])
  subst hb'
  refine ⟨h0.1, h0.2.1, h0.2.2.1, h0.2.2.2.1, h0.2.2.2.2.1, fun y hy => ?_⟩
  simp only [List.mem_singleton] at hy
  subst hy
  exact ⟨rfl, rfl, fun i h => by simp at h, fun w0 h w hw => by
    simp only [RdvUnit.warp.injEq] at h
    subst h
    rcases w with _ | w
    · simp at hw
    · rfl⟩

theorem witness_RendezvousCompletes : ∀ m ∈ [0, 1], (rdvT m).formed ∧ ((rdvT m).blk 0).halt = none ∧
    ∃ y, ((rdvT m).blk 0).insts[0]? = some y ∧ y.granted = false :=
  fun m _ => ⟨formed_rdv m, rfl, _, rfl, rfl⟩

/-- A SYSC that stalls on the ring of its context, its instance waiting. -/
def ringT (full : Bool) : State :=
  let s := (rdvT 1).withW fun w => { w with wait := some (.ring 1 2 3 0x1000), lanes := w.lanes.map fun l => { l with status := if l.status == .ready then .stall .ring else l.status } }
  { (s.withB fun b => { b with insts := b.insts.map fun y => { y with granted := true } }).withC fun c =>
      { c with svcProd := if full then 4 else 0 } with stalls := [⟨0, .ring, 0, 0, 0, false⟩] }

/-- A walk that wants a page. -/
def walkT : Walk :=
  { id := 0, cl := 0, blk := 0, warp := 0, ctx := 0, desc := List.replicate 128 0, phase := .main, nodes := [], subs := [], todo := [],
    passed := [], deferred := [], cur := none, curT := none, pages := [], want := none, code := 0, nDefer := 0, firstF := 0, late := 0,
    nVisit := 0, nRevisit := 0, nPage := 0, sectors := [], written := false }

def wantT : State := { stT with walks := [{ walkT with want := some (1, 0x4000) }] }

theorem formed_ring (full : Bool) : (ringT full).formed := by
  refine ⟨⟨fun b hb => ?_, fun c hc => formedT.1.2.1 c hc, formedT.1.2.2⟩,
    memOk_ok (by simp [ringT, rdvT, State.memB, State.withB, State.withC, State.withW, stT, blockT]; decide)⟩
  have hb' : b = { (rdvT 1).blk 0 with
      warps := (((rdvT 1).blk 0).warps.map fun w => { w with wait := some (.ring 1 2 3 0x1000), lanes := w.lanes.map fun l => { l with status := if l.status == .ready then .stall .ring else l.status } }),
      insts := [⟨.warp 0, 0x1000, [1], [1], true, 0⟩] } := by
    simpa [ringT, State.withB, State.withC, State.withW, rdvT, stT, State.blk] using hb
  subst hb'
  have h0 := formedT.1.1 blockT (by simp [stT])
  refine ⟨h0.1, h0.2.1, h0.2.2.1, ?_, h0.2.2.2.2.1, fun y hy => ?_⟩
  · intro w hw
    simp only [List.mem_map] at hw
    obtain ⟨w0, hw0, rfl⟩ := hw
    have h1 := h0.2.2.2.1 w0 hw0
    exact ⟨by simpa using h1.1, h1.2.1, h1.2.2.1, fun l hl => by
      simp only [List.mem_map] at hl
      obtain ⟨l0, hl0, rfl⟩ := hl
      exact h1.2.2.2 l0 hl0⟩
  · simp only [List.mem_singleton] at hy
    subst hy
    exact ⟨rfl, rfl, fun i h => by simp at h, fun w0 h w hw => by
      simp only [RdvUnit.warp.injEq] at h
      subst h
      rcases w with _ | w
      · simp at hw
      · rfl⟩

theorem witness_ServiceCall :
    (stT.formed ∧ stT.selects isT ∧ xT.legal { mod := true, k := true } [wOpd 8 1, wOpd 16 1, wOpd 31 1] = true ∧
      xT.completes (.warp 0) 15 stT.sT stT.yT ∧ (stT.ctx? xT.b.ctx).isSome ∧
      (stT.sT.releaseLanes 0 0 ((xT.b.needed stT.yT).getD 0 0) 4).ringFree (stT.ctx xT.b.ctx) = true ∧ stT.stalls = [] ∧
      stT.noDeq 0 ∧ ∀ k, (stT.walks.getD k default).want = none) ∧
    let waits (s : State) (r : StallRec) : Bool := r.ctx == 0 && r.on == .ring && (s.blk r.blk).warpRuns r.warp
    (stT.stalls.find? (waits stT) = none ∧ stT.wantingWalk 0 = none) ∧
    ((ringT true).stalls.find? (waits (ringT true)) = some ⟨0, .ring, 0, 0, 0, false⟩ ∧ (ringT true).ringFree ((ringT true).ctx 0) = false) ∧
    (wantT.stalls.find? (waits wantT) = none ∧ wantT.wantingWalk 0 = some (0, 1, 0x4000) ∧ wantT.ringFree (wantT.ctx 0) = true ∧
      (wantT.ctx? 0).isSome ∧ wantT.formed) ∧
    let s := ringT false
    s.formed ∧ s.stalls.find? (waits s) = some ⟨0, .ring, 0, 0, 0, false⟩ ∧ s.ringFree (s.ctx 0) = true ∧ (s.ctx? 0).isSome ∧
      (s.blk 0).ctx = 0 ∧ (s.warp 0 0).wait = some (.ring 1 2 3 0x1000) ∧
      (s.blk 0).insts.find? (fun y => y.u == .warp 0 && y.granted && y.addr == 0x1000) = some ⟨.warp 0, 0x1000, [1], [1], true, 0⟩ := by
  refine ⟨⟨formedT, selectsT, ?_, completesT, ?_, ?_, rfl, noDeqT, fun k => rfl⟩, ⟨rfl, ?_⟩, ⟨?_, ?_⟩, ⟨?_, ?_, ?_, ?_, formed_ok ?_⟩,
    formed_ring false, ?_, ?_, ?_, ?_, ?_, ?_⟩ <;> decide +kernel

/-- A device whose launch's context has a threshold of 1 on counter 0. -/
def threshT : State := stT.withC fun c => { c with thresh := c.thresh.set 0 1 }

theorem witness_EventCounters : stT.formed ∧ stT.selects isT ∧ 0 < (stT.sT.countAtoms 0 0).launches.length ∧
    ((stT.sT.countAtoms 0 0).launch 0).fpx.length = 24 ∧ stT.atoms = [] ∧
    xT.uniformGoes {} [wOpd 8 1, wOpd 16 1] true stT.sT stT.yT ∧
    (threshT.launch 0).fpx.length = 24 ∧ ((threshT.ctx (threshT.launch 0).rcd.ctx).thresh.getD 0 0).toNat = 1 ∧ stT.noThreshold 0 ∧
    isT.lanes = 1#32 <<< 0 ∧ (RegInstr.binary .fadd { rm := true } (fun _ a _ => a) (faT 0)).ready xT := by
  refine ⟨formedT, selectsT, ?_, ?_, rfl, uniformT ?_, ?_, ?_, quietT, ?_, ready_ok ?_⟩ <;> decide +kernel

/-! ### Memory -/

/-- An instruction that reaches memory may go on in a state with its block calm: the hypotheses of the statements on memory. -/
def MemForm.goesIn (m : Ex → MemForm) (s : State) : Prop :=
  let x := Ex.of s isT
  s.formed ∧ s.selects isT ∧ s.calm 0 ∧ (m x).issues x (x.goY (m x).sc)

def MemForm.goesB (m : Ex → MemForm) (s : State) : Bool :=
  let x := Ex.of s isT
  s.formedB && s.selB isT && s.calmB && (m x).issuesB x

theorem mem_ok {m : Ex → MemForm} {s : State} (h : MemForm.goesB m s = true) : MemForm.goesIn m s := by
  simp only [MemForm.goesB] at h
  rw [Bool.and_eq_true, Bool.and_eq_true, Bool.and_eq_true] at h
  exact ⟨formed_ok h.1.1.1, selects_ok h.1.1.2, calm_ok 0 h.1.2, issues_ok h.2⟩

/-- Everyone's access at an address passes its checks and lands at one physical address. -/
def MemForm.reaches (m : Ex → MemForm) (s : State) (addr : Party → DWord) (n : Nat) (k : Access) (pa : Nat) : Prop :=
  let x := Ex.of s isT
  ∀ p, (m x).acting x (x.goY (m x).sc) p → s.maps 0 (addr p) n k 3 pa

theorem reach_ok {m : Ex → MemForm} {s : State} {addr : Party → DWord} {n : Nat} {k : Access} {pa : Nat}
    (h : (((Ex.of s isT).parties (m (Ex.of s isT)).sc ((Ex.of s isT).goY (m (Ex.of s isT)).sc)).all fun p => s.mapsB 0 (addr p) n k 3 pa) = true) :
    MemForm.reaches m s addr n k pa := fun p hp => maps_ok (List.all_eq_true.mp h p hp.1)

/-- What holds of everyone who acts, checked. -/
theorem all_ok {m : MemForm} {x : Ex} {y : Inst} {P : Party → Prop} {B : Party → Bool} (hb : ∀ p, B p = true → P p)
    (h : ((x.parties m.sc y).all B) = true) : ∀ p, m.acting x y p → P p := fun p hp => hb p (List.all_eq_true.mp h p hp.1)

/-- Lane 0 with a prefix run. -/
def State.withRun (s : State) (r : List Prefix) : State := s.withL fun l => { l with run := r, runStart := 0xFFC }

/-- Scopes of memory instructions. -/
def memScopes : List (BitVec 2) := [0, 1, 2]

theorem scopes_ok {P : BitVec 2 → Prop} {B : BitVec 2 → Bool} (hb : ∀ sc, B sc = true → P sc) (h : memScopes.all B = true) :
    ∀ sc ∈ memScopes, P sc := fun sc hs => hb sc (List.all_eq_true.mp h sc hs)

/-- A launch with a window of 16 bytes at 0x5000. -/
def winT : State :=
  { stT with launches := [{ launchT with rcd := { loadRecord with windows := [some ⟨0x5000, 16⟩] } }] }

/-- One party alone acts at lane scope. -/
theorem alone_ok {m : MemForm} {x : Ex} {y : Inst} {p : Party} (h : m.sc = 0) (hl : lanesOf x.is.lanes = [p.lane])
    (hp : p = ⟨x.is.warp, p.lane, x.w.lane p.lane, (x.w.lane p.lane).view⟩) (hg : p.self.guard m.gn m.gp = true) : m.alone x y p := by
  have hs : x.parties m.sc y = [p] := by
    rw [h]
    simp only [Ex.parties, hl, List.map_cons, List.map_nil]
    rw [← hp]
  refine ⟨⟨by rw [hs]; simp, hg⟩, fun q hq => ?_⟩
  have := hq.1
  rw [hs] at this
  simp only [List.mem_singleton] at this
  rw [this]

/-- Lane 0's part. -/
def State.partyT (s : State) : Party :=
  let x := Ex.of s isT
  ⟨0, 0, x.w.lane 0, (x.w.lane 0).view⟩

theorem witness_LoadResults :
    (∀ sc ∈ memScopes, MemForm.goesIn (ldForm ⟨sc, 8, 16, false, 2, 0, 127⟩) stT ∧
      MemForm.reaches (ldForm ⟨sc, 8, 16, false, 2, 0, 127⟩) stT (fun p => p.addr 16 127 4) 4 .load 508) ∧
    (let s := stT.withRun [.ord ⟨1, 1⟩];
      MemForm.goesIn (ldForm ⟨0, 8, 16, false, 2, 0, 127⟩) s ∧
      MemForm.reaches (ldForm ⟨0, 8, 16, false, 2, 0, 127⟩) s (fun p => p.addr 16 127 4) 4 .load 508 ∧ (Ex.of s isT).pf.sem = 1 ∧
      (ldForm ⟨0, 8, 16, false, 2, 0, 127⟩ (Ex.of s isT)).alone (Ex.of s isT) default s.partyT) ∧
    (∀ sc ∈ memScopes, MemForm.goesIn (ldsForm ⟨sc, 8, 16, false, 3, 127⟩) stT ∧
      ∀ p, (ldsForm ⟨sc, 8, 16, false, 3, 127⟩ xT).acting xT (xT.goY sc.toNat) p →
        xT.spFits (p.offset 16 127 8) 8 ∧ xT.b.spPoisoned (p.offset 16 127 8) 8 = false) ∧
    -- the last word of a window, and the first past its end
    (winT.launch 0).rcd.windows.getD 0 none = some ⟨0x5000, 16⟩ ∧
    (∀ sc ∈ memScopes, MemForm.goesIn (fun _ => ldpForm ⟨sc, 8, 16, false, 2, 0, 3⟩) winT ∧
      MemForm.reaches (fun _ => ldpForm ⟨sc, 8, 16, false, 2, 0, 3⟩) winT (fun p => 0x5000 + BitVec.ofNat 64 ((p.view.val 16).toNat + 12)) 4 .load 0x500C ∧
      MemForm.goesIn (fun _ => ldpForm ⟨sc, 8, 63, false, 2, 0, 4⟩) winT) := by
  refine ⟨scopes_ok (B := fun sc => MemForm.goesB (ldForm ⟨sc, 8, 16, false, 2, 0, 127⟩) stT &&
      (xT.parties sc.toNat (xT.goY sc.toNat)).all fun p => stT.mapsB 0 (p.addr 16 127 4) 4 .load 3 508) (fun sc h => ?_) ?_,
    ⟨mem_ok ?_, reach_ok ?_, ?_, alone_ok rfl ?_ rfl ?_⟩,
    scopes_ok (B := fun sc => MemForm.goesB (ldsForm ⟨sc, 8, 16, false, 3, 127⟩) stT &&
      (xT.parties sc.toNat (xT.goY sc.toNat)).all fun p => decide (p.offset 16 127 8 % 8 = 0 ∧ p.offset 16 127 8 + 8 ≤ xT.b.spSize) &&
        !xT.b.spPoisoned (p.offset 16 127 8) 8) (fun sc h => ?_) ?_, ?_,
    scopes_ok (B := fun sc => MemForm.goesB (fun _ => ldpForm ⟨sc, 8, 16, false, 2, 0, 3⟩) winT &&
      ((Ex.of winT isT).parties sc.toNat ((Ex.of winT isT).goY sc.toNat)).all (fun p =>
        winT.mapsB 0 (0x5000 + BitVec.ofNat 64 ((p.view.val 16).toNat + 12)) 4 .load 3 0x500C) &&
      MemForm.goesB (fun _ => ldpForm ⟨sc, 8, 63, false, 2, 0, 4⟩) winT) (fun sc h => ?_) ?_⟩
  · rw [Bool.and_eq_true] at h
    exact ⟨mem_ok h.1, reach_ok h.2⟩
  · decide +kernel
  · decide +kernel
  · decide +kernel
  · decide +kernel
  · decide +kernel
  · decide +kernel
  · rw [Bool.and_eq_true] at h
    refine ⟨mem_ok h.1, all_ok (fun p hp => ?_) h.2⟩
    rw [Bool.and_eq_true, decide_eq_true_eq, Bool.not_eq_true'] at hp
    exact hp
  · decide +kernel
  · decide +kernel
  · rw [Bool.and_eq_true, Bool.and_eq_true] at h
    exact ⟨mem_ok h.1.1, reach_ok h.1.2, mem_ok h.2⟩
  · decide +kernel

theorem witness_StoreResults :
    (∀ sc ∈ memScopes, MemForm.goesIn (stForm ⟨sc, false, 7, 16, 24, 2, 63⟩ false) stT ∧
      MemForm.reaches (stForm ⟨sc, false, 7, 16, 24, 2, 63⟩ false) stT (fun p => p.addr 16 63 4) 4 .store 252) ∧
    -- ST.mc
    (let s := stT.withRun [.mod ⟨15, 0, false, 0, false, false, 0, true, false, false⟩];
      MemForm.goesIn (stForm ⟨0, false, 7, 16, 24, 2, 63⟩ false) s ∧
      MemForm.reaches (stForm ⟨0, false, 7, 16, 24, 2, 63⟩ false) s (fun p => p.addr 16 63 4) 4 .store 252 ∧
      (Ex.of s isT).pf.modOf.hi = true ∧
      (stForm ⟨0, false, 7, 16, 24, 2, 63⟩ false (Ex.of s isT)).alone (Ex.of s isT) default s.partyT) ∧
    ∀ sc ∈ memScopes, MemForm.goesIn (stForm ⟨sc, false, 7, 16, 24, 3, 63⟩ true) stT ∧
      ∀ p, (stForm ⟨sc, false, 7, 16, 24, 3, 63⟩ true xT).acting xT (xT.goY sc.toNat) p → xT.spFits (p.offset 16 63 8) 8 := by
  refine ⟨scopes_ok (B := fun sc => MemForm.goesB (stForm ⟨sc, false, 7, 16, 24, 2, 63⟩ false) stT &&
      (xT.parties sc.toNat (xT.goY sc.toNat)).all fun p => stT.mapsB 0 (p.addr 16 63 4) 4 .store 3 252) (fun sc h => ?_) ?_,
    ⟨mem_ok ?_, reach_ok ?_, ?_, alone_ok rfl ?_ rfl ?_⟩,
    scopes_ok (B := fun sc => MemForm.goesB (stForm ⟨sc, false, 7, 16, 24, 3, 63⟩ true) stT &&
      (xT.parties sc.toNat (xT.goY sc.toNat)).all fun p => decide (p.offset 16 63 8 % 8 = 0 ∧ p.offset 16 63 8 + 8 ≤ xT.b.spSize))
      (fun sc h => ?_) ?_⟩
  · rw [Bool.and_eq_true] at h
    exact ⟨mem_ok h.1, reach_ok h.2⟩
  · decide +kernel
  · decide +kernel
  · decide +kernel
  · decide +kernel
  · decide +kernel
  · decide +kernel
  · rw [Bool.and_eq_true] at h
    exact ⟨mem_ok h.1, all_ok (fun p hp => by rw [decide_eq_true_eq] at hp; exact hp) h.2⟩
  · decide +kernel

def warpSc (b : Bool) : BitVec 2 := if b then 1 else 0

theorem bools_ok {P : Bool → Prop} {B : Bool → Bool} (hb : ∀ b, B b = true → P b) (h : ([false, true].all B) = true) : ∀ b, P b := by
  intro b
  cases b
  · exact hb _ (List.all_eq_true.mp h false (by simp))
  · exact hb _ (List.all_eq_true.mp h true (by simp))

/-- An access of lane or warp scope may go on at both and lands at one place. -/
def bothReach (m : Bool → Ex → MemForm) (addr : Party → DWord) (n : Nat) (k : Access) (pa : Nat) : Prop :=
  ∀ b, MemForm.goesIn (m b) stT ∧ MemForm.reaches (m b) stT addr n k pa

theorem bothReach_ok {m : Bool → Ex → MemForm} {addr : Party → DWord} {n : Nat} {k : Access} {pa : Nat}
    (h : ([false, true].all fun b => MemForm.goesB (m b) stT &&
      (xT.parties (m b xT).sc (xT.goY (m b xT).sc)).all fun p => stT.mapsB 0 (addr p) n k 3 pa) = true) : bothReach m addr n k pa :=
  bools_ok (fun b hb => by
    rw [Bool.and_eq_true] at hb
    exact ⟨mem_ok hb.1, reach_ok hb.2⟩) h

def bothGo (m : Bool → Ex → MemForm) : Prop := ∀ b, MemForm.goesIn (m b) stT

theorem bothGo_ok {m : Bool → Ex → MemForm} (h : ([false, true].all fun b => MemForm.goesB (m b) stT) = true) : bothGo m :=
  bools_ok (fun _ hb => mem_ok hb) h

/-- The small device without translations. -/
def bareT : State := stT.withD fun d => { d with tlb := [] }

/-- PIN of the line at A. -/
def pinT (b : Bool) : MemForm :=
  memcForm b [] [⟨scopeClass (warpSc b).toNat, 8, 1, false⟩, ⟨scopeClass (warpSc b).toNat, 16, 2, false⟩] [⟨16, 2, false, .own⟩] [8]

/-- An address that no buffer and no page table of the small device translates. -/
def pairLess (va : DWord) : Prop := bareT.lookup (corePlace 0) 0 va = none ∧ ∃ c, bareT.walk 0 va = .inl c

theorem witness_FenceCacheResults :
    bothGo (fun b _ => memcForm b [1, 2, 3] [] [] []) ∧
    bothReach (fun b _ => memcForm b [] [⟨scopeClass (warpSc b).toNat, 8, 1, false⟩, ⟨scopeClass (warpSc b).toNat, 16, 2, false⟩]
      [⟨16, 2, false, .own⟩] [8]) (fun p => p.addr 16 0 1) 1 .load 0 ∧
    bothReach (fun b _ => lineForm ⟨b, 16, false⟩ true) (fun p => p.addr 16 0 1) 1 .load 0 ∧
    bothReach (fun b _ => lineForm ⟨b, 16, true⟩ true) (fun p => p.addr 16 0 1) 1 .load 0 ∧
    bothGo (fun b _ => lineForm ⟨b, 0, true⟩ false) ∧
    (MemForm.goesIn (fun _ => lineForm ⟨false, 16, false⟩ true) bareT ∧ canonical (bareT.partyT.addr 16 0 1) = true ∧
      bareT.lookup (corePlace 0) 0 (bareT.partyT.addr 16 0 1) = none) ∧
    xT.uniformGoes {} [wOpd 31 1] true stT.sT stT.yT ∧
    xT.legal {} [wOpd 8 1, wOpd 16 1] = true ∧ xT.completes .block 15 (xT.stateAt .block 15) (xT.instAt .block 15) ∧
    stT.spBusy 0 = false ∧ (∀ o ∈ stT.stores, o.blk = 0 → o.scratch = false) ∧ stT.noDeq 0 ∧ stT.noRelease 0 0 ∧
    -- PIN of an address without a translation, at both scopes; a lane that acts alone
    (∀ b, MemForm.goesIn (fun _ => pinT b) bareT ∧ pairLess (bareT.partyT.addr 16 0 1)) ∧
    (pinT false).alone xT default stT.partyT := by
  refine ⟨bothGo_ok ?_, bothReach_ok ?_, bothReach_ok ?_, bothReach_ok ?_, bothGo_ok ?_, ⟨mem_ok ?_, ?_, ?_⟩, uniformT ?_, ?_,
    completes_ok ?_, ?_, ?_, noDeqT, ⟨fun _ h => (nomatch h), fun _ h => (nomatch h), fun _ h => (nomatch h)⟩,
    bools_ok (B := fun b => MemForm.goesB (fun _ => pinT b) bareT) (fun b h => ⟨mem_ok h, rfl, _, rfl⟩) ?_, alone_ok rfl ?_ rfl ?_⟩
  all_goals decide +kernel

/-- A load, a store and an atomic of the small device on their way. -/
def loadT (scratch : Bool) (size first : Nat) (half : Option (Bool × List Byte)) : LoadOp :=
  { id := 7, blk := 0, warp := 0, lane := 0, dest := .v 0 first, pa := 0x2000, size := size, sx := true, hint := 0, scratch := scratch,
    half := half }

def storeT (scratch core : Bool) (n : Nat) (rel : Option Rel) : StoreOp :=
  { id := 7, blk := 0, warp := 0, lane := 0, scratch := scratch, pas := [0x2070], bytes := List.replicate n 1, multicast := false,
    atCore := core, issue := 0, rel := rel }

def atomT (scratch : Bool) (early : Option Nat) : AtomOp :=
  { id := 0, blk := 0, warp := 0, lane := 0, opn := .add, pa := 0x2004, b := 1, b2 := 0, dest := some (.v 0 63), issue := 0,
    scratch := scratch, early := early.map (BitVec.ofNat 32) }

def relT : Rel := { ms := 4, lanes := 1, first := 0 }

theorem witness_AccessesPerformed :
    (∀ q ∈ [(true, 4, 63, none), (true, 16, 60, none), (false, 8, 62, none), (false, 16, 60, none), (false, 16, 60, some (true, List.replicate 8 (1 : Byte)))],
      let o := loadT q.1 q.2.1 q.2.2.1 q.2.2.2
      let s := { stT with loads := [o] }
      s.formed ∧ s.loads.find? (fun x => x.id == o.id && s.isFirst x.pend) = some o ∧ (s.lane 0 0 0).live = true ∧
      o.size ∈ [1, 2, 4, 8, 16] ∧ o.pa % o.size = 0 ∧ q.2.2.1 + max 1 (o.size / 4) ≤ 64) ∧
    (∀ q ∈ [(true, false, 4, none), (true, false, 16, none), (false, false, 16, none), (false, false, 8, some relT), (false, true, 8, none)],
      let o := storeT q.1 q.2.1 q.2.2.1 q.2.2.2
      let s := { stT with stores := [o] }
      s.formed ∧ s.stores.find? (fun x => x.id == o.id && (x.atCore || s.isFirst x.pend)) = some o ∧
      s.syncInFlight 0 0x2070 = false ∧ 0x2070 % 128 + o.bytes.length ≤ 128 ∧ (s.blk 0).coreNo < s.cores.length) ∧
    let s := { bareT with pageWalks := [⟨0, 0, 0x1000, true⟩] }
    canonical 0x1000 = true ∧ s.lookup (corePlace 0) 0 0x1000 = none ∧ coreDie 0 < s.dies.length ∧
      (∀ q ∈ s.pageWalks.take 0, s.sameWalk ⟨0, 0, 0x1000, true⟩ q = false) ∧ (s.ctx 0).sealed_ = false ∧
      (∀ c ∈ s.ctxs, c.sealed_ = false) ∧ (s.walksBefore 0 ⟨0, 0, 0x1000, true⟩).length < s.walksOf 0 0 := by
  refine ⟨fun q hq => ⟨formedT, ?_⟩, fun q hq => ⟨formedT, ?_⟩, ?_, ?_, ?_, ?_, ?_, ?_, ?_⟩
  all_goals try decide +kernel
  all_goals revert q; decide +kernel

theorem homesFit_ok {s : State} {c : Nat} {pas : Nat → Prop} (h : s.atoms = []) : s.homesFit c pas := by
  intro a _
  simp [h, Config.aswQueue]

theorem witness_AtomicResults :
    bothReach (fun b _ => atomForm ⟨b, false, 7, 8, 16, 24⟩ false 1) (fun p => p.addr 16 0 4) 4 .atomic 0 ∧
    bothReach (fun b _ => atomForm ⟨b, false, 7, 8, 16, 24⟩ false 2) (fun p => p.addr 16 0 4) 4 .atomic 0 ∧
    (let s := stT.withRun [.ord ⟨3, 4⟩];
      MemForm.goesIn (fun _ => atomForm ⟨false, false, 7, 8, 16, 24⟩ false 1) s ∧
      MemForm.reaches (fun _ => atomForm ⟨false, false, 7, 8, 16, 24⟩ false 1) s (fun p => p.addr 16 0 4) 4 .atomic 0 ∧
      (Ex.of s isT).pf.sem = 3) ∧
    bothReach (fun b _ => redForm ⟨b, false, 7, 16, 24, false⟩) (fun p => p.addr 16 0 4) 4 .atomic 0 ∧
    (∀ pas, stT.homesFit 0 pas) ∧
    (bothGo (fun b _ => atomForm ⟨b, false, 7, 8, 16, 24⟩ true 2) ∧ bothGo (fun b _ => redForm ⟨b, false, 7, 16, 24, true⟩) ∧
      xT.spFits (stT.partyT.offset 16 0 4) 4) ∧
    (∀ q ∈ [(true, none), (false, none), (false, some 5)], let o := atomT q.1 q.2
      let s := { stT with atoms := [o], nextId := 1 }
      s.formed ∧ s.atoms.find? (fun x => x.id == o.id) = some o ∧ s.isFirst o.pend = true ∧ o.pa % 4 = 0 ∧ s.noThreshold 0 ∧
      (s.core 0).l1 = []) ∧
    (let r : ReplyOp := { id := 7, blk := 0, warp := 0, lane := 0, dest := .v 0 63, vals := [5], pois := false, acq := some 4 }
      let s := { stT.withL fun l => { l with status := .held 0 } with replies := [r] }
      s.formed ∧ s.replies.find? (fun x => x.id == r.id) = some r ∧ (s.lane 0 0 0).live = true ∧ (s.lane 0 0 0).status = .held 0) := by
  refine ⟨bothReach_ok ?_, bothReach_ok ?_, ⟨mem_ok ?_, reach_ok ?_, ?_⟩, bothReach_ok ?_, fun _ => homesFit_ok rfl,
    ⟨bothGo_ok ?_, bothGo_ok ?_, ?_⟩, fun q hq => ⟨formed_ok ?_, ?_, ?_, ?_, quietT, rfl⟩, formed_ok ?_, ?_, ?_, ?_⟩
  all_goals first | decide +kernel | (unfold Ex.spFits; decide +kernel) | (revert q; decide +kernel)

/-- A pipe entry of the warp, its writes drained up to its stamp, or not. -/
def pipeT (stamp : Word) : State :=
  stT.withB fun b => { b with pipes := b.pipes.set 15 [⟨List.replicate 8 9, stamp, 0⟩] }

def popT (stamp : Word) : State := (pipeT stamp).withWait (.pop 15 24 0)

theorem canPop_ok {b : Block} {p : Nat} (h : (match (b.pipes.getD p [])[0]? with
    | some e => decide (((b.warp e.warp).drained - e.stamp).toNat < 2 ^ 31)
    | none => false) = true) : b.canPop p := by
  split at h
  · next e he => exact ⟨e, he, by simpa using h⟩
  · simp at h

theorem noPop_ok {b : Block} {p : Nat} (h : (b.warps.all fun W => W.wait.isNone) = true) : b.noPop p := by
  intro W hW q d k hk
  have := List.all_eq_true.mp h W hW
  simp [hk] at this

theorem witness_SyncWordResults : stT.formed ∧ stT.selects isT ∧ stT.calm 0 ∧
    xT.uniformGoes {} [wOpd 8 1, wOpd 16 1] true stT.sT stT.yT ∧ xT.spFits (xT.w.reg 8).toNat 16 ∧
    xT.uniformGoes {} [wOpd 8 1, wOpd 16 2] true stT.sT stT.yT ∧
    xT.uniformGoes {} [wOpd 8 1, wOpd 16 1, wOpd 24 1] true stT.sT stT.yT ∧
    -- the generation not yet passed, and passed
    (∀ g ∈ [0, 0xFFFFFFFF], let s := stT.withWait (.sync 16368 g 31)
      s.formed ∧ s.runs 0 ∧ (s.warp 0 0).wait = some (.sync 16368 g 31)) ∧
    -- the head drained, and not drained
    ∀ k ∈ [0, 1], (popT k).formed ∧ (popT k).runs 0 ∧ ((popT k).warp 0 0).wait = some (.pop 15 24 0) ∧
      ∃ e, (((popT k).blk 0).pipes.getD 15 [])[0]? = some e ∧ e.words.length = 8 := by
  refine ⟨formedT, selectsT, calmT, uniformT ?_, ?_, uniformT ?_, uniformT ?_, fun g hg => ?_, fun k hk => ?_⟩
  · decide +kernel
  · unfold Ex.spFits; decide +kernel
  · decide +kernel
  · decide +kernel
  · simp only [List.mem_cons, List.not_mem_nil, or_false] at hg
    rcases hg with rfl | rfl <;> exact ⟨formed_ok (by decide +kernel), ⟨rfl, rfl⟩, rfl⟩
  · simp only [List.mem_cons, List.not_mem_nil, or_false] at hk
    rcases hk with rfl | rfl <;> exact ⟨formed_ok (by decide +kernel), ⟨rfl, rfl⟩, rfl, _, rfl, rfl⟩

theorem witness_PipeResults : stT.formed ∧ stT.selects isT ∧
    xT.uniformGoes {} [wOpd 24 8, litOpd 15 15] true stT.sT stT.yT ∧ (xT.b.pipes.getD 15 []).length < Config.pipe ∧
    xT.uniformGoes {} [wOpd 8 1, wOpd 24 8, litOpd 15 15] true stT.sT stT.yT ∧
    xT.uniformGoes {} [wOpd 16 8, litOpd 15 15] (decide (16 + 9 ≤ 32)) stT.sT stT.yT ∧
    xT.uniformGoes {} [wOpd 8 1, litOpd 15 15] true stT.sT stT.yT ∧ (xT.b.pipes.getD 15 []).length ≤ 15 ∧ xT.b.noPop 15 ∧
    -- an entry at the head, drained or not
    ∀ k ∈ [0, 1], let s := pipeT k
      s.formed ∧ s.selects isT ∧ (Ex.of s isT).uniformGoes {} [wOpd 24 8, litOpd 15 15] true s.sT s.yT ∧ (Ex.of s isT).b.noPop 15 ∧
      ((Ex.of s isT).b.canPop 15 ↔ k = 0) ∧ ∃ e, ((s.blk 0).pipes.getD 15 [])[0]? = some e ∧ e.words.length = 8 := by
  refine ⟨formedT, selectsT, uniformT ?_, ?_, uniformT ?_, uniformT ?_, uniformT ?_, ?_, noPop_ok ?_, fun k hk => ?_⟩
  all_goals try decide +kernel
  simp only [List.mem_cons, List.not_mem_nil, or_false] at hk
  rcases hk with rfl | rfl
  · exact ⟨formed_ok (by decide +kernel), selects_ok (by decide +kernel), uniformT (by decide +kernel), noPop_ok (by decide +kernel),
      ⟨fun _ => rfl, fun _ => canPop_ok (by decide +kernel)⟩, _, rfl, rfl⟩
  · refine ⟨formed_ok (by decide +kernel), selects_ok (by decide +kernel), uniformT (by decide +kernel), noPop_ok (by decide +kernel),
      ⟨fun h => ?_, fun h => by simp at h⟩, _, rfl, rfl⟩
    obtain ⟨e, he, h⟩ := h
    have he' : e = ⟨List.replicate 8 9, 1, 0⟩ := (Option.some.inj he).symm
    subst he'
    exact absurd h (by decide +kernel)

/-- The context with one entry in its queue, and one that drains. -/
def queueT (es : List QEntry) (p : PreState) : State := stT.withC fun c => { c with queues := [⟨es, true, false⟩], preState := p }

def freshT : QEntry := ⟨List.replicate 8 3, none⟩

theorem witness_DequeueResults :
    (∀ q ∈ [([], PreState.draining), ([], .running), ([freshT], .running)], let s := queueT q.1 q.2
      s.formed ∧ s.selects isT ∧ (deqForm ⟨56, 0⟩).issues (Ex.of s isT) default ∧ isT.lanes = 1#32 <<< 0 ∧ s.deqWaits = [] ∧
      s.runs 0 ∧ (s.ctx? 0).isSome ∧ (s.queueOf 0 0).enable = true ∧ (s.ctx 0).held 0 0 < 64) ∧
    let s := { queueT [freshT] .running with deqWaits := [⟨7, 0, 0, 0, 56, 0, 0x1000⟩] }
    s.formed ∧ s.runs 0 ∧ (s.lane 0 0 0).live = true ∧ (s.ctx? 0).isSome ∧ (s.ctx 0).preState ≠ .draining ∧
      (s.queueOf 0 0).enable = true ∧ (s.ctx 0).held 0 0 < 64 ∧ (s.queueOf 0 0).entries = [⟨List.replicate 8 3, none⟩] := by
  refine ⟨fun q hq => ?_, formedT, ⟨rfl, rfl⟩, rfl, rfl, ?_, rfl, ?_, rfl⟩
  · simp only [List.mem_cons, List.not_mem_nil, or_false] at hq
    rcases hq with rfl | rfl | rfl <;>
      exact ⟨formedT, selects_ok (by decide +kernel), issues_ok (by decide +kernel), rfl, rfl, ⟨rfl, rfl⟩, rfl, rfl, by decide +kernel⟩
  · decide +kernel
  · decide +kernel

theorem witness_TaskResults : stT.formed ∧ stT.selects isT ∧ stT.calm 0 ∧ (stT.ctx? 0).isSome ∧
    (stT.die (stT.ctx 0).taskDie).fired.length + stT.ctrOps.length < Config.firedBuffer ∧ bothGo (fun b _ => taskForm b [(8, 2)]) ∧
    bothGo (fun b _ => taskForm b [(8, 1), (16, 1)]) ∧ bothGo (fun b _ => taskForm b [(8, 1)]) ∧
    (taskForm false [(8, 2)]).alone xT default stT.partyT ∧
    xT.uniformGoes {} [wOpd 8 2] true stT.sT stT.yT ∧ (stT.queueOf 0 0).entries.length < 65536 ∧
    MemForm.goesIn (fun _ => enqForm ⟨false, false, 7, 0, 56⟩) stT ∧ (stT.queueOf 0 0).fits 1 ∧
    xT.legal { mod := true, k := true } [⟨.v, 56, 8, false⟩] = true ∧ xT.completes (.warp 0) 15 stT.sT stT.yT ∧
    (∀ l ∈ lanesOf ((xT.b.needed stT.yT).getD 0 0), readiness (xT.w.lane l).view [⟨56, 8, false, .own⟩] [] = .go) ∧
    (stT.queueOf 0 0).fits (xT.enqLanes stT.yT false 7).length := by
  refine ⟨formedT, selectsT, calmT, rfl, ?_, bothGo_ok ?_, bothGo_ok ?_, bothGo_ok ?_, alone_ok rfl ?_ rfl ?_, uniformT ?_, ?_,
    mem_ok ?_, ?_, ?_, completesT, ?_, ?_⟩
  all_goals first | decide +kernel | (unfold TaskQ.fits; decide +kernel)

/-- A counter operation on the counter of the small device in some state. -/
def ctrT (c : Counter) (i : Word) (k : CtrKind) : State := { stT.withD fun d => { d with counters := [c] } with ctrOps := [{ ctx := 0, index := i, kind := k }] }

def armedT (n : Word) : Counter := ⟨n, 0, .armed, false, List.replicate 8 0⟩

theorem witness_CounterOperation :
    (∀ q ∈ [(Counter.reset, 0, CtrKind.done false), (armedT 1, 1, .done false), ({ armedT 1 with st := .fired }, 0, .cancel), (armedT 1, 0, .done true),
        (armedT 2, 0, .depadd 0xFFFFFFFF)], let s := ctrT q.1 q.2.1 q.2.2
      s.ctrOps = [{ ctx := 0, index := q.2.1, kind := q.2.2 }] ∧ (s.ctx? 0).isSome ∧ (s.ctx 0).taskDie < s.dies.length ∧
      (s.ctx 0).cbase + (s.ctx 0).ccount ≤ (s.die (s.ctx 0).taskDie).counters.length ∧
      (s.die (s.ctx 0).taskDie).fired.length < Config.firedBuffer) ∧
    -- a full buffer, before and after the operation stalls
    (∀ q ∈ [false, true], let s := { (ctrT (armedT 1) 0 (.done true)).withD fun d => { d with fired := List.replicate Config.firedBuffer (0, 0, []) } with
        ctrOps := [{ ctx := 0, index := 0, kind := .done true, stuck := q }] }
      0 < (s.ctx 0).ccount ∧ (s.counterAt 0 0).st = .armed ∧ (counterAfter (s.counterAt 0 0) (.done true)).count = 0 ∧
        Config.firedBuffer ≤ (s.die (s.ctx 0).taskDie).fired.length) ∧
    let s := stT.withD fun d => { d with fired := [(0, 0, List.replicate 8 0)] }
    0 < s.dies.length ∧ (s.ctx? 0).isSome ∧ (s.die 0).fired = [(0, 0, List.replicate 8 0)] ∧ 0 < (s.ctx 0).queues.length ∧
      (s.queueOf 0 0).fits 1 := by
  refine ⟨?_, ?_, ?_, ?_, ?_, ?_, ?_⟩
  all_goals first | decide +kernel | (unfold TaskQ.fits; decide +kernel)

/-! ### Prefix words, the life of a block, copies and windows -/

theorem witness_PrefixResults : stT.formed ∧ stT.selects isT := ⟨formedT, selectsT⟩

/-- The small device with its launch changed. -/
def State.withN (s : State) (f : Launch → Launch) : State := { s with launches := s.launches.map f }

def placeT : State := stT.withN fun L => { L with next := 0 }

def bindT : Binding := ⟨0, 0, 64, 0x3000, 0, 8, 0, 0, 0⟩

def prologueT (bs : List Binding) : State :=
  (stT.withB fun b => { b with phase := .prologue 0 }).withN fun L => { L with rcd := { L.rcd with bindings := bs } }

def waitT (c : Nat) : State := { stT.withD fun d => { d with waits := [⟨0, 5, false⟩] } with cycle := c }

/-- The block's lanes have exited; its launch comes again where it is persistent and its context drains. -/
def deadT (again : Bool) : State :=
  ((stT.withW fun w => { w with live := 0 }).withN fun L => { L with rcd := { L.rcd with persistent := again } }).withC fun c =>
    { c with preState := .draining }

theorem witness_BlockLife :
    (let L := placeT.launch 0; 0 < placeT.launches.length ∧ placeT.pendingOn 0 L = true ∧ L.rcd.persistent = false ∧
      placeT.mayPlace 0 L.rank L.rcd.demand = true ∧ (placeT.findCore 0 L.rcd.demand).isSome = true) ∧
    (∀ c ∈ [16388, 16389], 0 < (waitT c).dies.length ∧ ((waitT c).die 0).waits = [⟨0, 5, false⟩]) ∧
    (0 < (prologueT []).blocks.length ∧ ((prologueT []).blk 0).phase = .prologue 0 ∧ ((prologueT []).launch 0).status = 0 ∧
      ((prologueT []).launch 0).rcd.bindings.length ≤ 0) ∧
    (let s := prologueT [bindT]; (s.blk 0).phase = .prologue 0 ∧ (s.launch 0).status = 0 ∧ (s.launch 0).rcd.bindings[0]? = some bindT ∧ (s.launch 0).snap = s.mem ∧ s.formed ∧
      ∃ s' bs, s.readVa (s.blk 0).die (s.blk 0).ctx (bindT.src + BitVec.ofNat 64 ((s.blk 0).index * bindT.stride)) bindT.len = (s', .inr bs)) ∧
    ∀ c, (deadT c).runs 0 ∧ (∀ w ∈ ((deadT c).blk 0).warps, w.live = 0) ∧ (deadT c).calm 0 ∧ (∀ o ∈ (deadT c).ctrOps, o.blk ≠ 0) ∧
      (deadT c).enginesBusy 0 = false ∧ ((deadT c).blk 0).launch < (deadT c).launches.length ∧ (deadT c).comesAgain 0 = c := by
  have h : (match (prologueT [bindT]).readVa ((prologueT [bindT]).blk 0).die ((prologueT [bindT]).blk 0).ctx
      (bindT.src + BitVec.ofNat 64 (((prologueT [bindT]).blk 0).index * bindT.stride)) bindT.len with
    | (_, .inr _) => true
    | _ => false) = true := by decide +kernel
  refine ⟨?_, ?_, ?_, ⟨rfl, rfl, rfl, rfl, formed_ok ?_, ?_⟩, fun c => ⟨⟨rfl, rfl⟩, ?_, calm_ok 0 ?_, ?_, ?_, ?_, ?_⟩⟩
  case refine_5 =>
    split at h
    · next s' bs hs => exact ⟨s', bs, hs⟩
    · simp at h
  all_goals first | decide +kernel | (cases c <;> decide +kernel)

def endT : State := stT.withN fun L => { L with exited := 1, rcd := { L.rcd with doneCtr := 0x4000 } }

/-- A saved parent, its child done. -/
def parentT : State :=
  { stT.withB fun b => { b with phase := .saved, spawnD := 31 } with launches := [launchT, { launchT with parent := some 0, depth := 1, phase := .done }] }

theorem opens_ok {s : State} {d c : Nat} {va : DWord} {n : Nat} {k : Access}
    (h : (match (s.xlate d c va n k).2 with | .ok _ pa => s.poisoned pa n == false | _ => false) = true) :
    ∃ e pa, (s.xlate d c va n k).2 = .ok e pa ∧ s.poisoned pa n = false := by
  split at h
  · next e pa hx => exact ⟨e, pa, hx, by simpa using h⟩
  · simp at h

theorem witness_LaunchEnds :
    (let L := endT.launch 0; 0 < endT.launches.length ∧ L.phase = .running ∧ L.exited = L.next ∧ L.next = L.rcd.blocks ∧ L.again = [] ∧
      L.rcd.report = 0 ∧ (endT.ctx L.rcd.ctx).cring = 0 ∧ L.rcd.doneCtr ≠ 0 ∧ ∃ e pa, (endT.xlate L.home L.rcd.ctx L.rcd.doneCtr 8 .atomic).2 = .ok e pa ∧
        endT.poisoned pa 8 = false) ∧
    (∀ n ∈ [7, 8], let s := stT.withB fun b => { b with depth := n }
      s.formed ∧ s.selects isT ∧ (Ex.of s isT).legal { ord := [2] } [wOpd 8 1, wOpd 16 2] = true ∧
      (∃ s1 y, (Ex.of s isT).completes .block 15 s1 y) ∧ canonical 0 = true ∧ (Ex.of s isT).b.halt = none ∧ s.enginesBusy 0 = false ∧
      s.fillsBusy 0 = false) ∧
    parentT.formed ∧ parentT.inService 0 = true ∧ parentT.resumable 0 = true ∧
      parentT.mayPlace 0 (parentT.launch (parentT.blk 0).launch).rank (parentT.blk 0).demand = true ∧
      (parentT.findCore 0 (parentT.blk 0).demand).isSome = true ∧ (parentT.blk 0).spawnD < 32 ∧
      ((parentT.launches.filter fun L => L.parent == some 0).getLast?).isSome := by
  refine ⟨⟨?_, ?_, ?_, ?_, ?_, ?_, ?_, ?_, opens_ok ?_⟩, ?_, formed_ok ?_, ?_, ?_, ?_, ?_, ?_, ?_⟩
  case refine_10 =>
    intro n hn
    simp only [List.mem_cons, List.not_mem_nil, or_false] at hn
    rcases hn with rfl | rfl <;> exact ⟨formed_ok (by decide +kernel), selects_ok (by decide +kernel), by decide +kernel,
      ⟨_, _, completes_ok (by decide +kernel)⟩, by decide +kernel, rfl, by decide +kernel, by decide +kernel⟩
  all_goals decide +kernel

/-- Bytes at the start of the block's scratchpad. -/
def State.withSp (s : State) (bs : List Byte) : State := s.withB fun b => { b with sp := Memory.writeBytes [] 0 bs }

/-- A linear copy of 16 bytes in scratchpad with a sync word, on queue 7; one to memory; and an indexed copy. -/
def linT : List Byte := leBytes 8 64 ++ leBytes 8 128 ++ leBytes 4 16 ++ leBytes 4 256 ++ [3, 7] ++ List.replicate 6 0

def linMcT : List Byte := leBytes 8 64 ++ leBytes 8 128 ++ leBytes 4 16 ++ leBytes 4 0xFFFFFFFF ++ [1, 0] ++ List.replicate 6 0

def idxT : List Byte := leBytes 8 64 ++ leBytes 4 16 ++ leBytes 4 8 ++ leBytes 4 128 ++ leBytes 4 0xFFFFFFFF ++ leBytes 4 16 ++ [0, 1, 0, 0]

def copyT (runs : List CopyRun) : CopyOp :=
  { id := 7, blk := 0, warp := 0, q := 7, ticket := 0, runs := runs, sync := some 256, multicast := false, failed := false, err := 0,
    faddr := 0, sectors := [], after := [] }

def copiesT (runs : List CopyRun) : State := { stT with copies := [copyT runs] }

theorem postsT {d : List Byte} {acc : Acc} {ops : List Opd} {extra : Bool}
    (h : ((Ex.of (stT.withSp d) isT).legal { acc with mod := true, k := true } ops extra &&
      !((Ex.of (stT.withSp d) isT).w.lane (lowest isT.lanes)).replay && (Ex.of (stT.withSp d) isT).arrives (.warp 0) 15 &&
      (Ex.of (stT.withSp d) isT).pf.modOf.k.toNat == 15 && (stT.withSp d).formedB &&
      (stT.withSp d).selB isT) = true) :
    (stT.withSp d).formed ∧ (stT.withSp d).selects isT ∧ (stT.withSp d).still 0 ∧
      (Ex.of (stT.withSp d) isT).uniformGoes acc ops extra (stT.withSp d).sT (stT.withSp d).yT := by
  rw [Bool.and_eq_true, Bool.and_eq_true] at h
  exact ⟨formed_ok h.1.2, selects_ok h.2, still_ok (by rfl), uniformT h.1.1⟩

theorem witness_CopyResults :
    (∀ q ∈ [(linT, false), (linMcT, true)], let s := stT.withSp q.1
      (s.formed ∧ s.selects isT ∧ s.still 0 ∧ (Ex.of s isT).uniformGoes { ord := [2] } [wOpd 8 1, wOpd 16 1] true s.sT s.yT) ∧
      (Ex.of s isT).descriptor 0 ∧ (Ex.of s isT).b.spField 25 1 < 8 ∧ s.copies = [] ∧ linearGood (Ex.of s isT).b 0 q.2) ∧
    (let s := stT.withSp idxT;
      s.formed ∧ s.selects isT ∧ (Ex.of s isT).legal { mod := true, k := true, ord := [2] } [wOpd 8 1, wOpd 16 1, ⟨.v, 24, 1, false⟩] = true ∧
      (Ex.of s isT).completes (.warp 0) 15 s.sT s.yT ∧ (Ex.of s isT).descriptor 0 ∧
      (indexPlan (Ex.of s isT).b.spSize (Memory.readBytes (Ex.of s isT).b.sp 0 32) [(0, 0)]).q < 8 ∧
      (indexPlan (Ex.of s isT).b.spSize (Memory.readBytes (Ex.of s isT).b.sp 0 32) [(0, 0)]).bad = false) ∧
    xT.uniformGoes {} [wOpd 31 1] true stT.sT stT.yT ∧ xT.uniformGoes {} [wOpd 8 2, wOpd 16 1] true stT.sT stT.yT ∧
    (let s := copiesT [⟨some 64, true, 128, true, 16, 0⟩]; let o := copyT [⟨some 64, true, 128, true, 16, 0⟩];
      s.formed ∧ s.copies.find? (fun x => x.id == o.id && !x.failed && !x.runs.isEmpty && s.copyMayStart x) = some o ∧
      (∀ x ∈ s.copies, x.id = o.id → x = o) ∧ s.calm 0 ∧ ∀ r ∈ o.runs, r.dstSp = true ∧ 4 ≤ r.len ∧ r.len % 4 = 0) ∧
    let s := copiesT []; let o := copyT []
    s.formed ∧ s.copies.find? (fun x => x.id == o.id) = some o ∧ o.runs = [] ∧ o.failed = false ∧ s.copyMayStart o = true ∧
      (s.copies.filter fun x => x.blk == 0 && x.q == 7).head? = some o := by
  refine ⟨?_, ⟨formed_ok ?_, selects_ok ?_, ?_, completes_ok ?_, ?_, ?_, ?_⟩, uniformT ?_, uniformT ?_,
    ⟨formedT, ?_, ?_, calm_ok 0 ?_, ?_⟩, formedT, ?_, rfl, rfl, ?_, ?_⟩
  case refine_1 =>
    intro q hq
    simp only [List.mem_cons, List.not_mem_nil, or_false] at hq
    rcases hq with rfl | rfl <;> exact ⟨postsT (by decide +kernel), by unfold Ex.descriptor; decide +kernel, by decide +kernel,
      rfl, by unfold linearGood; decide +kernel⟩
  all_goals first | decide +kernel | (unfold Ex.descriptor; decide +kernel)

/-- A put record, without and with a signal. -/
def putT (signal : Bool) : List Byte :=
  leBytes 8 0x100 ++ leBytes 4 8 ++ leBytes 4 64 ++ [0, 1, 0, 0] ++ leBytes 4 (if signal then 5 else 0) ++ List.replicate 8 0

/-- A frame of 8 bytes for the handle of the small device, and its put. -/
def frameT (signal : Bool) : Frame :=
  { id := 7, put := some 6, signal := signal, spkg := 0, tpkg := 0, tctx := 0, thandle := 0, seq := 1, toff := 8, last := 16, src := 0, srcSp := true,
    len := 8, data := some [1, 2, 3, 4, 5, 6, 7, 8], sig := 5, sent := 0, tries := 0, onWay := true }

def frameState (signal : Bool) : State :=
  { stT with frames := [frameT signal], puts := [⟨6, 0, 0, 0, 0, [], false, 0, 0⟩] }

/-- A frame of a kind from another package, to a package. -/
def wireT (kind tpkg : Nat) : WireFrame :=
  { id := 9, header := [1, BitVec.ofNat 8 kind, 5, 0] ++ leBytes 2 tpkg ++ leBytes 2 0 ++ leBytes 4 1 ++ leBytes 4 8 ++ leBytes 8 8, data := List.replicate 8 2 }

def winWaitT (v : Word) : State := stT.withWait (.window 0 false v 31)

theorem range_ok {s : State} {d c : Nat} {k : Access} {f : Nat} {va : DWord} {n : Nat}
    (h : (s.xlateRange d c k f va n).2.2.isNone = true) : ∃ s' rs, s.xlateRange d c k f va n = (s', rs, none) := by
  rcases hx : s.xlateRange d c k f va n with ⟨s', rs, o⟩
  rw [hx] at h
  cases o with
  | none => exact ⟨s', rs, rfl⟩
  | some x => simp at h

theorem witness_WindowResults :
    xT.uniformGoes {} [wOpd 8 2, wOpd 16 1] true stT.sT stT.yT ∧ xT.uniformGoes {} [wOpd 8 1, wOpd 16 1, wOpd 24 1] true stT.sT stT.yT ∧
    (∀ b, let s := stT.withSp (putT b)
      (s.formed ∧ s.selects isT ∧ s.still 0 ∧ (Ex.of s isT).uniformGoes { ord := [2] } [wOpd 8 1, wOpd 16 1] true s.sT s.yT) ∧
      (Ex.of s isT).descriptor 0 ∧ putGood (Ex.of s isT).b 0 b ∧ (s.handleOf 0 0).valid = true ∧ (s.ctx? 0).isSome ∧
      0 < (s.ctx 0).handles.length ∧ (s.handleOf 0 0).tpkg = 0xFFFF) ∧
    (∀ v ∈ [0, 1], (winWaitT v).formed ∧ (winWaitT v).runs 0 ∧ ((winWaitT v).warp 0 0).wait = some (.window 0 false v 31)) ∧
    (∀ b, let s := frameState b; let g := frameT b
      (∃ s' rs, s.xlateRange (s.ctx g.tctx).taskDie g.tctx .store (rangeFuel 8) ((s.handleOf 0 0).lbase + BitVec.ofNat 64 g.toff) 8 = (s', rs, none)) ∧
      s.frames.find? (fun x => x.id == g.id && x.signal == g.signal) = some g ∧ g.data.isSome = true ∧ g.left = none ∧ g.onWay = true ∧ g.put = some 6 ∧
      0 < (s.ctx 0).handles.length ∧ g.tpkg = s.pkgId ∧ s.takesFrames g.tctx = true ∧
      s.taken g = false ∧ (s.ctx? g.tctx).isSome ∧ (s.handleOf 0 0).valid = true ∧ g.last ≤ (s.handleOf 0 0).lsize.toNat ∧ g.toff % 4 = 0 ∧
      s.signalReady g = true) ∧
    (∀ b, let s := { frameState true with answers := [(7, b)] }
      s.frames.find? (fun x => x.id == 7) = some (frameT true) ∧ (7, b) ∈ s.answers ∧ (frameT true).tries < 16 ∧
      (s.puts.find? (fun x => (frameT true).put == some x.id)).isSome ∧ ∀ x ∈ s.frames, x.put = (frameT true).put → x.id = 7) ∧
    (let s := { frameState true with cycle := 20 * Config.usCycles, pkgId := 1 };
      s.frames.find? (fun x => x.id == (frameT true).id) = some (frameT true) ∧ (frameT true).data.isSome = true ∧
      (frameT true).tries < 16 ∧ (frameT true).tpkg ≠ s.pkgId ∧ (frameT true).sent + 20 * Config.usCycles ≤ s.cycle) ∧
    -- a frame on the wire, for this package and for another
    ∀ q ∈ [(0, 0), (1, 3)], let s := { stT with wire := [wireT q.1 q.2] }
      s.frames = [] ∧ fieldAt (wireT q.1 q.2).header 1 1 = q.1 ∧
      s.wire.find? (fun y => y.id == 9 && (fieldAt y.header 1 1 == 1) == (q.1 == 1) && fieldAt y.header 1 1 ≤ 1) = some (wireT q.1 q.2) := by
  refine ⟨uniformT ?_, uniformT ?_, bools_ok (B := fun _ => true) (fun b _ => ?_) rfl, ?_, bools_ok (B := fun _ => true) (fun b _ => ?_) rfl, ?_, ?_, ?_⟩
  · decide +kernel
  · decide +kernel
  · cases b <;> exact ⟨postsT (by decide +kernel), by unfold Ex.descriptor; decide +kernel, by unfold putGood; decide +kernel,
      by decide +kernel, rfl, by decide +kernel, by decide +kernel⟩
  · intro v hv
    simp only [List.mem_cons, List.not_mem_nil, or_false] at hv
    rcases hv with rfl | rfl <;> exact ⟨formed_ok (by decide +kernel), ⟨rfl, rfl⟩, rfl⟩
  · cases b <;> exact ⟨range_ok (by decide +kernel), by decide +kernel⟩
  · decide +kernel
  · decide +kernel
  · decide +kernel

def State.withMem (s : State) (a : Nat) (bs : List Byte) : State := { s with mem := Memory.writeBytes s.mem a bs }

theorem sees_ok {s : State} {d c : Nat} {va : DWord} {n : Nat} {bs : List Byte}
    (h : (decide (placeDie d < s.dies.length) && decide (s.readVa d c va n = (s, .inr bs))) = true) : s.sees d c va n bs := by
  rw [Bool.and_eq_true, decide_eq_true_eq, decide_eq_true_eq] at h
  exact h

theorem triple_ok {α β γ : Type} {x : α × β × γ} {a : α} {b : β} {c : γ} (h1 : x.1 = a) (h2 : x.2.1 = b) (h3 : x.2.2 = c) :
    x = (a, b, c) := by
  rw [← h1, ← h2, ← h3]

theorem opensIn_ok {s : State} {d c : Nat} {va : DWord} {n : Nat} {k : Access} {pa : Nat}
    (h : (decide (placeDie d < s.dies.length) && decide (s.xlate d c va n k = (s, .ok 3 pa))) = true) : s.opens d c va n k 3 pa := by
  rw [Bool.and_eq_true, decide_eq_true_eq, decide_eq_true_eq] at h
  exact h

theorem runAt_ok {s : State} {d c : Nat} {va : DWord} {n p : Nat}
    (h : (decide (placeDie d < s.dies.length) && decide ((s.xlateRange d c .store (rangeFuel n) va n).1 = s) &&
      (s.xlateRange d c .store (rangeFuel n) va n).2.1 == [(va, p, n, 3)] &&
      (s.xlateRange d c .store (rangeFuel n) va n).2.2.isNone) = true) : s.runAt d c va n p := by
  simp only [Bool.and_eq_true, decide_eq_true_eq, beq_iff_eq, Option.isNone_iff_eq_none] at h
  exact ⟨h.1.1.1, 3, triple_ok h.1.1.2 h.1.2 h.2⟩

/-- A block before its only binding, of a kind, its source at 0x3000, with the launch's copy of memory. -/
def transformT (z : Binding) (bs : List Byte) : State :=
  let s := (prologueT [z]).withMem 0x3000 bs
  s.withN fun L => { L with snap := s.mem }

/-- A chunk of four literals, and one of a literal and a match of five bytes one back. -/
def chunkT : List (List Byte) := [lzBytes [⟨[7], 1, 5⟩] [9, 9], lzBytes [] [1, 2, 3, 4]]

def decodedT : List (List Byte) := [[7, 7, 7, 7, 7, 7, 9, 9], [1, 2, 3, 4]]

def expandT : Binding := { bindT with kind := 1, len := 12, aux := 1 }

def quantT : Binding := { bindT with kind := 2, fmt := 11, rows := 2, cols := 2, aux := 16 }

def turnT : Binding := { bindT with kind := 3, fmt := 3, rows := 2, cols := 2 }

theorem chunkT_ok : chunksOf 8 chunkT [] decodedT := by
  refine ⟨by decide, by decide, by decide, by decide, by decide +kernel, by decide, fun c hc => ?_⟩
  rcases c with _ | _ | c
  · exact ⟨⟨[⟨[7], 1, 5⟩], [9, 9], [7, 7, 7, 7, 7, 7, 9, 9], rfl, rfl, rfl⟩, rfl⟩
  · exact ⟨⟨[], [1, 2, 3, 4], [1, 2, 3, 4], rfl, rfl, rfl⟩, by decide, by decide⟩
  · simp only [chunkT, List.length_cons, List.length_nil] at hc
    omega

/-- The bytes of a block where a die's engine reads them. -/
theorem feeds_ok {s : State} {d c : Nat} {va : DWord} {bs : List Byte} (h : ((List.range bs.length).all fun i =>
    match (s.xlate d c (va + BitVec.ofNat 64 i) 1 .load).2 with
    | .ok _ pa => !s.poisoned pa 1 && Memory.read s.mem pa == bs.getD i 0
    | .fault _ => false) = true) : s.feeds d c va bs := by
  intro i hi
  have := List.all_eq_true.mp h i (List.mem_range.mpr hi)
  split at this
  · next e pa hx =>
    rw [Bool.and_eq_true, Bool.not_eq_true', beq_iff_eq] at this
    simp [State.byteAt, hx, this.1, this.2]
  · simp at this

theorem witness_BlockLife_transforms :
    (let s := placeT.withN fun L => { L with rcd := { L.rcd with persistent := true } }; let L := s.launch 0;
      s.pendingOn 0 L = true ∧ L.rcd.persistent = true ∧ s.mayPlace 0 L.rank L.rcd.demand = true ∧
      (s.placeWhole 0 ((s.eligible L).filter fun d => s.isOpen d L.rank)).isSome = true) ∧
    (let s := transformT expandT (container 8 chunkT);
      s.formed ∧ s.binding 0 0 expandT ∧ s.feeds 0 0 (s.bindingSrc 0 expandT) (container 8 chunkT) ∧
      decodedT.flatten.length = expandT.len) ∧
    (let s := transformT quantT [];
      s.formed ∧ s.binding 0 0 quantT ∧ s.sees 0 0 0x3000 4 (List.replicate 4 0) ∧ s.sees 0 0 0x3010 4 (List.replicate 4 0)) ∧
    (let s := transformT turnT [];
      s.formed ∧ s.binding 0 0 turnT ∧ s.sees 0 0 0x3000 8 (List.replicate 8 0)) := by
  refine ⟨?_, ⟨formed_ok ?_, ?_, feeds_ok ?_, ?_⟩, ⟨formed_ok ?_, ?_, ?_, ?_⟩, ⟨formed_ok ?_, ?_, ?_⟩⟩
  all_goals first | decide +kernel | (unfold State.binding; decide +kernel) | (unfold State.sees; decide +kernel)

/-- A launch that ends with a completion record, a report and a counter. -/
def endsT : State :=
  (endT.withN fun L => { L with rcd := { L.rcd with report := 0x5000 }, fpx := List.replicate 24 0 }).withC fun c =>
    { c with cring := 0x6000, cringN := 4 }

/-- A record of one block of one thread, without tables. -/
def childT : List Byte :=
  fields [(8, 0x7000), (4, 1), (2, 1), (2, 1), (2, 1), (1, 1), (1, 1), (1, 8), (1, 0), (2, 0), (4, 0), (1, 0), (1, 0), (1, 4), (97, 0)]

theorem noRoom_ok {s : State} (h : (s.ctx 0).arenaMB = 0) : ∀ off, ¬s.arenaFree 0 (saveBytesOf (s.blk 0)) off := by
  intro off ⟨h1, _⟩
  simp only [h, saveBytesOf] at h1
  omega

theorem witness_LaunchEnds_records :
    (let s := endsT; let L := s.launch 0; let c := s.ctx 0;
      s.formed ∧ L.phase = .running ∧ L.fpx.length = 24 ∧ c.cring ≠ 0 ∧ L.rcd.report ≠ 0 ∧ L.rcd.doneCtr ≠ 0 ∧
      s.runAt 0 0 (c.cring + BitVec.ofNat 64 (128 * (c.cringSeq.toNat % c.cringN.toNat))) 128 0x6000 ∧ s.runAt 0 0 0x5000 64 0x5000 ∧
      s.opens 0 0 0x4000 8 .atomic 3 0x4000 ∧ s.poisoned 0x4000 8 = false) ∧
    (stT.still 0 ∧ (∃ r e, stT.takeRecord 0 0 0 (some loadRecord) = (stT, .inr (.inl (r, e)))) ∧
      ∃ a, bareT.takeRecord 0 0 0 (some loadRecord) = (bareT, .inl a)) ∧
    (let s := stT.withMem 0 childT;
      s.formed ∧ s.still 0 ∧ (∃ r, s.takeRecord 0 0 0 (some loadRecord) = (s, .inr (.inr r))) ∧ s.sees 0 0 0 128 childT ∧
      spawnCode childT = 0 ∧ (∀ off, ¬s.arenaFree 0 (saveBytesOf (s.blk 0)) off) ∧
      (s.withC fun c => { c with arenaMB := 1 }).arenaFree 0 (saveBytesOf (s.blk 0)) 0) := by
  refine ⟨⟨formed_ok ?_, ?_, ?_, ?_, ?_, ?_, ⟨?_, 3, ?_⟩, ⟨?_, 3, ?_⟩, ?_, ?_⟩, ⟨stillT, ⟨_, _, rfl⟩, ⟨_, rfl⟩⟩,
    formed_ok ?_, still_ok ?_, ⟨_, rfl⟩, ?_, ?_, noRoom_ok ?_, ?_⟩
  all_goals first | decide +kernel | (unfold State.opens; decide +kernel) | (unfold State.sees; decide +kernel) | (unfold State.arenaFree; decide +kernel)

/-- A copy's only run, from scratchpad and from memory, to scratchpad and to memory. -/
def pieceT (srcSp dstSp : Bool) : CopyRun := ⟨some (if srcSp then 64 else 0x3000), srcSp, if dstSp then 128 else 0x4000, dstSp, 16, 0⟩

theorem copySees_ok (o : CopyOp) (h : o.blk = 0) (a b : Bool) :
    ∀ i < 4, (copiesT [pieceT a b]).copySees o (pieceT a b) i (List.replicate 4 0) := by
  intro i hi
  simp only [State.copySees, h]
  cases a
  · refine ⟨3, 0x3000 + 4 * i, opensIn_ok ?_, rfl, rfl⟩
    revert i
    cases b <;> decide +kernel
  · exact ⟨rfl, rfl⟩

theorem copyGoes_ok (o : CopyOp) (h : o.blk = 0) (hm : o.multicast = false) (a b : Bool) :
    ∀ i < 4, (copiesT [pieceT a b]).copyGoes o (pieceT a b) i [(if b then 128 else 0x4000) + 4 * i] := by
  intro i hi
  simp only [State.copyGoes, h, hm]
  cases b
  · refine ⟨3, 0x4000 + 4 * i, opensIn_ok ?_, rfl⟩
    revert i
    cases a <;> decide +kernel
  · rfl

theorem witness_CopyResults_values :
    (∀ a b, let s := copiesT [pieceT a b]; let o := copyT [pieceT a b]
      s.formed ∧ s.copies.find? (fun x => x.id == o.id && !x.failed && !x.runs.isEmpty && s.copyMayStart x) = some o ∧
      s.calm 0 ∧ ∀ r ∈ o.runs, s.copyReady o r (fun _ => List.replicate 4 0) fun i => [(if b then 128 else 0x4000) + 4 * i]) ∧
    -- one that has failed
    let o := { copyT [pieceT true true] with failed := true, err := 2 }
    let s := { stT with copies := [o] }
    s.formed ∧ s.copies.find? (fun x => x.id == o.id) = some o ∧ o.failed = true ∧ s.copyMayStart o = true ∧
      (s.copies.filter fun x => x.blk == 0 && x.q == 7).head? = some o := by
  refine ⟨fun a b => ⟨formedT, ?_, calm_ok 0 rfl, fun r hr => ?_⟩, formedT, ?_, rfl, ?_, ?_⟩
  case refine_2 =>
    obtain rfl : r = pieceT a b := by simpa [copyT] using hr
    refine ⟨?_, ?_, ?_, ?_, ?_, fun i hi => ⟨copySees_ok _ rfl a b i ?_, copyGoes_ok _ rfl rfl a b i ?_⟩⟩
    case refine_4 =>
      intro w hw hd
      obtain rfl : w = 256 := by simpa [copyT] using hw.symm
      revert hd
      cases a <;> cases b <;> decide
    case refine_6 => simpa [pieceT] using hi
    case refine_7 => simpa [pieceT] using hi
    all_goals cases a <;> cases b <;> decide +kernel
  all_goals first | decide +kernel | (cases a <;> cases b <;> decide +kernel)

/-- A frame of the small device's put before it is read, and before it has its number. -/
def freshFrame (signal : Bool) (data : Option (List Byte)) : Frame := { frameT signal with data := data, onWay := false }

def freshState (signal : Bool) (data : Option (List Byte)) : State := { frameState signal with frames := [freshFrame signal data] }

theorem witness_WindowResults_frames :
    (∀ b, let s := freshState b none; let g := freshFrame b none
      s.frames.find? (fun x => x.id == g.id && x.signal == g.signal) = some g ∧ g.data = none ∧
      (s.puts.find? (fun q => g.put == some q.id)).isSome ∧ ∀ i < g.len / 4, s.putSees 0 g i (List.replicate 4 0)) ∧
    -- a source that does not translate
    (let g := { freshFrame true none with srcSp := false }; let s := { frameState true with frames := [g], dies := bareT.dies };
      s.frames.find? (fun x => x.id == g.id && x.signal == g.signal) = some g ∧ 0 < g.len / 4 ∧ g.srcSp = false ∧
      ∃ c, (s.xlate 0 0 (BitVec.ofNat 64 (g.src + 4 * 0)) 4 .load).2 = .fault c) ∧
    (∀ b, let g := freshFrame b (some (List.replicate 8 1)); let s := freshState b (some (List.replicate 8 1))
      s.frames.find? (fun x => x.id == g.id && x.signal == g.signal) = some g ∧ g.numbered = false ∧ s.maySend g = true) ∧
    -- a numbered frame at a context that takes none, at a handle without its region, and a signal whose fellow is still to come
    (let g := { frameT true with numbered := true }; let s := { frameState true with frames := [g, { g with id := 8, signal := false }] };
      s.frames.find? (fun x => x.id == g.id && x.signal == g.signal) = some g ∧ g.onWay = true ∧ g.put = some 6 ∧ s.taken g = false ∧
      s.takesFrames g.tctx = true ∧ (s.withC fun c => { c with preState := .suspended }).takesFrames g.tctx = false ∧
      ∃ q, s.puts.find? (fun x => x.id == 6) = some q ∧ ∃ z ∈ s.frames, z.id ≠ g.id ∧ q.covered z ∧ s.taken z = false) ∧
    (let g := { frameT true with numbered := true, last := 0x20000 }; let s := { frameState true with frames := [g] };
      s.takesFrames g.tctx = true ∧ g.data ≠ some [] ∧ (s.ctx? g.tctx).isSome ∧ s.signalReady g = true ∧
      (s.handleOf g.tctx g.thandle).lsize.toNat < g.last) ∧
    -- the last retry is over
    let g := { frameT true with numbered := true, tries := 16, tpkg := 1 }
    let s := { frameState true with frames := [g], cycle := 20 * Config.usCycles }
    s.frames.find? (fun x => x.id == g.id) = some g ∧ g.tpkg ≠ s.pkgId ∧ g.sent + 20 * Config.usCycles ≤ s.cycle ∧ 16 ≤ g.tries ∧
      ∃ q, s.puts.find? (fun x => x.id == 6) = some q ∧ (s.ctx? q.ctx).isSome ∧ q.win < (s.ctx q.ctx).handles.length := by
  refine ⟨bools_ok (B := fun _ => true) (fun b _ => ?_) rfl, ⟨?_, ?_, rfl, _, rfl⟩, bools_ok (B := fun _ => true) (fun b _ => ?_) rfl,
    ⟨?_, rfl, rfl, ?_, ?_, ?_, _, rfl, _, List.mem_cons_of_mem _ (List.mem_singleton_self _), ?_, Or.inl rfl, ?_⟩, ?_, ?_, ?_, ?_, ?_, _, Eq.refl _, ?_, ?_⟩
  · cases b <;> exact ⟨by decide +kernel, rfl, rfl, fun i hi => by
      have : i = 0 ∨ i = 1 := by simp [freshFrame, frameT] at hi; omega
      rcases this with rfl | rfl <;> exact ⟨by decide, rfl, rfl⟩⟩
  all_goals first | decide +kernel | (cases b <;> decide +kernel)

/-! ### The matrix engine -/

def mmaT (sc : BitVec 2) : FormQ := ⟨sc, 0, 16, 30, 0, 2⟩

theorem witness_MmaPosts : stT.formed ∧ stT.selects isT ∧ stT.calm 0 ∧ (xT.w.lane 0).replay = false ∧
    (∀ sc ∈ memScopes, xT.legal { mod := true, k := sc.toNat == 1 || sc.toNat == 2, ss := sc.toNat == 2, fmt := true }
      [⟨if sc.toNat = 2 then .g else .v, 16, 1, false⟩] ((mmaOf (mmaT sc) xT.pf).ok xT.b.lregs sc.toNat && (xT.inService ||
        (mmaOf (mmaT sc) xT.pf).inTwilight)) = true ∧ xT.goB sc.toNat = true) ∧
    (let m := mmaOf (mmaT 0) xT.pf;
      (∀ l ∈ lanesOf isT.lanes, m.ready xT.b none 0 l = .go) ∧ m.readyB xT.w = .go ∧ m.fits xT.b 0 (lanesOf isT.lanes) (m.index xT.b none 0) ∧
      m.acc < xT.b.tiles.length ∧ 4 ≤ Config.mrt - (stT.mrt.filter fun e => e.cl == xT.b.clusterNo).length) ∧
    ∀ u ∈ [RdvUnit.warp 0, .set 0], ∃ s1 y, xT.completes u 15 s1 y ∧
      let m := mmaOf (mmaT 1) xT.pf
      let set : Option Nat := match u with | .set i => some i | _ => none
      m.readyB (xT.b.warp 0) = .go ∧ m.fits xT.b 0 (lanesOf ((xT.b.needed y).getD 0 0)) (m.index xT.b set 0) ∧
      m.tileOf xT.b set 0 < xT.b.tiles.length ∧ (∀ l ∈ lanesOf ((xT.b.needed y).getD 0 0), m.ready xT.b set 0 l = .go) ∧
      m.missing xT.b set = none := by
  refine ⟨formedT, selectsT, calmT, rfl, ?_, ⟨?_, ?_, ?_, ?_, ?_⟩, fun u hu => ?_⟩
  case refine_7 =>
    simp only [List.mem_cons, List.not_mem_nil, or_false] at hu
    rcases hu with rfl | rfl <;> exact ⟨_, _, completes_ok (by decide +kernel), by decide +kernel, by unfold MmaOp.fits; decide +kernel,
      by decide +kernel, by decide +kernel, by decide +kernel⟩
  all_goals first | decide +kernel | (unfold MmaOp.fits; decide +kernel)

/-- A tile descriptor of FP32 lines of 128 bytes at 0, and a requantisation of one group of 16 FP32 elements. -/
def tileDescT (df : Nat) (pitch : Nat) : List Byte :=
  leBytes 4 0 ++ leBytes 4 pitch ++ leBytes 4 0xFFFFFFFF ++ leBytes 4 0xFFFFFFFF ++ leBytes 4 df ++ List.replicate 12 0

def reqDescT : List Byte :=
  leBytes 4 0 ++ leBytes 4 1024 ++ leBytes 4 2048 ++ leBytes 4 2052 ++ leBytes 4 1 ++ [1, 9, 1, 1] ++ leBytes 4 4096 ++ leBytes 4 0

theorem witness_MatrixPosts :
    (stT.formed ∧ stT.selects isT ∧ stT.calm 0 ∧ xT.legal {} [wOpd 8 1, wOpd 16 1] = true ∧ xT.legal {} [] = true ∧
      (∃ s1 y, xT.completes .block 15 s1 y) ∧ stT.mxBusy 0 = false) ∧
    (xT.uniformGoes {} [wOpd 8 1, litOpd 1 32] true stT.sT stT.yT ∧ (stT.mrt.filter fun e => e.cl == xT.b.clusterNo).length < Config.mrt ∧
      0 + 1 ≤ xT.b.tiles.length) ∧
    (xT.legal { mod := true, k := true } [wOpd 8 1, wOpd 16 1, litOpd 1 1] = true ∧ xT.completes (.warp 0) 15 stT.sT stT.yT) ∧
    xT.uniformGoes {} [wOpd 31 1] true stT.sT stT.yT ∧
    (let s := stT.withSp reqDescT;
      (s.formed ∧ s.selects isT ∧ s.still 0 ∧ (Ex.of s isT).uniformGoes {} [wOpd 8 1] true s.sT s.yT) ∧ (Ex.of s isT).descriptor 0 ∧
      badReqDesc (Ex.of s isT).b.spSize (Memory.readBytes (Ex.of s isT).b.sp 0 32) = false) ∧
    (let s := stT.withSp (tileDescT 0 128);
      (s.formed ∧ s.selects isT ∧ s.still 0 ∧ (Ex.of s isT).uniformGoes {} [wOpd 8 1, wOpd 16 1] true s.sT s.yT) ∧ (Ex.of s isT).descriptor 0 ∧
      ∀ b, badTileDesc (Ex.of s isT).b.spSize b (Memory.readBytes (Ex.of s isT).b.sp 0 32) = false) ∧
    drainShape (0 : BitVec 6).toNat = some (4, 8) ∧ xT.legal { mod := true, k := true, mz := true } [⟨.v, 60, 4, false⟩, wOpd 16 1] = true ∧
      ∀ l ∈ lanesOf ((xT.b.needed stT.yT).getD 0 0), ∀ i ∈ codes 60 4, (xT.w.lane l).full i = true := by
  refine ⟨⟨formedT, selectsT, calmT, ?_, ?_, ⟨_, _, completes_ok (u := .block) ?_⟩, ?_⟩, ⟨uniformT ?_, ?_, ?_⟩, ⟨?_, completesT⟩, uniformT ?_,
    ⟨postsT ?_, ?_, ?_⟩, ⟨postsT ?_, ?_, ?_⟩, ?_, ?_, ?_⟩
  all_goals first | decide +kernel | (unfold Ex.descriptor; decide +kernel)

/-- A device with one entry of the matrix engine. -/
def entryT (k : MxKind) : MxEntry := { id := 7, cl := 0, blk := 0, warp := 0, cls := 0, pri := 0, posted := 0, kind := k, snap := [] }

def mxT (k : MxKind) : State := { stT with mrt := [entryT k] }

def passT : MxKind := .pass 0 [(31, 0, [])] 0 0 0 2 2 12 0 0 [] none

theorem takes_ok {k : MxKind} {b : Bool} (h : ((mxT k).mrt.find? (fun x => x.id == 7) == some (entryT k) && (mxT k).mxNext 0 b == some (entryT k) &&
    k.isPass == b && (!b || (mxT k).arrayFree 0)) = true) : (mxT k).formed ∧ (mxT k).mxTakes (entryT k) b := by
  simp only [Bool.and_eq_true, beq_iff_eq] at h
  refine ⟨formedT, h.1.1.1, h.1.1.2, h.1.2, fun hb => ?_, Nat.zero_lt_one, rfl⟩
  subst hb
  simpa [entryT] using h.2

/-- A drain with scales and a sync word: its lines, scales and sync word lie apart. -/
def scaledDescT : List Byte :=
  leBytes 4 0 ++ leBytes 4 128 ++ leBytes 4 4096 ++ leBytes 4 8192 ++ [0, 1, 4] ++ List.replicate 13 0

theorem witness_MatrixSteps_scaled :
    let d := scaledDescT
    let f (off len : Nat) : Nat := fieldAt d off len
    let lb := lineBytes (f 16 1)
    let sb := scaleBytes (f 17 1)
    let inLines (a : Nat) : Prop := ∃ n < 32, f 0 4 + n * f 4 4 ≤ a ∧ a < f 0 4 + n * f 4 4 + lb
    let inScales (a : Nat) : Prop := f 8 4 ≤ a ∧ a < f 8 4 + 32 * sb
    let inSync (a : Nat) : Prop := f 12 4 ≠ 0xFFFFFFFF ∧ f 12 4 ≤ a ∧ a < f 12 4 + 16
    badTileDesc blockT.spSize false d = false ∧ 0 < sb ∧ lb ≤ f 4 4 ∧ (f 18 1).testBit 2 = true ∧
      (∀ a, inLines a → ¬inScales a ∧ ¬inSync a) ∧ ∀ a, inScales a → ¬inSync a := by
  have h0 : fieldAt scaledDescT 0 4 = 0 := by decide +kernel
  have h1 : fieldAt scaledDescT 4 4 = 128 := by decide +kernel
  have h2 : fieldAt scaledDescT 8 4 = 4096 := by decide +kernel
  have h3 : fieldAt scaledDescT 12 4 = 8192 := by decide +kernel
  have h4 : lineBytes (fieldAt scaledDescT 16 1) = 128 := by decide +kernel
  have h5 : scaleBytes (fieldAt scaledDescT 17 1) ≤ 2 := by decide +kernel
  refine ⟨by decide +kernel, by decide +kernel, by decide +kernel, by decide +kernel, ?_, ?_⟩
  · rintro a ⟨n, hn, ha⟩
    simp only [h0, h1, h2, h3, h4] at ha ⊢
    omega
  · rintro a ha
    simp only [h2, h3] at ha ⊢
    omega

theorem witness_MatrixSteps :
    ((mxT passT).formed ∧ (mxT passT).mxTakes (entryT passT) true ∧ (mxT passT).mxFused (entryT passT) = [entryT passT] ∧
      (∀ r ∈ [(31, 0, ([] : List Nat))], r.1 < 32) ∧ ([(31, 0, ([] : List Nat))].map (·.1)).Nodup ∧ ((mxT passT).blk 0).tiles.length = 1 ∧ (((mxT passT).blk 0).tile 0).rows.length = 32) ∧
    ((mxT (.zero 0 1)).formed ∧ (mxT (.zero 0 1)).mxTakes (entryT (.zero 0 1)) false) ∧
    (let k : MxKind := .drain 0 (tileDescT 0 128);
      (mxT k).formed ∧ (mxT k).mxTakes (entryT k) false ∧ (mxT k).drainWaits 7 = false ∧ (mxT k).calm 0 ∧ fieldAt (tileDescT 0 128) 17 1 = 0 ∧
      fieldAt (tileDescT 0 128) 12 4 = 0xFFFFFFFF ∧ (((mxT k).blk 0).tile 0).poison = 0 ∧ lineBytes 0 ≤ fieldAt (tileDescT 0 128) 4 4) ∧
    (let k : MxKind := .drainV 0 7 0 60 1;
      (mxT k).formed ∧ (mxT k).mxTakes (entryT k) false ∧ (mxT k).drainWaits 7 = false ∧ ((mxT k).lane 0 0 0).live = true) ∧
    ((mxT (.load 0 (tileDescT 0 128))).formed ∧ (mxT (.load 0 (tileDescT 0 128))).mxTakes (entryT (.load 0 (tileDescT 0 128))) false) ∧
    (mxT (.req reqDescT)).formed ∧ (mxT (.req reqDescT)).mxTakes (entryT (.req reqDescT)) false ∧ (mxT (.req reqDescT)).calm 0 ∧
      badReqDesc ((mxT (.req reqDescT)).blk 0).spSize reqDescT = false ∧ reqApart reqDescT := by
  have ht (k : MxKind) (b : Bool) (h : _) := takes_ok (k := k) (b := b) h
  have h1 := ht passT true (by decide +kernel)
  have h2 := ht (.drain 0 (tileDescT 0 128)) false (by decide +kernel)
  have h3 := ht (.drainV 0 7 0 60 1) false (by decide +kernel)
  have h4 := ht (.req reqDescT) false (by decide +kernel)
  exact ⟨⟨h1.1, h1.2, by decide +kernel, by decide, by decide, by decide +kernel, by decide +kernel⟩, ht _ _ (by decide +kernel),
    ⟨h2.1, h2.2, by decide +kernel, calm_ok 0 (by decide +kernel), by decide +kernel, by decide +kernel, by decide +kernel, by decide +kernel⟩,
    ⟨h3.1, h3.2, by decide +kernel, by decide +kernel⟩, ht _ _ (by decide +kernel), h4.1, h4.2, calm_ok 0 (by decide +kernel), by decide +kernel, by
      unfold reqApart disjoint
      decide +kernel⟩

/-- A warp waiting in MXSTAT on a post that is still there, or that is done. -/
def mxWaitT (done : Bool) : State := { mxT (.zero 0 1) with blocks := (stT.withWait (.mxstat 0 63 31 [if done then 8 else 7] 0 false)).blocks }

theorem witness_MatrixStatus :
    (∀ b, (mxWaitT b).formed ∧ ((mxWaitT b).warp 0 0).wait = some (.mxstat 0 63 31 [if b then 8 else 7] 0 false) ∧
      (mxWaitT b).mxReached 0 0 [if b then 8 else 7] 0 = b) ∧
    (0 < stT.clusters.length ∧ (stT.cluster 0).fenced.getLsbD 3 = false ∧ (stT.blk 0).resident = true ∧ (stT.blk 0).clusterNo = 0 ∧
      0 < (stT.blk 0).tiles.length) := by
  refine ⟨bools_ok (B := fun _ => true) (fun b _ => ?_) rfl, ?_⟩
  · cases b <;> exact ⟨formed_ok (by decide +kernel), rfl, by decide +kernel⟩
  · decide +kernel

/-! ### The prefix-tree walker -/

/-- A tree of one node with no token, one block and one subscriber, idle or active. -/
def walkDescT : List Byte :=
  leBytes 8 0x10000 ++ leBytes 4 1 ++ leBytes 4 1 ++ leBytes 8 0x20000 ++ leBytes 8 0x30000 ++ leBytes 2 1 ++ [1, 1, 0, 3, 2, 0] ++
    leBytes 4 0 ++ leBytes 4 0 ++ leBytes 8 0 ++ leBytes 8 0 ++ leBytes 8 0x40000 ++ List.replicate 56 0

def nodeBytes (blk : Nat) : List Byte := [0, 0, 255, 255, 255, 255, 0, 0] ++ leBytes 4 blk ++ [0, 0, 0, 0]

def walkState (w : Walk) (blk : Nat) (active : Byte) : State :=
  ({ stT with walks := [{ w with desc := walkDescT }] }.withMem 0x10000 (nodeBytes blk)).withMem 0x30004 [active]

theorem formed_of {s : State} (hb : s.blocks = stT.blocks) (hc : s.cores = stT.cores) (hm : Memory.wf s.mem = true) (ha : s.atoms = [] := by rfl) : s.formed := by
  refine ⟨?_, hm, ?_⟩
  · unfold State.sized
    rw [hb, hc]
    exact ⟨formedT.1.1, formedT.1.2.1, by rw [ha]; exact fun o ho => nomatch ho⟩
  · rw [hb]
    exact formedT.2.2

/-- The record of an append of one head of 64 BF16 or FP16 elements. -/
def appendT : List Byte := leBytes 8 0x10000 ++ leBytes 8 0x20000 ++ leBytes 4 64 ++ [1, 0, 2] ++ List.replicate 9 0

theorem witness_WalkPosts :
    (let s := stT.withMem 0 walkDescT;
      s.formed ∧ s.selects isT ∧ s.still 0 ∧ (Ex.of s isT).uniformGoes { ord := [2] } [wOpd 8 1, wOpd 30 2] (Ex.of s isT).inService s.sT s.yT ∧
      (Ex.of s isT).b.clusterNo < s.clusters.length ∧ s.opens (clusterPlace 0) 0 0 128 .load 3 0 ∧ s.poisoned 0 128 = false ∧ s.walks = [] ∧ badWalkDesc (s.readPa 0 128) = false) ∧
    stT.formed ∧ stT.selects isT ∧ stT.still 0 ∧
    xT.uniformGoes {} [wOpd 8 1, wOpd 16 1, wOpd 24 1] xT.inService stT.sT stT.yT ∧ (stT.walkReqs.filter fun r => r.cl == 0).length < 64 ∧
    (xT.uniformGoes {} [wOpd 8 1, wOpd 30 2, wOpd 24 1] xT.inService stT.sT stT.yT ∧ (xT.w.reg 24).toNat < 256 ∧ stT.opens (clusterPlace 0) 0 0 64 .store 3 0) ∧
    (let s := stT.withSp appendT;
      (s.formed ∧ s.selects isT ∧ s.still 0 ∧ (Ex.of s isT).uniformGoes { ord := [2] } [wOpd 8 1, wOpd 16 1] (Ex.of s isT).inService s.sT s.yT) ∧
      (Ex.of s isT).descriptor 0 ∧ badAppend (Ex.of s isT).b.spSize (Memory.readBytes (Ex.of s isT).b.sp 0 32) = false) ∧
    xT.uniformGoes {} [wOpd 8 1, wOpd 16 1] xT.inService stT.sT stT.yT ∧
    xT.legal { mod := true, k := true, mz := true } [⟨.v, 63, 1, false⟩, wOpd 16 1, wOpd 24 1] xT.inService = true ∧
      xT.completes (.warp 0) 15 stT.sT stT.yT ∧ ∀ l ∈ lanesOf ((xT.b.needed stT.yT).getD 0 0), (xT.w.lane l).full 63 = true := by
  refine ⟨⟨formed_of rfl rfl (by decide +kernel), selects_ok ?_, still_ok ?_, uniformT ?_, ?_, opensIn_ok ?_, ?_, rfl, ?_⟩, formedT, selectsT, stillT, uniformT ?_, ?_,
    ⟨uniformT ?_, ?_, opensIn_ok ?_⟩, ⟨postsT ?_, ?_, ?_⟩, uniformT ?_, ?_, completesT, ?_⟩
  all_goals first | decide +kernel | (unfold Ex.descriptor; decide +kernel)

/-- A subscriber of the walk, and its one node. -/
def subT (st : SubState) (q : Option (List Nat)) (todo : List Nat) : Sub :=
  ⟨0, 0, 0, st, 0, q, [], todo, [], 0, false, false, false⟩

def nodeT (set : List Nat) (faulted : Bool) : Node := ⟨65535, 0, 0, 0, true, true, false, faulted, 1, set⟩

/-- The node's bytes with one token. -/
def node1 : List Byte := [0, 0, 255, 255, 255, 255, 1, 0, 0, 0, 0, 0, 0, 0, 0, 0]

def runT (w : Walk) : State := { stT with walks := [{ w with desc := walkDescT }] }.withMem 0x10000 node1

def visitW (subs : List Sub) : Walk := { walkT with phase := .main, todo := [0], nodes := [nodeT [0] false], subs := subs }

def revisitW (subs : List Sub) (pages : List PageReq) : Walk :=
  { walkT with phase := .revisit, passed := [0], nodes := [nodeT [0] false], subs := subs, pages := pages }

def catchW (x : Sub) (faulted : Bool) : Walk :=
  { walkT with phase := .catchup, deferred := [0], nodes := [nodeT [] faulted], subs := [x] }

/-- The table full, and the walk's visit in it. -/
def fullOf (w : Walk) : State := { runT w with mrt := List.replicate Config.mrt (entryT (.zero 0 1)) }

/-- The walk at its node, whose block it has read. -/
def atT (w : Walk) : Walk := { w with cur := some 0, curT := some 1, rows := some [List.replicate 128 0, List.replicate 128 0] }

def grantOf (w : Walk) : State := { runT (atT w) with mrt := [entryT (.walk 0)] }

def zeros (n : Nat) : List Byte := List.replicate n 0

theorem reads_ok {s : State} (h : (s.appended.isEmpty && decide ((s.walkAt 0).blockRanges 0 1 = [(0, 128), (0, 128)]) &&
    decide (placeDie (clusterPlace (s.walkAt 0).cl) < s.dies.length) &&
    decide (s.readVa (clusterPlace (s.walkAt 0).cl) (s.walkAt 0).ctx (BitVec.ofNat 64 ((s.walkAt 0).f 0 8 + 16 * 0 + 6)) 2 =
      (s, .inr (leBytes 2 1))) &&
    decide (s.readVa (clusterPlace (s.walkAt 0).cl) (s.walkAt 0).ctx 0 128 = (s, .inr (zeros 128)))) = true) :
    s.blockRead 0 0 1 [zeros 128, zeros 128] := by
  simp only [Bool.and_eq_true, decide_eq_true_eq, List.isEmpty_iff] at h
  obtain ⟨⟨⟨⟨h0, h1⟩, h2⟩, h3⟩, h4⟩ := h
  refine ⟨by decide, by simp [h0], ⟨h2, h3⟩, by rw [h1]; rfl, fun i va m hi => ?_⟩
  rw [h1] at hi
  match i with
  | 0 | 1 =>
    simp only [List.getElem?_cons_zero, List.getElem?_cons_succ, Option.some.injEq, Prod.mk.injEq] at hi
    obtain ⟨rfl, rfl⟩ := hi
    exact ⟨h2, h4⟩
  | n + 2 => simp at hi

def State.turnB (s : State) (ph : WalkPhase) : Bool :=
  s.walkTurn 0 && (s.walkAt 0).phase == ph && (s.walkAt 0).want.isNone && decide ((s.walkAt 0).subs.map (·.idx)).Nodup

theorem turn_ok {s : State} {ph : WalkPhase} (h : s.turnB ph = true) : s.turn 0 ph := by
  simp only [State.turnB, Bool.and_eq_true, beq_iff_eq, Option.isNone_iff_eq_none, decide_eq_true_eq] at h
  exact ⟨h.1.1.1, h.1.1.2, h.1.2, h.2⟩

theorem walking_ok {s : State} {ph : WalkPhase}
    (h : (s.turnB ph && (s.walkAt 0).outs.isEmpty && (s.walkAt 0).cur.isNone && (s.walkAt 0).subs.all fun x => !x.leaving) = true) : s.walking 0 ph := by
  rw [Bool.and_eq_true, Bool.and_eq_true, Bool.and_eq_true] at h
  exact ⟨turn_ok h.1.1.1, by simpa using h.1.1.2, by simpa using h.1.2, by simpa using h.2⟩

theorem grant_ok {w : Walk} {ph : WalkPhase} (h : ((grantOf w).turnB ph && (grantOf w).arrayFree ((grantOf w).walkAt 0).cl &&
    decide (((grantOf w).walkAt 0).outs = []) && decide ((grantOf w).visitEntry 0 = some (entryT (.walk 0))) &&
    decide ((grantOf w).mxNext ((grantOf w).walkAt 0).cl true = some (entryT (.walk 0)))) = true) :
    (grantOf w).atNode 0 0 1 [zeros 128, zeros 128] ph ∧ (grantOf w).passGranted 0 := by
  simp only [Bool.and_eq_true, decide_eq_true_eq] at h
  exact ⟨⟨turn_ok h.1.1.1.1, h.1.1.2, rfl, rfl, by decide, rfl⟩, h.1.1.1.2, _, h.1.2, h.2⟩

/-- The walk at its node with no entry of its own in the table, with room in it and without. -/
theorem at_ok {w : Walk} {ph : WalkPhase} (h : ((runT (atT w)).turnB ph && (fullOf (atT w)).turnB ph &&
    decide (((runT (atT w)).walkAt 0).outs = []) && (fullOf (atT w)).visitEntry 0 == none) = true) :
    ((runT (atT w)).atNode 0 0 1 [zeros 128, zeros 128] ph ∧ (runT (atT w)).visitEntry 0 = none ∧ 0 < (runT (atT w)).mrtFree 0) ∧
      (fullOf (atT w)).atNode 0 0 1 [zeros 128, zeros 128] ph ∧ (fullOf (atT w)).visitEntry 0 = none ∧ (fullOf (atT w)).mrtFree 0 = 0 := by
  simp only [Bool.and_eq_true, decide_eq_true_eq, beq_iff_eq] at h
  exact ⟨⟨⟨turn_ok h.1.1.1, h.1.2, rfl, rfl, by decide, rfl⟩, rfl, Nat.zero_lt_succ _⟩, ⟨turn_ok h.1.1.2, h.1.2, rfl, rfl, by decide, rfl⟩, h.2, rfl⟩

/-- The walk writes the results of a subscriber. -/
def outT (n : Nat) (clean retired : Bool) : State :=
  runT { visitW [{ subT .active (some []) [] with retired := retired }] with outs := [⟨0, List.replicate 64 5, n, clean⟩] }

/-- The bytes of the active subscriber's entry. -/
def entry1 : List Byte := [0, 0, 0, 0, 1] ++ zeros 59

/-- A walk that has been started, with a node that has not been read. -/
def startW : Walk := { walkT with phase := .queued, nodes := [{ nodeT [] false with reached := false, visited := false }] }

/-- A subscriber in the walk with its node to be applied, and one of a catch-up. -/
def activeT : Sub := subT .active (some []) [0]

def deferredT : Sub := subT .deferred (some []) [0]

/-- A sector, one of a retired slot, DROP, FNODE, after a fault too, and the end. -/
def outSteps : Prop :=
  ∀ q ∈ [(0, true, false), (0, true, true), (1, true, false), (2, true, false), (1, false, false), (3, true, false)],
    let s := outT q.1 q.2.1 q.2.2
    s.formed ∧ s.turn 0 .main ∧ ∀ z ∈ (s.walkAt 0).subs, z.leaving = false ∧ z.retired = q.2.2

theorem outs_ok : outSteps := by
  intro q hq
  simp only [List.mem_cons, List.not_mem_nil, or_false] at hq
  rcases hq with rfl | rfl | rfl | rfl | rfl | rfl <;> exact ⟨formed_of rfl rfl (by decide +kernel), turn_ok (by decide +kernel), by decide +kernel⟩

/-- The walk at its node before its pass is posted, with room in the table and without, and with its pass granted. -/
def nodeSteps (w : Walk) (ph : WalkPhase) : Prop :=
  (((runT (atT w)).atNode 0 0 1 [zeros 128, zeros 128] ph ∧ (runT (atT w)).visitEntry 0 = none ∧ 0 < (runT (atT w)).mrtFree 0) ∧
    (fullOf (atT w)).atNode 0 0 1 [zeros 128, zeros 128] ph ∧ (fullOf (atT w)).visitEntry 0 = none ∧ (fullOf (atT w)).mrtFree 0 = 0) ∧
  (grantOf w).atNode 0 0 1 [zeros 128, zeros 128] ph ∧ (grantOf w).passGranted 0

theorem witness_WalkSteps :
    -- a root outside the table of blocks, and a good tree
    (let s := walkState startW 1 1;
      s.walking 0 .queued ∧ 1 ≤ (s.walkAt 0).nnodes ∧ (s.walkAt 0).subs = [] ∧ (s.walkAt 0).stack = [(0, none, none)] ∧
      (s.walkAt 0).entry = 0 ∧ (s.walkAt 0).todo = [] ∧ (s.walkAt 0).nodes ≠ [] ∧ ((s.walkAt 0).node 0).reached = false ∧
      s.sees (clusterPlace 0) 0 0x10000 16 (nodeBytes 1) ∧ (s.walkAt 0).f 12 4 ≤ fieldAt (nodeBytes 1) 8 4) ∧
    (let s := walkState startW 0 1;
      s.walking 0 .queued ∧ s.sees (clusterPlace 0) 0 0x10000 16 (nodeBytes 0) ∧ fieldAt (nodeBytes 0) 8 4 < (s.walkAt 0).f 12 4 ∧
      fieldAt (nodeBytes 0) 2 2 = 65535 ∧ fieldAt (nodeBytes 0) 4 2 = 65535 ∧ s.sees (clusterPlace 0) 0 0x20000 16 (zeros 16) ∧
      badBlockVa 0 = false ∧ (s.walkAt 0).nsubs = 1 ∧ s.sees (clusterPlace 0) 0 ((s.walkAt 0).entryVa 0 0) 64 entry1 ∧
      s.sees (clusterPlace 0) 0 0 (2 * (s.walkAt 0).hd * (s.walkAt 0).heads) (zeros 128)) ∧
    -- a node for no one
    ((runT (visitW [])).walking 0 .main ∧ ((runT (visitW [])).walkAt 0).setAt 0 = []) ∧
    -- a node for one: to be read, with room for its pass in the table, with none, and granted
    (let s := runT (visitW [activeT]); s.walking 0 .main ∧ (s.walkAt 0).setAt 0 = [0] ∧ 0 < (s.walkAt 0).nodes.length ∧
      s.blockRead 0 0 1 [zeros 128, zeros 128]) ∧
    nodeSteps (visitW [activeT]) .main ∧ ((visitW [activeT]).node 0).set = [0] ∧
    -- a node passed that no one needs, one whose page is waited for, and one that can be read, before its pass and at it
    (runT (revisitW [] [])).walking 0 .revisit ∧
    (let s := runT (revisitW [activeT] [⟨0, 0, 0, none⟩]); s.turn 0 .revisit ∧ (s.walkAt 0).outs = [] ∧ (s.walkAt 0).waitsFor 0 = true) ∧
    (let s := runT (revisitW [activeT] []); s.walking 0 .revisit ∧ (s.walkAt 0).waitsFor 0 = false ∧
      s.blockRead 0 0 1 [zeros 128, zeros 128]) ∧
    nodeSteps (revisitW [activeT] []) .revisit ∧
    -- the steps of a catch-up
    (let s := runT (catchW (subT .deferred none []) false); s.walking 0 .catchup ∧ (s.walkAt 0).path 0 = some [0] ∧
      s.sees (clusterPlace 0) 0 0 (2 * (s.walkAt 0).hd * (s.walkAt 0).heads) (zeros 128)) ∧
    (let s := runT (catchW deferredT true); s.walking 0 .catchup ∧ ((s.walkAt 0).node 0).faulted = true) ∧
    (let s := runT (catchW deferredT false); s.walking 0 .catchup ∧ s.blockRead 0 0 1 [zeros 128, zeros 128]) ∧
    nodeSteps (catchW deferredT false) .catchup ∧
    -- the writes of the results
    outSteps ∧
    (let s := outT 0 true false; s.opens (clusterPlace 0) 0 0 1 .store 3 0 ∧ s.opens (clusterPlace 0) 0 ((s.walkAt 0).entryVa 0 20) 1 .store 3 0x30014 ∧
      s.opens (clusterPlace 0) 0 ((s.walkAt 0).entryVa 0 16) 1 .store 3 0x30010 ∧
      ∃ s' c, State.xlate { s with dies := bareT.dies } (clusterPlace 0) 0 0 1 .store = (s', .fault c)) ∧
    let s := runT { walkT with phase := .complete }
    s.formed ∧ s.turn 0 .complete ∧
      s.opens (clusterPlace 0) (s.walkAt 0).ctx (BitVec.ofNat 64 ((s.walkAt 0).f 64 8)) 1 .store 3 0x40000 := by
  refine ⟨⟨walking_ok ?_, ?_, rfl, rfl, rfl, rfl, ?_, rfl, sees_ok ?_, ?_⟩,
    ⟨walking_ok ?_, sees_ok ?_, ?_, ?_, ?_, sees_ok ?_, ?_, ?_, sees_ok ?_, sees_ok ?_⟩,
    ⟨walking_ok ?_, rfl⟩, ⟨walking_ok ?_, ?_, ?_, reads_ok ?_⟩, ⟨at_ok ?_, grant_ok ?_⟩, rfl, walking_ok ?_, ⟨turn_ok ?_, rfl, ?_⟩,
    ⟨walking_ok ?_, ?_, reads_ok ?_⟩, ⟨at_ok ?_, grant_ok ?_⟩, ⟨walking_ok ?_, ?_, sees_ok ?_⟩, ⟨walking_ok ?_, ?_⟩, ⟨walking_ok ?_, reads_ok ?_⟩,
    ⟨at_ok ?_, grant_ok ?_⟩, outs_ok, ⟨opensIn_ok ?_, opensIn_ok ?_, opensIn_ok ?_, _, _, rfl⟩, formed_of rfl rfl ?_, turn_ok ?_, opensIn_ok ?_⟩
  all_goals decide +kernel

/-- A request of warp 0 in its walker's queue. -/
def reqT (k : WalkReqKind) : WalkReq := ⟨7, 0, 0, 0, 31, k, none⟩

def askT (w : Walk) (k : WalkReqKind) : State := { runT w with walkReqs := [reqT k] }

theorem asks_ok {w : Walk} {k : WalkReqKind} (h : ((askT w k).walkReqs.find? (fun x => x.id == 7 && (askT w k).reqFirst x) == some (reqT k)) = true) :
    (askT w k).formed ∧ (askT w k).asks (reqT k) :=
  ⟨formed_of rfl rfl (show Memory.wf (Memory.writeBytes stT.mem 0x10000 node1) = true by decide +kernel), beq_iff_eq.mp h, Nat.zero_lt_one, Nat.zero_lt_one, (by decide : 31 < 32)⟩

/-- A node's bytes with some tokens. -/
def nodeT' (t : Nat) : List Byte := [0, 0, 255, 255, 255, 255] ++ leBytes 2 t ++ [0, 0, 0, 0, 0, 0, 0, 0]

/-- A walk in a phase with some subscribers. -/
def inPhase (ph : WalkPhase) (subs : List Sub) : Walk := { walkT with phase := ph, nodes := [nodeT [] false], subs := subs }

theorem witness_WalkRequests :
    -- no walk of the id, a complete one, an index past its subscribers, a new subscriber, one that there is
    (∀ q ∈ [(inPhase .main [], 9, 0), (inPhase .complete [], 0, 0), (inPhase .main [], 0, 1), (inPhase .queued [], 0, 0), (inPhase .main [], 0, 0),
        (inPhase .main [subT .active none []], 0, 0), (inPhase .main [subT .left none []], 0, 0), (inPhase .main [subT .done none []], 0, 0)],
      ((askT q.1 (.join q.2.1 q.2.2)).formed ∧ (askT q.1 (.join q.2.1 q.2.2)).asks (reqT (.join q.2.1 q.2.2))) ∧
      ((askT q.1 (.leave q.2.1 q.2.2)).formed ∧ (askT q.1 (.leave q.2.1 q.2.2)).asks (reqT (.leave q.2.1 q.2.2)))) ∧
    (let s := askT (inPhase .main []) (.join 0 0); s.walkOf 0 9 = none ∧ s.walkOf 0 0 = some 0 ∧ 0 < (s.walkAt 0).nsubs ∧
      (s.walkAt 0).path 0 = some [0] ∧ s.sees (clusterPlace 0) 0 ((s.walkAt 0).entryVa 0 0) 64 (zeros 64)) ∧
    -- a retirement that can be written, and one that cannot
    ((askT (inPhase .main []) (.retire 0x30000)).asks (reqT (.retire 0x30000)) ∧
      (askT (inPhase .main []) (.retire 0x30000)).opens (clusterPlace 0) 0 0x30000 64 .store 3 0x30000 ∧
      (askT (inPhase .main []) (.retire 0x30000)).poisoned 0x30000 64 = false) ∧
    ((askT (inPhase .main []) (.retire 0x30001)).asks (reqT (.retire 0x30001)) ∧
      ∃ s' c, (askT (inPhase .main []) (.retire 0x30001)).xlate (clusterPlace 0) 0 0x30001 64 .store = (s', .fault c)) ∧
    -- an append to a full block, to one out of its range, and to one with room, before TOKENS is read and after it
    (∀ q ∈ [(64, none), (65, none), (1, none), (1, some 1)], let r := { reqT (.append appendT none) with t := q.2 }
      let s := ({ runT (inPhase .main []) with walkReqs := [r] }).withMem 0x10000 (nodeT' q.1);
      s.formed ∧ s.walkReqs.find? (fun x => x.id == 7) = some r ∧ s.calm 0 ∧ s.sees (clusterPlace 0) 0 0x10000 16 (nodeT' q.1)) ∧
    (let s := (askT (inPhase .main []) (.append appendT none)).withMem 0x10000 node1;
      s.sees (clusterPlace 0) 0 0x20000 16 (zeros 16) ∧ (∃ runs, s.appendRuns (clusterPlace 0) 0 128 [128, 128] = (s, runs, none)) ∧
      (s.blk 0).spPoisoned 64 256 = false ∧ s.opens (clusterPlace 0) 0 0x10000 16 .store 3 0x10000) ∧
    -- a walk not yet done, and done
    ∀ b, let s := { stT.withWait (.walk 0 31) with walks := [{ walkT with written := b }] }
      s.formed ∧ s.runs 0 ∧ (s.warp 0 0).wait = some (.walk 0 31) ∧ (s.walkAt 0).written = b := by
  have hf {s : State} {d c : Nat} {va : DWord} {n : Nat} {k : Access}
      (h : (match (s.xlate d c va n k).2 with | .fault _ => true | _ => false) = true) : ∃ s' c', s.xlate d c va n k = (s', .fault c') := by
    rcases hx : s.xlate d c va n k with ⟨s', r⟩
    rw [hx] at h
    cases r with
    | fault c' => exact ⟨s', c', rfl⟩
    | ok e pa => simp at h
  have hw : (stT.withWait (.walk 0 31)).formed := formed_ok (by decide +kernel)
  refine ⟨fun q hq => ?_, ⟨?_, ?_, ?_, ?_, sees_ok ?_⟩, ⟨(asks_ok ?_).2, opensIn_ok ?_, ?_⟩, ⟨(asks_ok ?_).2, hf ?_⟩, fun q hq => ?_,
    ⟨sees_ok ?_, ⟨_, triple_ok ?_ rfl ?_⟩, ?_, opensIn_ok ?_⟩, fun b => ⟨⟨hw.1, hw.2⟩, ⟨rfl, rfl⟩, rfl, rfl⟩⟩
  case refine_1 =>
    simp only [List.mem_cons, List.not_mem_nil, or_false] at hq
    rcases hq with rfl | rfl | rfl | rfl | rfl | rfl | rfl | rfl <;> exact ⟨asks_ok rfl, asks_ok rfl⟩
  case refine_12 =>
    simp only [List.mem_cons, List.not_mem_nil, or_false] at hq
    rcases hq with rfl | rfl | rfl | rfl <;>
      exact ⟨formed_of rfl rfl (by decide +kernel), rfl, calm_ok 0 (by decide +kernel), sees_ok (by decide +kernel)⟩
  all_goals decide +kernel

/-! ### The step sequencer, the map engine and the sampling unit -/

theorem fails_ok {s : State} {d c : Nat} {k : Access} {f : Nat} {va : DWord} {n : Nat}
    (h : ((s.xlateRange d c k f va n).2.1.isEmpty && (s.xlateRange d c k f va n).2.2.isSome) = true) :
    ∃ s' x, s.xlateRange d c k f va n = (s', [], some x) := by
  rcases hx : s.xlateRange d c k f va n with ⟨s', rs, o⟩
  rw [hx] at h
  cases o with
  | none => simp at h
  | some x =>
    simp only [Bool.and_eq_true, List.isEmpty_iff] at h
    exact ⟨s', x, by rw [h.1]⟩

/-- A step table of one layer and one tile, its records at 0x10000 and its ring of one generation at 0x20000. -/
def stepDescT : List Byte :=
  leBytes 8 0x10000 ++ leBytes 8 0x20000 ++ leBytes 4 1 ++ leBytes 4 1 ++ leBytes 4 0 ++ [3, 2, 1, 0] ++ leBytes 4 0 ++ zeros 28

def stepT (h : Nat) (table : DWord) : OpenStep := ⟨h, 0, 0, table, stepDescT, 0, []⟩

/-- The device with the first steps open. -/
def State.withSteps (s : State) (ts : List OpenStep) : State := { s with clusters := [{ Cluster.reset with steps := ts }] }

def sigRecT : List Byte := leBytes 4 0 ++ leBytes 4 0 ++ leBytes 4 0 ++ leBytes 4 128

theorem witness_SequencerPosts :
    (let s := stT.withMem 0 stepDescT;
      s.formed ∧ s.selects isT ∧ s.still 0 ∧ (Ex.of s isT).uniformGoes {} [wOpd 8 1, wOpd 30 2] (Ex.of s isT).inService s.sT s.yT ∧
      s.opens (clusterPlace 0) 0 0 64 .load 3 0 ∧ s.poisoned 0 64 = false ∧ badStepTable (s.readPa 0 64) = false) ∧
    (let s := (stT.withSp sigRecT).withSteps [stepT 0 0]; let x := Ex.of s isT;
      s.formed ∧ s.selects isT ∧ s.still 0 ∧ s.stepOf 0 (x.w.reg 16) = some (0, stepT 0 0) ∧ x.record (x.w.reg 24).toNat 16 ∧
      x.uniformGoes {} [wOpd 8 4, wOpd 16 1, wOpd 24 1] x.inService s.sT s.yT ∧ badSigRecord (stepT 0 0) x.b.spSize (Memory.readBytes x.b.sp 0 16) = false ∧
      x.uniformGoes {} [wOpd 8 1, wOpd 16 1, wOpd 24 1] x.inService s.sT s.yT ∧ fieldAt (Memory.readBytes x.b.sp 0 16) 0 4 < (stepT 0 0).layers ∧
      fieldAt (Memory.readBytes x.b.sp 0 16) 4 4 < (stepT 0 0).tilesPer ∧ x.uniformGoes {} [wOpd 8 1, wOpd 16 1] x.inService s.sT s.yT) ∧
    let s := stT.withSteps [stepT 0 0]
    (Ex.of s isT).postGoes [wOpd 16 1, wOpd 24 2] 63 [] s.sT s.yT ∧ s.stepOf 0 ((Ex.of s isT).w.reg 16) = some (0, stepT 0 0) := by
  refine ⟨⟨formed_of rfl rfl (by decide +kernel), selects_ok ?_, still_ok ?_, uniformT ?_, opensIn_ok ?_, ?_, ?_⟩,
    ⟨formed_ok ?_, selects_ok ?_, still_ok ?_, ?_, ?_, uniformT ?_, ?_, uniformT ?_, ?_, ?_, uniformT ?_⟩,
    ⟨?_, rfl, completes_ok ?_, fun h => absurd h (by decide +kernel), ?_⟩, ?_⟩
  all_goals first | decide +kernel | (unfold Ex.record; decide +kernel)

/-- An operation of the small device's sequencer, with some steps open. -/
def seqT (k : SeqKind) (ts : List OpenStep) : State := { stT.withSteps ts with seqOps := [⟨7, 0, 0, 0, 28, k⟩] }

theorem next_ok {s : State} (o : SeqOp) (hb : s.blocks = stT.blocks) (hc : s.cores = stT.cores) (hm : Memory.wf s.mem = true)
    (h : (s.seqOps.find? (fun x => x.id == o.id && s.seqFirst x) == some o && decide (o.blk < s.blocks.length) &&
      decide (o.warp < (s.blk o.blk).warps.length) && decide (o.cl < s.clusters.length) &&
      (s.calmB && (s.core (s.blk o.blk).coreNo).l1.all fun z => z.dirty == 0)) = true) (ha : s.atoms = [] := by rfl) :
    s.formed ∧ s.seqNext o := by
  rw [Bool.and_eq_true, Bool.and_eq_true, Bool.and_eq_true, Bool.and_eq_true] at h
  exact ⟨formed_of hb hc hm ha, beq_iff_eq.mp h.1.1.1.1, of_decide_eq_true h.1.1.1.2, of_decide_eq_true h.1.1.2, of_decide_eq_true h.1.2, still_ok h.2⟩

def opT (k : SeqKind) : SeqOp := ⟨7, 0, 0, 0, 28, k⟩

/-- The device with the tile decided in the step's generation. -/
def decidedT (k : SeqKind) : State := (seqT k [stepT 0 0]).withMem 0x10009 [2]

theorem witness_SequencerOperations :
    -- all handles open, the table open, and a free handle
    (∀ ts ∈ [(List.range 8).map fun h => stepT h 0x40, [stepT 0 0], []], ((seqT (.open_ 0 stepDescT) ts).formed ∧
      (seqT (.open_ 0 stepDescT) ts).seqNext (opT (.open_ 0 stepDescT))) ∧ (seqT (.open_ 0 stepDescT) ts).sees (clusterPlace 0) 0 32 4 (leBytes 4 0)) ∧
    (let s := seqT (.open_ 0 stepDescT) []; (stepT 0 0).regionBytes = 128 ∧ s.runAt (clusterPlace 0) 0 ((stepT 0 0).regionVa 0 0) 128 0x20000) ∧
    -- a tile not decided, and one decided
    (let s := seqT (.sig 0 sigRecT) [stepT 0 0];
      (s.formed ∧ s.seqNext (opT (.sig 0 sigRecT))) ∧ (s.cluster 0).step? 0 = some (stepT 0 0) ∧
      s.tileAt (opT (.sig 0 sigRecT)) ((stepT 0 0).recordVa 0 0) 0x10000 (zeros 544) ∧ (s.blk 0).tilePoisoned 2 0 128 = false) ∧
    (let s := decidedT (.sig 0 sigRecT);
      (s.formed ∧ s.seqNext (opT (.sig 0 sigRecT))) ∧ s.tileAt (opT (.sig 0 sigRecT)) ((stepT 0 0).recordVa 0 0) 0x10000 (zeros 9 ++ [2] ++ zeros 534)) ∧
    (let s := decidedT (.commit 0 sigRecT);
      (s.formed ∧ s.seqNext (opT (.commit 0 sigRecT))) ∧ s.tileAt (opT (.commit 0 sigRecT)) ((stepT 0 0).recordVa 0 0) 0x10000 (zeros 9 ++ [2] ++ zeros 534)) ∧
    (let s := seqT (.close 0) [stepT 0 0];
      (s.formed ∧ s.seqNext (opT (.close 0))) ∧ (s.cluster 0).step? 0 = some (stepT 0 0) ∧ s.runAt (clusterPlace 0) 0 ((stepT 0 0).table + 32) 4 32 ∧ (stepT 0 0).words = 1 ∧
      s.sees (clusterPlace 0) 0 ((stepT 0 0).regionVa 0 64) 4 (leBytes 4 0) ∧
      s.runAt (clusterPlace 0) 0 ((stepT 0 0).regionVa 0 4) 4 0x20004 ∧ s.runAt (clusterPlace 0) 0 ((stepT 0 0).regionVa 0 8) 4 0x20008) ∧
    -- a tile record that cannot be written
    (let s := { seqT (.sig 0 sigRecT) [stepT 0 0] with dies := bareT.dies };
      (s.formed ∧ s.seqNext (opT (.sig 0 sigRecT))) ∧ (s.cluster 0).step? 0 = some (stepT 0 0) ∧
      ∃ s' f, s.xlateRange (clusterPlace 0) 0 .store (rangeFuel 544) ((stepT 0 0).recordVa 0 0) 544 = (s', [], some f)) ∧
    let s := seqT (.map 0 0 0 1) [stepT 0 0]
    (s.formed ∧ s.seqNext (opT (.map 0 0 0 1))) ∧ (s.cluster 0).step? 0 = some (stepT 0 0) ∧ (s.lane 0 0 0).live = true ∧
      (∀ i < 3, s.sees (clusterPlace 0) 0 ((stepT 0 0).regionVa 0 0 + BitVec.ofNat 64 (4 * i)) 4 (leBytes 4 0)) ∧
      ∀ i < 28, s.sees (clusterPlace 0) 0 ((stepT 0 0).regionVa 0 64 + BitVec.ofNat 64 (4 * i)) 4 (leBytes 4 0) := by
  have hs {s : State} {n : Nat} {f : Nat → DWord} (h : ((List.range n).all fun i => decide (placeDie (clusterPlace 0) < s.dies.length) &&
      decide (s.readVa (clusterPlace 0) 0 (f i) 4 = (s, .inr (leBytes 4 0)))) = true) : ∀ i < n, s.sees (clusterPlace 0) 0 (f i) 4 (leBytes 4 0) :=
    fun i hi => sees_ok (List.all_eq_true.mp h i (List.mem_range.mpr hi))
  refine ⟨fun ts ht => ?_, ⟨?_, runAt_ok ?_⟩, ⟨next_ok _ rfl rfl ?_ ?_, ?_, ⟨runAt_ok ?_, sees_ok ?_, ?_⟩, ?_⟩,
    ⟨next_ok _ rfl rfl ?_ ?_, runAt_ok ?_, sees_ok ?_, ?_⟩, ⟨next_ok _ rfl rfl ?_ ?_, runAt_ok ?_, sees_ok ?_, ?_⟩,
    ⟨next_ok _ rfl rfl ?_ ?_, ?_, runAt_ok ?_, ?_, sees_ok ?_, runAt_ok ?_, runAt_ok ?_⟩,
    ⟨next_ok _ rfl rfl ?_ ?_, ?_, fails_ok ?_⟩, next_ok _ rfl rfl ?_ ?_, ?_, ?_, hs ?_, hs ?_⟩
  case refine_1 =>
    simp only [List.mem_cons, List.not_mem_nil, or_false] at ht
    rcases ht with rfl | rfl | rfl <;> exact ⟨next_ok _ rfl rfl (by decide +kernel) (by decide +kernel), sees_ok (by decide +kernel)⟩
  all_goals decide +kernel

/-- An automaton of two states and two tokens, state 1 rejecting, and its binding. -/
def mapDescT : List Byte :=
  leBytes 8 0x10000 ++ leBytes 8 0x20000 ++ leBytes 4 2 ++ leBytes 4 2 ++ leBytes 2 0 ++ leBytes 2 1 ++ [0] ++ zeros 35

def bindsT : MapBind := ⟨0, 0, 0, 0, mapDescT, List.replicate 6 0⟩

def compT (mode : Byte) : List Byte := leBytes 8 0x100 ++ leBytes 4 1 ++ leBytes 2 0 ++ [mode, 0] ++ leBytes 8 0x30000 ++ zeros 8

def maskT (kind : Byte) : List Byte := leBytes 2 0 ++ [kind, 0] ++ zeros 4 ++ leBytes 8 0x30000 ++ leBytes 8 0x38000 ++ zeros 8

def State.withBinds (s : State) (ms : List MapBind) : State := { s with binds := ms }

theorem post_ok {s : State} {ops : List Opd} {d : BitVec 6} {srcs : List Src}
    (h : ((Ex.of s isT).legal { mod := true, k := true, mz := true } (⟨.v, d.toNat, 1, false⟩ :: ops) (Ex.of s isT).inService &&
      !((Ex.of s isT).w.lane (lowest isT.lanes)).replay && (Ex.of s isT).arrives (.warp 0) 15 && (Ex.of s isT).pf.modOf.k.toNat == 15 && !(Ex.of s isT).pf.modOf.mz &&
      (lanesOf (((Ex.of s isT).b.needed s.yT).getD 0 0)).all fun l => readiness ((Ex.of s isT).w.lane l).view srcs [d.toNat] == .go) = true) :
    (Ex.of s isT).postGoes ops d srcs s.sT s.yT := by
  rw [Bool.and_eq_true, Bool.and_eq_true, Bool.and_eq_true, Bool.and_eq_true, Bool.and_eq_true] at h
  obtain ⟨⟨⟨⟨⟨h1, h2⟩, h3⟩, h4⟩, h6⟩, h5⟩ := h
  refine ⟨h1, (Bool.not_eq_true' _).mp h2, ?_, fun hm => by simp [(Bool.not_eq_true' _).mp h6] at hm, fun l hl => beq_iff_eq.mp (List.all_eq_true.mp h5 l hl)⟩
  rw [beq_iff_eq.mp h4]
  exact completes_ok h3

theorem witness_MapPosts :
    -- a good descriptor with a free binding, and with none free; a bad one
    (∀ bs ∈ [[], (List.range 64).map fun i => { bindsT with no := i }], let s := (stT.withMem 0 mapDescT).withBinds bs
      s.formed ∧ s.selects isT ∧ s.still 0 ∧ (Ex.of s isT).uniformGoes {} [wOpd 8 1, wOpd 30 2] (Ex.of s isT).inService s.sT s.yT ∧
      s.opens 0 0 0 64 .load 3 0 ∧ s.poisoned 0 64 = false ∧ badAutomaton (s.readPa 0 64) = false) ∧
    badAutomaton (stT.readPa 0 64) = true ∧
    (∀ d ∈ [compT 0, maskT 0], let s := (stT.withSp d).withBinds [bindsT]
      s.formed ∧ s.selects isT ∧ s.still 0 ∧ (Ex.of s isT).uniformGoes {} [wOpd 8 1, wOpd 16 1, wOpd 24 1] (Ex.of s isT).inService s.sT s.yT ∧
      s.bindOf 0 ((Ex.of s isT).w.reg 16) = some bindsT ∧ (Ex.of s isT).record ((Ex.of s isT).w.reg 24).toNat 32) ∧
    badComp bindsT (compT 0) = false ∧ badMask bindsT (maskT 0) = false ∧
    let s := stT.withBinds [bindsT]
    (Ex.of s isT).postGoes [⟨.v, 0, 1, false⟩, wOpd 16 1] 63 [⟨0, 1, false, .own⟩] s.sT s.yT ∧
      s.opens 0 0 0x10000 1 .load 3 0x10000 ∧ (Ex.of s isT).postGoes [wOpd 16 1] 63 [] s.sT s.yT ∧ bindsT.counts.length = 6 := by
  refine ⟨fun bs hb => ?_, ?_, fun d hd => ?_, ?_, ?_, post_ok ?_, opensIn_ok ?_, post_ok ?_, rfl⟩
  case refine_1 =>
    simp only [List.mem_cons, List.not_mem_nil, or_false] at hb
    rcases hb with rfl | rfl <;> exact ⟨formed_of rfl rfl (by decide +kernel), selects_ok (by decide +kernel), still_ok (by decide +kernel),
      uniformT (by decide +kernel), opensIn_ok (by decide +kernel), by decide +kernel, by decide +kernel⟩
  case refine_3 =>
    simp only [List.mem_cons, List.not_mem_nil, or_false] at hd
    rcases hd with rfl | rfl <;> exact ⟨formed_ok (by decide +kernel), selects_ok (by decide +kernel), still_ok (by decide +kernel),
      uniformT (by decide +kernel), by decide +kernel, by unfold Ex.record; decide +kernel⟩
  all_goals decide +kernel

def mapOpT (k : MapKind) : MapOp := ⟨7, 0, 0, 0, 0, 31, k⟩

def mapOpState (k : MapKind) : State := { stT.withBinds [bindsT] with mapOps := [mapOpT k] }

theorem mapNext_ok {k : MapKind} (hb : badAutomaton mapDescT = false) : (mapOpState k).formed ∧ (mapOpState k).mapNext (mapOpT k) bindsT :=
  ⟨formed_of rfl rfl rfl, rfl, rfl, Nat.zero_lt_one, Nat.zero_lt_one, (by decide : 31 < 32), hb⟩

theorem witness_MapOperations :
    (∀ b ∈ [0, 1], let s := mapOpState (.comp (compT b))
      (s.formed ∧ s.mapNext (mapOpT (.comp (compT b))) bindsT) ∧ badComp bindsT (compT b) = false ∧ fieldAt (compT b) 14 1 = b.toNat ∧
      s.sees 0 0 0x100 4 (zeros 4) ∧ s.sees 0 0 0x10000 2 (zeros 2) ∧ s.runAt 0 0 0x30000 2 0x30000) ∧
    (let s := mapOpState (.apply 0 1 false); s.formed ∧ s.mapOps.find? (fun x => x.id == 7) = some (mapOpT (.apply 0 1 false)) ∧
      (s.lane 0 0 0).live = true) ∧
    ∀ b ∈ [0, 1], let s := mapOpState (.mask (maskT b))
      (s.formed ∧ s.mapNext (mapOpT (.mask (maskT b))) bindsT) ∧ badMask bindsT (maskT b) = false ∧ fieldAt (maskT b) 2 1 = b.toNat ∧
      s.sees 0 0 0x20000 1 (leBytes 1 0) ∧ s.runAt 0 0 0x30000 4 0x30000 ∧ s.runAt 0 0 0x30004 60 0x30004 ∧ s.runAt 0 0 0x30040 4 0x30040 ∧
      s.runAt 0 0 0x38000 4 0x38000 ∧ s.runAt 0 0 0x38004 4 0x38004 ∧ (s.sendCounter { ctx := 0, index := 0, kind := .done false }).2 = .done := by
  have hb : badAutomaton mapDescT = false := by decide +kernel
  refine ⟨fun b h => ?_, ⟨formed_of rfl rfl rfl, rfl, ?_⟩, fun b h => ?_⟩
  case refine_1 =>
    simp only [List.mem_cons, List.not_mem_nil, or_false] at h
    rcases h with rfl | rfl <;> exact ⟨mapNext_ok hb, by decide +kernel, by decide +kernel, sees_ok (by decide +kernel), sees_ok (by decide +kernel),
      runAt_ok (by decide +kernel)⟩
  case refine_3 =>
    simp only [List.mem_cons, List.not_mem_nil, or_false] at h
    rcases h with rfl | rfl <;> exact ⟨mapNext_ok hb, by decide +kernel, by decide +kernel, sees_ok (by decide +kernel), runAt_ok (by decide +kernel),
      runAt_ok (by decide +kernel), runAt_ok (by decide +kernel), runAt_ok (by decide +kernel), runAt_ok (by decide +kernel), rfl⟩
  decide +kernel

/-- A selection of one of two FP32 logits, under a mask or none, and a merge of one list of one entry. -/
def selectT (mask : Nat) : List Byte := leBytes 8 0x10000 ++ leBytes 4 0 ++ leBytes 4 2 ++ [1, 0, 0, 0] ++ leBytes 4 0 ++ leBytes 8 mask

def mergeT : List Byte := leBytes 8 0x10000 ++ leBytes 4 1 ++ [1, 1, 0, 0] ++ leBytes 4 0 ++ zeros 12

def topkT (merge : Bool) (r : List Byte) : TopkOp := ⟨7, 0, 0, 0, 0, merge, r⟩

def topkState (merge : Bool) (r : List Byte) : State := { stT with topkOps := [topkT merge r] }

theorem topkNext_ok {m : Bool} {r : List Byte} : (topkState m r).formed ∧ (topkState m r).topkNext (topkT m r) :=
  ⟨formed_of rfl rfl rfl, rfl, rfl, Nat.zero_lt_one, still_ok (by rfl)⟩

theorem witness_TopkResults :
    (let s := stT.withSp (selectT 0);
      (s.formed ∧ s.selects isT ∧ s.still 0 ∧ (Ex.of s isT).uniformGoes {} [wOpd 8 1, wOpd 16 1] true s.sT s.yT) ∧ (Ex.of s isT).record 0 32 ∧
      badSelect (Ex.of s isT).b.spSize (Memory.readBytes (Ex.of s isT).b.sp 0 32) = false) ∧
    (let s := stT.withSp mergeT;
      (s.formed ∧ s.selects isT ∧ s.still 0 ∧ (Ex.of s isT).uniformGoes {} [wOpd 8 1, wOpd 16 1] true s.sT s.yT) ∧ (Ex.of s isT).record 0 32 ∧
      badMerge (Ex.of s isT).b.spSize (Memory.readBytes (Ex.of s isT).b.sp 0 32) = false) ∧
    -- a ticket in flight
    (let s := stT.withB fun b => { b with topkTickets := 1 };
      s.formed ∧ s.selects isT ∧ (Ex.of s isT).uniformGoes {} [wOpd 8 1, wOpd 16 1] true s.sT s.yT ∧
      passed (Ex.of s isT).b.topkTickets ((Ex.of s isT).w.reg 16) = true) ∧
    (let s := topkState true mergeT;
      (s.formed ∧ s.topkNext (topkT true mergeT)) ∧ badMerge (s.blk 0).spSize mergeT = false ∧ s.sees 0 0 0x10000 8 (zeros 8)) ∧
    (∀ m ∈ [0, 0x20000], let s := topkState false (selectT m)
      (s.formed ∧ s.topkNext (topkT false (selectT m))) ∧ badSelect (s.blk 0).spSize (selectT m) = false ∧ s.sees 0 0 0x10000 8 (zeros 8)) ∧
    (∀ k ∈ [0, 1, 2], let s := (topkState false (selectT 0x20000)).withMem 0x20000 [BitVec.ofNat 8 k]
      s.sees 0 0 0x20000 4 (leBytes 4 k) ∧ s.sees 0 0 0x20040 4 (zeros 4)) ∧
    ∀ k ∈ [0, 1], let s := (stT.withWait (.topk 0 31)).withB fun b => { b with topkDone := k }
      s.formed ∧ s.runs 0 ∧ (s.warp 0 0).wait = some (.topk 0 31) := by
  refine ⟨⟨postsT ?_, ?_, ?_⟩, ⟨postsT ?_, ?_, ?_⟩, ⟨formed_ok ?_, selects_ok ?_, uniformT ?_, ?_⟩, ⟨topkNext_ok, ?_, sees_ok ?_⟩, fun m hm => ?_,
    fun k hk => ?_, fun k hk => ?_⟩
  case refine_13 =>
    simp only [List.mem_cons, List.not_mem_nil, or_false] at hm
    rcases hm with rfl | rfl <;> exact ⟨topkNext_ok, by decide +kernel, sees_ok (by decide +kernel)⟩
  case refine_14 =>
    simp only [List.mem_cons, List.not_mem_nil, or_false] at hk
    rcases hk with rfl | rfl | rfl <;> exact ⟨sees_ok (by decide +kernel), sees_ok (by decide +kernel)⟩
  case refine_15 =>
    simp only [List.mem_cons, List.not_mem_nil, or_false] at hk
    rcases hk with rfl | rfl <;> exact ⟨formed_ok (by decide +kernel), ⟨rfl, rfl⟩, rfl⟩
  all_goals first | decide +kernel | (unfold Ex.record; decide +kernel)

/-! ### Decompression -/

/-- A card of one chunk of the block "ABCDEFGH" as literals: to scratchpad, or to memory. -/
def literalsT : List Byte := [0x41, 0x42, 0x43, 0x44, 0x45, 0x46, 0x47, 0x48]

def cardT (sp : Byte) : List Byte :=
  [0, sp, 0, 0] ++ leBytes 4 9 ++ leBytes 8 0x10000 ++ leBytes 8 (if sp = 0 then 0x30000 else 0x100) ++ leBytes 4 8 ++ leBytes 4 0xFFFFFFFF ++ zeros 32

def jobT (card : List Byte) (chunk : Nat) (done : Bool) : Job :=
  { id := 7, die := 0, blk := 0, warp := 0, ctx := 0, ticket := 0, card := card, nextChunk := chunk, committed := 0, sectors := [], code := 0,
    failed := none, done := done }

def jobState (card : List Byte) (chunk : Nat) (done : Bool) : State := { stT with jobs := [jobT card chunk done] }

def jobWaitT (done : Bool) : State := { stT.withWait (.job 0 31) with jobs := [jobT (cardT 1) 1 done] }

theorem witness_DecompressPosts :
    (let s := stT.withSp (cardT 1);
      (s.formed ∧ s.selects isT ∧ s.still 0 ∧ (Ex.of s isT).uniformGoes { ord := [2] } [wOpd 8 1, wOpd 16 1] true s.sT s.yT) ∧
      (Ex.of s isT).record 0 64 ∧ badCard (Ex.of s isT).b.spSize (Memory.readBytes (Ex.of s isT).b.sp 0 64) = false) ∧
    xT.uniformGoes {} [wOpd 8 2, wOpd 16 1] true stT.sT stT.yT ∧ xT.uniformGoes {} [wOpd 8 1, wOpd 16 1] true stT.sT stT.yT ∧
    -- no ticket yet, and a recent one that runs or is done
    ¬(xT.b.jobTickets - 1 - xT.w.reg 16).toNat < 16 ∧
    (∀ b, let s := (jobState (cardT 1) 0 b).withB fun b => { b with jobTickets := 1 }
      s.formed ∧ s.selects isT ∧ ((Ex.of s isT).b.jobTickets - 1 - (Ex.of s isT).w.reg 16).toNat < 16 ∧
      s.jobs.find? (fun j => j.blk == 0 && j.ticket == 0) = some (jobT (cardT 1) 0 b)) ∧
    ∀ b, (jobWaitT b).formed ∧ (jobWaitT b).runs 0 ∧ ((jobWaitT b).warp 0 0).wait = some (.job 0 31) ∧
      (jobWaitT b).jobs.find? (fun j => j.blk == 0 && j.ticket == 0 && j.done) = if b then some (jobT (cardT 1) 1 true) else none := by
  have hf : (stT.withB fun b => { b with jobTickets := 1 }).formed := formed_ok (by decide +kernel)
  have hw : (stT.withWait (.job 0 31)).formed := formed_ok (by decide +kernel)
  refine ⟨⟨postsT ?_, ?_, ?_⟩, uniformT ?_, uniformT ?_, ?_, bools_ok (B := fun _ => true) (fun b _ => ?_) rfl, fun b => ⟨⟨hw.1, hw.2⟩, ⟨rfl, rfl⟩, rfl, ?_⟩⟩
  case refine_7 => cases b <;> exact ⟨⟨hf.1, hf.2⟩, selects_ok (by decide +kernel), by decide +kernel, rfl⟩
  case refine_8 => cases b <;> rfl
  all_goals first | decide +kernel | (unfold Ex.record; decide +kernel)

/-- The job alone in the small device, with some memory and buffers. -/
def jobIn (card : List Byte) (n : Nat) (m : List Host.Cell) (ds : List Die) : State := { jobState card n false with mem := m, dies := ds }

theorem jobRuns_ok {card : List Byte} {n : Nat} {m : List Host.Cell} {ds : List Die} (h : badCard blockT.spSize card = false) :
    (jobIn card n m ds).jobRuns (jobT card n false) :=
  ⟨rfl, rfl, rfl, fun x hx _ => by simpa [jobIn, jobState] using hx, Nat.zero_lt_one, calm_ok 0 rfl, h⟩

theorem witness_DecompressSteps :
    (∀ sp ∈ [0, 1], let s := jobIn (cardT sp) 0 (Memory.writeBytes [] 0x10000 (lzBytes [] literalsT)) [dieT]
      s.formed ∧ s.jobRuns (jobT (cardT sp) 0 false) ∧ fieldAt (cardT sp) 0 1 = 0 ∧ s.feeds 0 0 0x10000 (lzBytes [] literalsT) ∧
      fieldAt (cardT sp) 4 4 = (lzBytes [] literalsT).length ∧ fieldAt (cardT sp) 40 4 = 0 ∧ lzHistory [] literalsT [] = some literalsT ∧
      literalsT.length ≤ fieldAt (cardT sp) 24 4 ∧ fieldAt (cardT sp) 1 1 % 2 = sp.toNat ∧ s.runAt 0 0 0x30000 8 0x30000) ∧
    -- sequences with a match, and one that reaches before the history
    (lzHistory [⟨[1, 2], 2, 4⟩] [9] [] = some [1, 2, 1, 2, 1, 2, 9] ∧ lzHistory [⟨[1, 2], 3, 4⟩] [9] [] = none) ∧
    ((jobIn (cardT 1) 1 [] [dieT]).formed ∧ (jobIn (cardT 1) 1 [] [dieT]).jobRuns (jobT (cardT 1) 1 false)) ∧
    (jobIn (cardT 1) 0 [] bareT.dies).jobRuns (jobT (cardT 1) 0 false) ∧
      ∃ e, (jobIn (cardT 1) 0 [] bareT.dies).byteAt [] 0 0 0x10000 = .inl e := by
  have h0 : badCard blockT.spSize (cardT 0) = false := by decide +kernel
  have h1 : badCard blockT.spSize (cardT 1) = false := by decide +kernel
  have he {s : State} (h : (match (s.xlate 0 0 0x10000 1 .load).2 with | .fault _ => true | .ok _ _ => false) = true) :
      ∃ e, s.byteAt [] 0 0 0x10000 = .inl e := by
    split at h
    · next c hx => exact ⟨_, by unfold State.byteAt; rw [hx]⟩
    · simp at h
  refine ⟨fun sp hs => ?_, ?_, ⟨formed_of rfl rfl rfl, jobRuns_ok h1⟩, jobRuns_ok h1, he ?_⟩
  case refine_1 =>
    simp only [List.mem_cons, List.not_mem_nil, or_false] at hs
    rcases hs with rfl | rfl
    · exact ⟨formed_of rfl rfl (by decide +kernel), jobRuns_ok h0, by decide +kernel, feeds_ok (by decide +kernel), by decide +kernel,
        by decide +kernel, rfl, by decide +kernel, by decide +kernel, runAt_ok (by decide +kernel)⟩
    · exact ⟨formed_of rfl rfl (by decide +kernel), jobRuns_ok h1, by decide +kernel, feeds_ok (by decide +kernel), by decide +kernel,
        by decide +kernel, rfl, by decide +kernel, by decide +kernel, runAt_ok (by decide +kernel)⟩
  all_goals decide +kernel

/-- A card of the container of two chunks at 0x10000, to scratchpad with a sync word; and of a bare block, with room for half of it. -/
def boxT : List Byte :=
  [1, 1, 0, 0] ++ leBytes 4 40 ++ leBytes 8 0x10000 ++ leBytes 8 0x100 ++ leBytes 4 12 ++ leBytes 4 0x2000 ++ zeros 32

def tightT : List Byte :=
  [0, 1, 0, 0] ++ leBytes 4 9 ++ leBytes 8 0x10000 ++ leBytes 8 0x100 ++ leBytes 4 4 ++ leBytes 4 0x2000 ++ zeros 32

def boxPlan : DcePlan := (some 8, [(28, 35), (35, 40)])

theorem witness_DecompressSteps_containers :
    (let s := jobIn boxT 0 (Memory.writeBytes [] 0x10000 (container 8 chunkT)) [dieT];
      s.formed ∧ s.jobRuns (jobT boxT 0 false) ∧ fieldAt boxT 0 1 = 1 ∧ chunksOf 8 chunkT [] decodedT ∧
      s.feeds 0 0 0x10000 (container 8 chunkT) ∧ fieldAt boxT 4 4 = (container 8 chunkT).length ∧ fieldAt boxT 40 4 = 0 ∧
      decodedT.flatten.length ≤ fieldAt boxT 24 4) ∧
    (let offs := (List.range (chunkT.length + 1)).map fun c => 20 + 4 * chunkT.length + (chunkT.take c).flatten.length;
      boxPlan = (some 8, offs.zip offs.tail)) ∧
    -- after its last chunk
    (let j := { jobT boxT 2 false with plan := some boxPlan }; let s := { stT with jobs := [j] };
      s.jobRuns j ∧ j.nextChunk = chunkT.length ∧ j.plan = some boxPlan) ∧
    -- no container
    (let s := jobIn boxT 0 [] [dieT];
      s.jobRuns (jobT boxT 0 false) ∧ s.feeds 0 0 0x10000 (zeros 16) ∧ fieldAt (zeros 16) 0 4 ≠ 0x4B484346) ∧
    -- an output past its room, and a source that does not translate
    (let s := jobIn tightT 0 (Memory.writeBytes [] 0x10000 (lzBytes [] literalsT)) [dieT];
      s.jobRuns (jobT tightT 0 false) ∧ s.feeds 0 0 0x10000 (lzBytes [] literalsT) ∧ fieldAt tightT 24 4 < literalsT.length) ∧
    let s := jobIn boxT 0 [] bareT.dies
    s.jobRuns (jobT boxT 0 false) ∧ ∃ code a, (s.startJob 7).jobNext (jobT boxT 0 false) = .fails code a ∧ code ≠ 0 := by
  have hb : badCard blockT.spSize boxT = false := by decide +kernel
  have ht : badCard blockT.spSize tightT = false := by decide +kernel
  refine ⟨⟨formed_of rfl rfl ?_, jobRuns_ok hb, ?_, chunkT_ok, feeds_ok ?_, ?_, ?_, ?_⟩, ?_,
    ⟨⟨rfl, rfl, rfl, fun x hx _ => by simpa using hx, Nat.zero_lt_one, calm_ok 0 rfl, hb⟩, rfl, rfl⟩,
    ⟨jobRuns_ok hb, feeds_ok ?_, ?_⟩, ⟨jobRuns_ok ht, feeds_ok ?_, ?_⟩, jobRuns_ok hb, _, _, rfl, ?_⟩ <;> decide +kernel

/-! ### The host -/

theorem hasQueue_ok {s : State} {d q : Nat}
    (h : (decide (d < s.dies.length) && decide (q < (s.die d).cmdqs.length) && decide (q < 128) && s.answers? d) = true) : s.hasQueue d q := by
  simp only [Bool.and_eq_true, decide_eq_true_eq] at h
  exact ⟨h.1.1.1, h.1.1.2, h.1.2, h.2⟩

theorem commands_ok {s : State} {d q opc : Nat} {c : List Byte}
    (h : (decide (d < s.dies.length) && decide (q < (s.die d).cmdqs.length) && decide (q < 128) && s.answers? d) = true)
    (h2 : ((s.cmdq d q).flags.getLsbD 0 && !(s.cmdq d q).stopped && (s.cmdq d q).waiting.isNone && (s.cmdq d q).prod != (s.cmdq d q).consumed &&
      c == s.readPa ((s.cmdq d q).base.toNat + 64 * ((s.cmdq d q).consumed.toNat % 256)) 64 && fieldAt c 0 1 == opc && !badCommand c &&
      (fieldAt c 1 1 != 1 || (s.cmdq d q).open_.isEmpty)) = true) : s.commands d q opc c := by
  simp only [Bool.and_eq_true, beq_iff_eq, bne_iff_ne, Bool.not_eq_true', Option.isNone_iff_eq_none, Bool.or_eq_true, List.isEmpty_iff] at h2
  obtain ⟨⟨⟨⟨⟨⟨⟨a1, a2⟩, a3⟩, a4⟩, a5⟩, a6⟩, a7⟩, a8⟩ := h2
  exact ⟨hasQueue_ok h, a1, a2, a3, a4, a5, a6, a7, fun h1 => a8.resolve_left fun h3 => h3 h1⟩

/-- The small device with one command on its queue, and other commands open. -/
def cmdqT : CmdQ := { CmdQ.reset with base := 0x8000, ret := 0x9000, flags := 1, prod := 1 }

def cmdState (c : List Byte) (o : List Nat) : State :=
  (stT.withD fun d => { d with cmdqs := [{ cmdqT with open_ := o }] }).withMem 0x8000 c

/-- A launch of the record at 0x10000; a store and an add at 0x20000; a wait there; a copy of 16 bytes; a preemption. -/
def launchC : List Byte := [1, 0, 0, 0] ++ leBytes 4 0 ++ leBytes 8 0x10000 ++ zeros 48

def signalC (add : Byte) : List Byte := [2, 0, 0, 0] ++ leBytes 4 0 ++ leBytes 8 0x20000 ++ leBytes 8 5 ++ [add] ++ zeros 39

def waitC : List Byte := [3, 0, 0, 0] ++ leBytes 4 0 ++ leBytes 8 0x20000 ++ leBytes 8 5 ++ [1] ++ zeros 39

def copyC : List Byte := [4, 0, 0, 0] ++ leBytes 4 0 ++ leBytes 8 0x10000 ++ leBytes 8 0x20000 ++ leBytes 8 16 ++ zeros 32

def preemptC (cls : Byte) : List Byte := [5, 0, 0, 0] ++ leBytes 4 0 ++ [0, cls, 0, 0] ++ leBytes 4 100 ++ zeros 48

/-- A launch record of one block of one warp. -/
def recordT : List Byte :=
  leBytes 8 0x1000 ++ leBytes 4 1 ++ leBytes 2 1 ++ leBytes 2 1 ++ leBytes 2 32 ++ [1, 1, 64, 0] ++ zeros 6 ++ [16] ++ zeros 99

theorem takesRecord_ok {x : State × Sum (DWord) (Sum (Record × Reject) Record)} (h : (match x.2 with | .inr (.inr _) => true | _ => false) = true) :
    ∃ s' r, x = (s', .inr (.inr r)) := by
  rcases x with ⟨s, (a | (a | r))⟩
  · simp at h
  · simp at h
  · exact ⟨s, r, rfl⟩

theorem witness_CommandQueues :
    -- a queue that is enabled, and one that is not
    (stT.hasQueue 0 0 ∧ (stT.cmdq 0 0).flags.getLsbD 0 = false) ∧ ((cmdState launchC []).hasQueue 0 0 ∧ ((cmdState launchC []).cmdq 0 0).flags.getLsbD 0 = true) ∧
    (let s := (cmdState launchC []).withMem 0x10000 recordT;
      s.commands 0 0 1 launchC ∧ s.mayLaunch (s.cmdq 0 0).ctx 0 = true ∧ ∃ s' r, ((s.consume 0 0).fresh).2.takeRecord 0 (s.cmdq 0 0).ctx
        (BitVec.ofNat 64 (fieldAt launchC 8 8)) none = (s', .inr (.inr r))) ∧
    (∀ k ∈ [0, 1, 2, 3, 4, 5], let c : List Byte := [k, 0, 1, 0] ++ zeros 60;
      let s := cmdState c [];
      s.hasQueue 0 0 ∧ (s.cmdq 0 0).flags.getLsbD 0 = true ∧ (s.cmdq 0 0).stopped = false ∧ (s.cmdq 0 0).waiting = none ∧ (s.cmdq 0 0).prod ≠ (s.cmdq 0 0).consumed ∧
        badCommand (s.readPa 0x8000 64) = true ∧ (s.cmdq 0 0).signals = []) ∧
    (cmdState (signalC 0) [3]).commands 0 0 2 (signalC 0) ∧ (cmdState waitC []).commands 0 0 3 waitC ∧ (cmdState copyC []).commands 0 0 4 copyC ∧
    -- a class below and at that of the launch in flight, and the states of the context
    (∀ cls ∈ [0, 1], (cmdState (preemptC cls) []).commands 0 0 5 (preemptC cls) ∧ ((cmdState (preemptC cls) []).ctx? 0).isSome) ∧
    (∀ p ∈ [PreState.running, .suspended, .saving], let s := (cmdState (preemptC 0) []).withC fun c => { c with preState := p };
      s.commands 0 0 5 (preemptC 0) ∧ (s.ctx? 0).isSome ∧ (s.ctx 0).preState = p) := by
  refine ⟨⟨hasQueue_ok ?_, ?_⟩, ⟨hasQueue_ok ?_, ?_⟩, ⟨commands_ok ?_ ?_, ?_, takesRecord_ok ?_⟩, fun k hk => ?_, commands_ok ?_ ?_, commands_ok ?_ ?_, commands_ok ?_ ?_,
    fun cls hc => ?_, fun p hp => ?_⟩
  case refine_9 =>
    simp only [List.mem_cons, List.not_mem_nil, or_false] at hk
    rcases hk with rfl | rfl | rfl | rfl | rfl | rfl <;>
      exact ⟨hasQueue_ok (by rfl), by rfl, by rfl, by rfl, by decide, by decide +kernel, by rfl⟩
  case refine_16 =>
    simp only [List.mem_cons, List.not_mem_nil, or_false] at hc
    rcases hc with rfl | rfl <;> exact ⟨commands_ok (by rfl) (by decide +kernel), by rfl⟩
  case refine_17 =>
    simp only [List.mem_cons, List.not_mem_nil, or_false] at hp
    rcases hp with rfl | rfl | rfl <;> exact ⟨commands_ok (by rfl) (by decide +kernel), by rfl, by rfl⟩
  all_goals decide +kernel

def hostCopyT : HostCopy := ⟨0, 0, 7, 0, 0x10000, 0x20000, 16, 0⟩

/-- The device with a service call open in its context, its warp waiting for it, and the reply in memory. -/
def replyT : State :=
  ((stT.withWait (.reply 1 31)).withC fun c => { c with svcWaiting := [1] }).withMem (0x8000 + 0x40 + 32 * 4 + 8) (leBytes 4 1)

def stallT (logged : Bool) : State := { stT.withC (fun c => { c with wdog := 0 }) with stalls := [⟨0, .queue 0, 0, 0, 0, logged⟩] }

theorem witness_CommandEffects :
    (∀ b ∈ [0, 1], let s := cmdState (signalC b) [];
      s.commands 0 0 2 (signalC b) ∧ (s.cmdq 0 0).signals = [] ∧ (s.cmdq 0 0).open_ = [] ∧ fieldAt (signalC b) 24 1 = b.toNat ∧
        s.runAt 0 (s.cmdq 0 0).ctx 0x20000 8 0x20000 ∧ s.opens 0 (s.cmdq 0 0).ctx 0x20000 8 .atomic 3 0x20000 ∧ s.poisoned 0x20000 8 = false ∧
        overlap 0x20000 8 (s.cmdq 0 0).ret.toNat 8 = false) ∧
    -- a wait whose word holds, and one whose word does not, in each mode
    (∀ m ∈ [0, 1, 2], ∀ v ∈ ([0, 1] : List DWord), let s := stT.withD fun d => { d with cmdqs := [({ cmdqT with waiting := some (0x20000, v, m, 0) } : CmdQ)] };
      s.hasQueue 0 0 ∧ (s.cmdq 0 0).waiting = some (0x20000, v, m, 0) ∧ (s.cmdq 0 0).stopped = false ∧ s.sees 0 (s.cmdq 0 0).ctx 0x20000 8 (leBytes 8 0)) ∧
    (let s := { stT with hostCopies := [hostCopyT] };
      s.hostCopies.find? (fun x => x.n == hostCopyT.n && s.answers? x.die) = some hostCopyT ∧ hostCopyT.die < s.dies.length ∧
        s.xlateRange 0 0 .load (rangeFuel 16) 0x10000 16 = (s, [(0x10000, 0x10000, 16, 3)], none) ∧ s.runAt 0 0 0x20000 16 0x20000 ∧
        s.poisoned 0x10000 16 = false ∧ (∀ i < 16, s.poisoned (0x10000 + i) 1 = false) ∧ overlap 0x10000 16 0x20000 16 = false) ∧
    (stT.answers? 0 = true ∧ 0 < stT.dies.length ∧ 0 / 64 < (stT.die 0).counters.length ∧ (stT.die 0).fired.length < Config.firedBuffer) ∧
    (replyT.formed ∧ (replyT.ctx? 0).isSome ∧ replyT.answers? (replyT.ctx 0).taskDie = true ∧ replyT.sysWaiter 0 1 = some (0, 0, 31) ∧
      1 ∈ (replyT.ctx 0).svcWaiting ∧ leNat (replyT.readPa (0x8000 + 0x40 + 32 * 4 + 8) 4) = 1) ∧
    (let s := stT.withD fun d => { d with invalidating := [(0, 1, 0)] }; (s.die 0).invalidating = [(0, 1, 0)]) ∧
    -- a stall that the watchdog reports, and ones that it does not
    (let s := (stallT false).withC (fun c => { c with wdog := 1 }) |> fun s => ({ s with cycle := Config.usCycles } : State);
      s.stalls[0]? = some ⟨0, .queue 0, 0, 0, 0, false⟩ ∧ (s.blk 0).ctx = 0 ∧ (s.blk 0).die < s.dies.length ∧ (StallOn.queue 0).name.isSome = true ∧ (s.ctx 0).wdog.toNat ≠ 0 ∧
        0 + (s.ctx 0).wdog.toNat * Config.usCycles ≤ s.cycle) ∧
    ((stallT false).stalls[0]? = some ⟨0, .queue 0, 0, 0, 0, false⟩ ∧ ((stallT false).ctx 0).wdog.toNat = 0 ∧ ((stallT false).blk 0).die < (stallT false).dies.length) := by
  refine ⟨fun b hb => ?_, fun m hm v hv => ?_, ⟨by decide +kernel, by decide +kernel, triple_ok ?_ ?_ ?_, runAt_ok ?_, ?_, ?_, ?_⟩, ?_, ⟨formed_ok ?_, ?_, ?_, ?_, ?_, ?_⟩, ?_, ?_, ?_⟩
  case refine_1 =>
    simp only [List.mem_cons, List.not_mem_nil, or_false] at hb
    rcases hb with rfl | rfl <;> exact ⟨commands_ok (by rfl) (by decide +kernel), by rfl, by rfl, by decide, runAt_ok (by decide +kernel), opensIn_ok (by decide +kernel),
      by decide +kernel, by decide +kernel⟩
  case refine_2 =>
    simp only [List.mem_cons, List.not_mem_nil, or_false] at hm hv
    rcases hm with rfl | rfl | rfl <;> rcases hv with rfl | rfl <;> exact ⟨hasQueue_ok (by rfl), by rfl, by rfl, sees_ok (by decide +kernel)⟩
  all_goals decide +kernel

def State.withPre (s : State) (p : PreState) : State := s.withC fun c => { c with preState := p, deadline := some 0 }

/-- The device with its block ended. -/
def goneT (p : PreState) : State := (stT.withPre p).withB fun b => { b with phase := .gone }

theorem witness_ContextLife :
    (let s := goneT .draining;
      (s.ctx? 0).isSome ∧ (s.ctx 0).preState = .draining ∧ (∀ B ∈ s.blocks, B.ctx = 0 → B.resident = false) ∧ ∀ b < s.blocks.length, (s.blk b).ctx = 0 → s.enginesBusy b = false) ∧
    (let s := stT.withPre .draining;
      (∃ B ∈ s.blocks, B.ctx = 0 ∧ B.resident = true) ∧ (s.ctx 0).deadline = some 0 ∧ 0 ≤ s.cycle) ∧
    (∀ p ∈ [PreState.saving, .resetting, .suspended, .reset, .draining], let s := stT.withPre p;
      (s.ctx? 0).isSome ∧ (s.ctx 0).preState = p ∧ s.answers? (s.ctx 0).taskDie = true) ∧
    (stT.launch 0).inFlight = true ∧ (stT.launch 0).rcd.ctx = 0 := by
  refine ⟨⟨by rfl, by rfl, ?_, ?_⟩, ⟨⟨blockT, by decide +kernel, by rfl, by rfl⟩, by rfl, Nat.zero_le _⟩, fun p hp => ?_, by rfl, by rfl⟩
  case refine_3 =>
    simp only [List.mem_cons, List.not_mem_nil, or_false] at hp
    rcases hp with rfl | rfl | rfl | rfl | rfl <;> exact ⟨by rfl, by rfl, by rfl⟩
  all_goals decide +kernel

/-- The device with a command that its firmware has taken. -/
def mailT (c : List Byte) : State := { stT with mbox := some (0, c ++ zeros (128 - c.length)) }

/-- The command that the firmware performs. -/
def State.mailC (s : State) : List Byte := (s.mbox.map (·.2)).getD []

theorem rings_ok {s : State} {d o : Nat} (h : (s.mbox == some (d, s.mailC) && s.powered && decide (d < s.dies.length) &&
    fieldAt s.mailC 0 1 == o) = true) : s.rings d o s.mailC := by
  simp only [Bool.and_eq_true, beq_iff_eq, decide_eq_true_eq] at h
  exact ⟨h.1.1.1, h.1.1.2, h.1.2, h.2⟩

/-- A context of counters from some number on. -/
def createT (id base : Nat) : List Byte :=
  [1, 0, 0, 0] ++ leBytes 4 1 ++ [BitVec.ofNat 8 id, 0, 0, 0] ++ leBytes 2 base ++ leBytes 2 1 ++ leBytes 8 0x4000 ++ zeros 8 ++ leBytes 4 0 ++ leBytes 4 4 ++
    leBytes 8 0x8000

theorem witness_MailboxCommands :
    (let s := mailT [1, 1]; s.rings 0 1 s.mailC ∧ badCreate (s.mode == .twilight) s.mailC = true) ∧
    (let s := mailT (createT 0 1); s.rings 0 1 s.mailC ∧ badCreate (s.mode == .twilight) s.mailC = false ∧ (s.ctx? (fieldAt s.mailC 8 1)).isSome) ∧
    (let s := mailT (createT 1 1);
      s.rings 0 1 s.mailC ∧ badCreate (s.mode == .twilight) s.mailC = false ∧ s.ctx? (fieldAt s.mailC 8 1) = none ∧ fieldAt s.mailC 9 1 = 0 ∧
        ∀ x ∈ s.ctxs, x.taskDie = fieldAt s.mailC 10 1 → overlap x.cbase x.ccount (fieldAt s.mailC 12 2) (fieldAt s.mailC 14 2) = false) ∧
    (let s := mailT [2, 0, 0, 0, 1, 0, 0, 0, 63]; s.rings 0 2 s.mailC ∧ mbZero s.mailC 9 = true ∧ s.ctx? (fieldAt s.mailC 8 1) = none) ∧
    (let s := mailT [2]; s.rings 0 2 s.mailC ∧ mbZero s.mailC 9 = true ∧ fieldAt s.mailC 8 1 ≤ 63 ∧ (s.ctx? 0).isSome ∧ s.ctxInUse 0 = true) ∧
    (let s := { mailT [2] with blocks := [], launches := [] }; s.rings 0 2 s.mailC ∧ (s.ctx? 0).isSome ∧ s.ctxInUse 0 = false) ∧
    (∀ m ∈ [1, 15], let s := mailT [3, 0, 0, 0, 1, 0, 0, 0, 0, 0, m];
      s.rings 0 3 s.mailC ∧ mbZero s.mailC 11 = true ∧ fieldAt s.mailC 8 1 < 4 ∧ fieldAt s.mailC 9 1 < Config.clusters ∧ clusterNo 0 0 < s.clusters.length ∧
        fieldAt s.mailC 10 1 = m.toNat) ∧
    -- a link to bring up that has failed or has not, and one to bring down with the other up or down
    (∀ up ∈ [0, 1], ∀ h ∈ [0, 3], let s := (mailT [4, 0, 0, 0, 1, 0, 0, 0, 0, 0, up]).withD fun d => { d with hostUp := h, hostFailed := h.setWidth 2 };
      s.rings 0 4 s.mailC ∧ mbZero s.mailC 11 = true ∧ 0 < s.dies.length ∧ fieldAt s.mailC 10 1 = up.toNat ∧ fieldAt s.mailC 8 1 = 0 ∧
        fieldAt s.mailC 9 1 = 0) ∧
    (let s := mailT [5, 0, 0, 0, 1, 0, 0, 0, 15]; s.rings 0 5 s.mailC ∧ mbZero s.mailC 9 = true ∧ fieldAt s.mailC 8 1 ≤ 15) ∧
    (let s := mailT [6]; s.rings 0 6 s.mailC ∧ mbZero s.mailC 8 = true ∧ ¬∀ L ∈ s.launches, L.inFlight = false) ∧
    let s := ({ mailT [6] with blocks := [], launches := [] }).withD fun d => { d with trained := 3 };
    s.rings 0 6 s.mailC ∧ (∀ d ∈ s.dies, d.trained = 3) ∧ (∀ L ∈ s.launches, L.inFlight = false) ∧ ∀ B ∈ s.blocks, B.resident = false := by
  refine ⟨⟨rings_ok ?_, ?_⟩, ⟨rings_ok ?_, ?_⟩, ⟨rings_ok ?_, ?_⟩, ⟨rings_ok ?_, ?_⟩, ⟨rings_ok ?_, ?_⟩, ⟨rings_ok ?_, ?_⟩, fun m hm => ?_, fun up hu h hh => ?_,
    ⟨rings_ok ?_, ?_⟩, ⟨rings_ok ?_, ?_⟩, rings_ok ?_, ?_⟩
  case refine_13 =>
    simp only [List.mem_cons, List.not_mem_nil, or_false] at hm
    rcases hm with rfl | rfl <;> exact ⟨rings_ok (by rfl), by decide +kernel⟩
  case refine_14 =>
    simp only [List.mem_cons, List.not_mem_nil, or_false] at hu hh
    rcases hu with rfl | rfl <;> rcases hh with rfl | rfl <;> exact ⟨rings_ok (by rfl), by decide +kernel⟩
  all_goals decide +kernel

theorem witness_ManagementSpace :
    stT.powered = true ∧ 0 < Config.dies ∧ 0 < stT.dies.length ∧ managed 0x10000 8 = true ∧ stT.answers? 0 = true ∧ 0 < (stT.die 0).cmdqs.length ∧
      ¬managed 2 8 = true ∧ managed 0xFF8 8 = true ∧ managed 0x140000 4 = true ∧ managed 0x21000 8 = true ∧ managed 0x10C0 4 = true ∧
      managed 0x30008 8 = true ∧
      (∀ off ∈ [0x10000, 0x21000, 0x10C0, 0x30008, 0xFF8], stT.writeWaits 0 off 1 = false) ∧ (stT.ctx? 0).isSome ∧ (stT.ctx 0).taskDie = 0 ∧ (stT.ctx 0).dl.length = 4 ∧ (stT.ctx 0).watch.length = 4 := by
  decide +kernel

theorem witness_DeviceEvents :
    (stT.memB = true ∧ (0x1F_FFFF_FFFF : Nat) < 0x20_0000_0000 ∧ stT.powered = true ∧ paRangeOk 0x10000 [1, 2].length = true ∧ isHost 0x10000 = false ∧ paRangeOk (2 ^ 51) [1, 2].length = true ∧
      isHost (2 ^ 51) = true ∧ 0 < stT.dies.length ∧ 0 < (stT.blk 0).spSize ∧ (stT.die 0).elbase = 0) ∧
    (stT.formed ∧ 0 < (stT.blk 0).warps.length ∧ (stT.lane 0 0 0).live = true) ∧
    ((stT.blk 0).resident = true ∧ (stT.blk 0).die = 0 ∧ 0 < (stT.blk 0).sets.length ∧ 0 < ((stT.blk 0).set 0).g.length ∧
      0 < (((stT.blk 0).set 0).g.getD 0 []).length) ∧
    ((stT.die 0).hostUp = 3 ∧ ∀ b : Bool, (stT.die 0).trained.getLsbD b.toNat = false) ∧
    ({ stT with mode := .off } : State).powered = false ∧
    -- the idle time over or not, busy or not
    (∀ idle : Bool, ∀ c ∈ [0, 100 * Config.usCycles], ∀ bs ∈ [[], [blockT]],
      let s := { stT.withD fun d => { d with idle := idle, idleOk := true } with cycle := c, blocks := bs, doorbells := [] };
      s.answers? 0 = true ∧ 0 < s.dies.length ∧ (s.die 0).idle = idle ∧ (s.die 0).idleOk = true ∧ s.dieBusy 0 = !bs.isEmpty ∧ (s.die 0).idleSince = 0) := by
  refine ⟨?_, ⟨formedT, ?_, ?_⟩, ?_, ?_, by rfl, ?_⟩
  all_goals decide +kernel

/-- Whether a class is the lowest of a context's launches in flight, or the class that is given where it has none. -/
theorem lowest_ok {s : State} {v cls low : Nat} (h : (let own := s.launches.filter fun L => L.inFlight && L.rcd.ctx == v;
    (own.all fun L => decide (low ≤ L.rcd.cls)) && ((own.any fun L => L.rcd.cls == low) || own.isEmpty && low == cls)) = true) : s.lowestClass v cls low := by
  simp only [Bool.and_eq_true, Bool.or_eq_true, List.all_eq_true, List.any_eq_true, List.mem_filter, decide_eq_true_eq, beq_iff_eq, List.isEmpty_iff,
    List.filter_eq_nil_iff] at h
  refine ⟨fun L hL => h.1 L ⟨hL.1, hL.2.1, hL.2.2⟩, h.2.imp ?_ ?_⟩
  · rintro ⟨L, hL, hc⟩
    exact ⟨L, ⟨hL.1, hL.2.1, hL.2.2⟩, hc⟩
  · exact fun hL => ⟨fun L hm => hL.1 L hm.1 ⟨hm.2.1, hm.2.2⟩, hL.2⟩

/-- A preemption that gives its deadline or leaves it to the context's, which is `dl` microseconds for class 0. -/
def preemptState (us : Nat) (dl : Word) (p : PreState) (til : Option Nat) : State :=
  (cmdState ([5, 0, 0, 0] ++ leBytes 4 0 ++ [0, 0, 0, 0] ++ leBytes 4 us ++ zeros 48) []).withC fun c => { c with preState := p, deadline := til, dl := [dl, 0, 0, 0] }

theorem witness_CommandQueues_preempt :
    -- running or draining, with a deadline before or not, its own time, the context's or neither
    (∀ x ∈ [(PreState.running, 0, 0, none), (.running, 100, 0, none), (.running, 0, 500, none), (.draining, 0, 0, some 7), (.draining, 100, 0, none),
        (.draining, 0, 500, some 7)],
      let s := preemptState x.2.1 x.2.2.1 x.1 x.2.2.2; let c := s.readPa 0x8000 64;
      s.commands 0 0 5 c ∧ fieldAt c 8 1 = 0 ∧ (s.ctx? 0).isSome ∧ (s.ctx 0).preState = x.1 ∧ (s.ctx 0).deadline = x.2.2.2 ∧ fieldAt c 12 4 = x.2.1 ∧
        (∀ L ∈ s.launches, ¬L.rcd.cls < fieldAt c 9 1) ∧ s.lowestClass 0 0 0 ∧ (s.ctx 0).dl.getD 0 0 = x.2.2.1) ∧
    -- a context without a launch in flight
    let s : State := { cmdState (preemptC 1) [] with launches := [] };
    s.commands 0 0 5 (preemptC 1) ∧ (s.ctx? 0).isSome ∧ (∀ L ∈ s.launches, ¬L.rcd.cls < 1) ∧ s.lowestClass 0 1 1 := by
  refine ⟨fun x hx => ?_, commands_ok (by rfl) (by decide +kernel), by rfl, by decide, lowest_ok (by rfl)⟩
  simp only [List.mem_cons, List.not_mem_nil, or_false] at hx
  rcases hx with rfl | rfl | rfl | rfl | rfl | rfl <;>
    exact ⟨commands_ok (by rfl) (by decide +kernel), by decide +kernel, by rfl, rfl, rfl, by decide +kernel, by decide +kernel, lowest_ok (by rfl), rfl⟩

/-- A stall of every kind of R59 that is not over: a queue, pipe or ring that is full or off. -/
def fullT (on : StallOn) (age : Nat) : State :=
  let s := (stT.withC fun c => { c with wdog := 1, queues := [⟨[], false, false⟩], svcWaiting := [0, 1, 2, 3], svcProd := 4 }).withB fun b =>
    { b with pipes := b.pipes.map fun _ => List.replicate Config.pipe default }
  { s with stalls := [⟨0, on, 0, 0, 0, false⟩], cycle := age }

theorem witness_CommandEffects_stalls :
    -- late, early, and where there is room again
    (∀ on ∈ [StallOn.queue 0, .pipe 0, .ring], ∀ age ∈ [Config.usCycles, Config.usCycles - 1], let s := fullT on age;
      s.stalls[0]? = some ⟨0, on, 0, 0, 0, false⟩ ∧ (s.blk 0).ctx = 0 ∧ (s.blk 0).die < s.dies.length ∧ on.name.isSome = true ∧ s.stallOver 0 on = false ∧
        (s.ctx 0).wdog.toNat ≠ 0 ∧ (0 + (s.ctx 0).wdog.toNat * Config.usCycles ≤ s.cycle ↔ age = Config.usCycles)) ∧
    (stallT false).stallOver 0 (.queue 0) = true ∧ (StallOn.mrt).name = none := by
  refine ⟨fun on ho age ha => ?_, by decide +kernel, rfl⟩
  simp only [List.mem_cons, List.not_mem_nil, or_false] at ho ha
  rcases ho with rfl | rfl | rfl <;> rcases ha with rfl | rfl <;> decide +kernel

theorem witness_ContextLife_reset :
    (let s := stT.withPre .resetting;
      (s.ctx? 0).isSome ∧ (s.ctx 0).preState = .resetting ∧ (s.ctx 0).cbase ≤ 0 ∧ 0 < (s.ctx 0).cbase + (s.ctx 0).ccount ∧
        (s.die (s.ctx 0).taskDie).counters[0]? = some Counter.reset ∧ 0 < s.launches.length ∧ (s.launch 0).inFlight = true ∧ (s.launch 0).rcd.ctx = 0) ∧
    ∃ B ∈ (stT.withPre .draining).blocks, B.ctx = 0 := by
  decide +kernel

/-- A sealed CREATE of the context 1, with a die's grant: clusters, ways, bandwidth, slots, frame slots. -/
def sealedC (mask ways bw slots frames : Byte) : List Byte :=
  let c := [1, 0, 0, 0] ++ leBytes 4 1 ++ [1, 1, 0, 0] ++ leBytes 2 1 ++ leBytes 2 1 ++ leBytes 8 0x4000 ++ zeros 8 ++ leBytes 4 0 ++ leBytes 4 4 ++ leBytes 8 0x8000
  c ++ zeros (72 - c.length) ++ [mask, 0, 0, 0, ways, bw, slots, frames, 0, 0, 0, 0]

/-- Another sealed context, which holds 20 clusters and some of everything else. -/
def holderT : Ctx := { ctxT with id := 2, taskDie := 1, sealed_ := true, grant := [0xF0, 0xFF, 0xFF, 0, 8, 10, 45, 7] ++ zeros 40 }

theorem witness_MailboxCommands_sealed :
    -- in Twilight mode
    (let s := { mailT (sealedC 2 4 2 5 1) with mode := .twilight };
      s.rings 0 1 s.mailC ∧ badCreate true s.mailC = false ∧ s.ctx? 1 = none ∧ fieldAt s.mailC 9 1 = 1) ∧
    -- a cluster with a block, one that another holds, too many clusters, ways, bandwidth, slots, frame slots
    (∀ g ∈ [sealedC 1 0 0 0 0, sealedC 0x10 0 0 0 0, sealedC 2 0 0 0 0, sealedC 0 8 0 0 0, sealedC 0 0 3 0 0, sealedC 0 0 0 6 0, sealedC 0 0 0 0 2],
      let s : State := { mailT g with ctxs := [ctxT, holderT] };
      s.rings 0 1 s.mailC ∧ badCreate (s.mode == .twilight) s.mailC = false ∧ s.ctx? (fieldAt s.mailC 8 1) = none ∧ fieldAt s.mailC 9 1 = 1 ∧ s.mode ≠ .twilight ∧
        (∀ x ∈ s.ctxs, x.taskDie = fieldAt s.mailC 10 1 → overlap x.cbase x.ccount (fieldAt s.mailC 12 2) (fieldAt s.mailC 14 2) = false) ∧
        s.grantLacks ((s.mailC.drop 72).take 48) 0) ∧
    -- everything that is left
    (let s : State := { mailT (sealedC 0 4 2 5 1) with ctxs := [ctxT, holderT] };
      s.rings 0 1 s.mailC ∧ badCreate (s.mode == .twilight) s.mailC = false ∧ s.ctx? (fieldAt s.mailC 8 1) = none ∧ fieldAt s.mailC 9 1 = 1 ∧
        (∀ x ∈ s.ctxs, x.taskDie = fieldAt s.mailC 10 1 → overlap x.cbase x.ccount (fieldAt s.mailC 12 2) (fieldAt s.mailC 14 2) = false) ∧
        ∀ d < 4, ¬s.grantLacks ((s.mailC.drop 72).take 48) d) ∧
    let s := { stT with doorbells := [0] };
    s.doorbells = [0] ∧ s.mbox = none ∧ s.powered = true := by
  refine ⟨⟨rings_ok ?_, ?_⟩, fun g hg => ?_, ⟨rings_ok ?_, ?_, ?_, ?_, ?_, ?_⟩, rfl, rfl, rfl⟩
  case refine_3 =>
    simp only [List.mem_cons, List.not_mem_nil, or_false] at hg
    rcases hg with rfl | rfl | rfl | rfl | rfl | rfl | rfl <;>
      exact ⟨rings_ok (by decide +kernel), by decide +kernel, by decide +kernel, by rfl, by decide, by decide +kernel, by unfold State.grantLacks; decide +kernel⟩
  all_goals first | decide +kernel | (unfold State.grantLacks; decide +kernel)

/-- The device with a context of 64 handles. -/
def wideT : State := { stT with ctxs := [{ newCtx 0 (zeros 128) with handles := List.replicate 64 ⟨0, 0, false, 0, 0, 0, 0, 0, 0, 0, []⟩ }] }

theorem witness_ManagementSpace_registers :
    (let s := wideT; let x := s.ctx 0;
      s.powered = true ∧ s.answers? 0 = true ∧ (s.cmdq 0 0).ctx < 256 ∧ (s.die 0).mbcmd.length = 128 ∧ (s.die 0).mbrsp.length = 64 ∧ (s.ctx? 0).isSome ∧ x.taskDie = 0 ∧
        (s.ctxs.map (·.id)).Nodup ∧ x.dl.length = 4 ∧ x.watch.length = 4 ∧ x.thresh.length = 24 ∧ x.handles.length = 64 ∧ (x.handles.getD 63 default).thandle < 256 ∧
        (x.handles.getD 63 default).tpkg < 65536 ∧ (x.handles.getD 63 default).tctx < 65536 ∧ ((s.die 0).counters.getD 0 default).template.length = 8 ∧
        0 < (s.die 0).counters.length) ∧
    -- each register that a write reaches, at its size
    (∀ r ∈ [(0x10000, 8), (0x10008, 8), (0x10010, 4), (0x10018, 4), (0x20000, 8), (0x20008, 4), (0x2000C, 4), (0x21000, 8), (0x21008, 4), (0x1000, 8), (0x107C, 4),
        (0x10C0, 4), (0x30000, 8), (0x30008, 8), (0x3001C, 4), (0x30020, 4), (0x30024, 4), (0x30028, 4), (0x30070, 8), (0x30078, 4), (0x3007C, 4), (0x300DC, 4),
        (0x300E0, 8), (0x300E8, 4), (0x30FE0, 8), (0x30FE8, 4), (0x30FEC, 4), (0x30FF0, 4), (0xC0000, 4), (0xC01F0, 8), (0xCFFF8, 8), (0x100000, 8), (0x100004, 4),
        (0x10003C, 4)], managed r.1 r.2 = true ∧ wideT.writeWaits 0 r.1 0x100 = false) ∧
    -- ELN at a power of two and not
    ((1#32).toNat = 2 ^ 0 ∧ (65536#32).toNat = 2 ^ 16 ∧ ∀ k ≤ 16, (3#32).toNat ≠ 2 ^ k) ∧
    -- what has no register: reserved ranges, another die's scale-out block, a context that there is not or whose task home die is another
    (∀ off ∈ [0x70000, 0xBFFF8, 0x140000, 0xFF8, 0x31000], managed off 8 = true) ∧ wideT.ctx? 1 = none := by
  decide +kernel

/-! ### Traps, the step and the states that it keeps -/

/-- A register instruction that its description does not accept: its run holds a prefix that it does not read. -/
def badRunT : State := stT.withRun [.ord ⟨1, 1⟩]

/-- A lane whose source is empty or poisoned. -/
def emptyT (e p : BitVec 64) : State := stT.withL fun l => { l with empty := e, poison := p }

def iaddT (ta : Bool) : RegInstr := .binary .iadd {} (fun _ a b => a + b) ⟨0, 8, 16, 24, ta, false⟩

theorem single_ok {s : State} (h : ((Ex.of s isT).is.lanes == 1#32 && (Ex.of s isT).b.halt.isNone) = true) : (Ex.of s isT).single 0 := by
  rw [Bool.and_eq_true, beq_iff_eq, Option.isNone_iff_eq_none] at h
  exact ⟨by decide, by rw [h.1]; rfl, h.2⟩

theorem witness_TrapsRaised :
    (xT.legal {} [⟨.v, 8, 1, false⟩] = true ∧ xT.b.halt = none ∧
      (∀ l ∈ lanesOf isT.lanes, readiness (xT.w.lane l).view [⟨8, 1, false, .own⟩] [] = .go) ∧ xT.legal {} [] = true) ∧
    (∀ w ∈ [0, 0x0400000C], decodeWord w = none ∧ bits w 26 6 ≠ 0x3F ∧ fetches w) ∧
    (badRunT.selects isT ∧ (∀ r ∈ [iaddT true, .unary .popc {} (fun _ a => a) (fa1T 1), bfiInstr (faT 2), moviInstr ⟨3, 8, 0⟩, selInstr ⟨0, false, 7, 8, 16, 24, false, false⟩,
        .binary .fadd { rm := true } (fun _ a _ => a) (faT 0), .ternary .ffma { rm := true } 1 (fun _ _ _ c => c) (faT 2)],
      (Ex.of badRunT isT).legal r.acc (r.ops (Ex.of badRunT isT)) (r.extra (Ex.of badRunT isT)) = false)) ∧
    (let s : State := { stT with mode := .twilight }; s.selects isT) ∧
    -- a source that is empty and read with or without the trap bit, a destination that is empty, a source that is poisoned
    (∀ ta : Bool, ∀ e ∈ [(0, 0x10000), (0x10000, 0), (0x10100, 0), (0x100, 0x10000)], let s := emptyT e.1 e.2; let x := Ex.of s isT;
      let r := iaddT ta; let L := x.w.lane 0; let src : Src := ⟨16, 1, ta, .own⟩;
      s.formed ∧ s.selects isT ∧ x.single 0 ∧ x.legal r.acc (r.ops x) (r.extra x) = true ∧ L.guard r.gn r.gp = true ∧
        L.full 16 = !(e.1.getLsbD 16) ∧ L.poisoned 16 = e.2.getLsbD 16 ∧ r.dst.codes = [8] ∧ L.full 8 = !(e.1.getLsbD 8) ∧
        r.srcs x = [src, ⟨24, 1, false, .own⟩]) := by
  refine ⟨?_, fun w hw => ?_, ⟨selects_ok ?_, ?_⟩, selects_ok ?_, fun ta e he => ?_⟩
  case refine_2 =>
    simp only [List.mem_cons, List.not_mem_nil, or_false] at hw
    rcases hw with rfl | rfl <;> exact ⟨by rfl, by decide, fetch_ok (by decide +kernel)⟩
  case refine_4 =>
    intro r hr
    simp only [List.mem_cons, List.not_mem_nil, or_false] at hr
    rcases hr with rfl | rfl | rfl | rfl | rfl | rfl | rfl <;> rfl
  case refine_6 =>
    simp only [List.mem_cons, List.not_mem_nil, or_false] at he
    rcases he with rfl | rfl | rfl | rfl <;> cases ta <;> exact ⟨formed_ok (by decide +kernel), selects_ok (by decide +kernel), single_ok (by decide +kernel), by rfl, by rfl, by rfl, by rfl, by rfl, by rfl, by rfl⟩
  all_goals decide +kernel

/-- Whether an access fails with a cause at a check. -/
def State.deniedB (s : State) (b : Nat) (va : DWord) (n : Nat) (k : Access) (c : Cause) : Bool :=
  let B := s.blk b
  if !canonical va then c == .prot
  else if va.toNat % n ≠ 0 then c == .misalign
  else
    let place := corePlace B.coreNo
    let die := placeDie place
    match (s.die die).lookup place B.ctx va with
    | none => (s.lookup place B.ctx va).isNone && match s.walk B.ctx va with | .inl e => e == c | .inr _ => false
    | some t =>
      let pa := replicaPa t.entry (va.toNat - t.va) (replicaDie (entryRepl t.entry) die)
      let kind := match k with | .load => 0 | .fetch => 2 | .store => 1 | .atomic => 1
      let perm := match k with | .load => true | .store => !entryRo t.entry | .atomic => false | .fetch => !entryNx t.entry
      if k == .atomic then false
      else if !(paOk pa && s.reachable pa && perm) then c == .prot
      else if s.watched B.ctx kind va n then c == .watch
      else (k == .load || k == .fetch) && s.poisoned pa n && c == .poison

theorem denied_ok {s : State} {b : Nat} {va : DWord} {n : Nat} {k : Access} {c : Cause} (h : s.deniedB b va n k c = true) : s.deniedBy b va n k c := by
  simp only [State.deniedB] at h
  simp only [State.deniedBy]
  split at h
  · exact .inl ⟨by simp_all, by simp_all⟩
  · refine .inr ?_
    split at h
    · exact .inl ⟨by simp_all, by simp_all, by simp_all⟩
    · refine .inr ⟨by simp_all, by simp_all, ?_⟩
      split at h
      · next hl =>
        rw [Bool.and_eq_true, Option.isNone_iff_eq_none] at h
        refine .inl ⟨h.1, ?_⟩
        have h2 := h.2
        split at h2
        · next e hw => rw [hw, beq_iff_eq.mp h2]
        · simp at h2
      · next t hl =>
        refine .inr ?_
        cases k
        all_goals
          dsimp only at h
          by_cases hp : paOk (replicaPa t.entry (va.toNat - t.va) (replicaDie (entryRepl t.entry) (placeDie (corePlace (s.blk b).coreNo)))) = true ∧
              s.reachable (replicaPa t.entry (va.toNat - t.va) (replicaDie (entryRepl t.entry) (placeDie (corePlace (s.blk b).coreNo)))) = true
          all_goals simp_all
          all_goals
            repeat' split at h
            all_goals simp_all

/-- The hypotheses on a load and a store of lane 0 at the address in registers 16 and 17. -/
def loadDenied (s : State) (va : DWord) (c : Cause) : Prop :=
  let x := Ex.of s isT
  let m := ldForm ⟨0, 8, 16, false, 2, 0, 0⟩ x
  s.formed ∧ s.selects isT ∧ x.single 0 ∧ x.legal m.acc m.ops m.extra = true ∧ x.pf.sem = 0 ∧ readiness (x.w.lane 0).view m.srcs m.dst = .go ∧
    (x.w.lane 0).watchSkip = 0 ∧ (x.w.lane 0).view.wide 16 2 + BitVec.ofNat 64 (offOf x.pf 0 7 * sizeOf_ 2 x.pf.modOf.wq) = va ∧
    s.deniedBy 0 va (sizeOf_ 2 x.pf.modOf.wq) .load c

def storeDenied (s : State) (va : DWord) (c : Cause) : Prop :=
  let x := Ex.of s isT
  let f : FormW := ⟨0, false, 7, 16, 24, 2, 0⟩
  let m := stForm f false x
  s.formed ∧ s.selects isT ∧ x.single 0 ∧ x.legal m.acc m.ops m.extra = true ∧ x.pf.sem = 0 ∧ (x.w.lane 0).guard f.gn f.gp = true ∧
    readiness (x.w.lane 0).view m.srcs m.dst = .go ∧ (x.w.lane 0).watchSkip = 0 ∧
    (x.w.lane 0).view.wide f.a.toNat 2 + BitVec.ofNat 64 (offOf x.pf f.off.toNat 6 * sizeOf_ f.sz x.pf.modOf.wq) = va ∧
    s.deniedBy 0 va (sizeOf_ f.sz x.pf.modOf.wq) .store c

/-- The small device with an address in registers 16 and 17, and its page with some entry bits. -/
def addrT (lo hi : Word) (entry : DWord) : State :=
  (stT.withL fun l => { l with v := (l.v.set 16 lo).set 17 hi }).withD fun d => { d with tlb := [⟨corePlace 0, 0, 0, 2 ^ 30, entry⟩] }

def watchT : State := (addrT 0x5000 0 3).withC fun c => { c with watch := [⟨0x5000, 4, 7⟩] }

def poisonT : State := { addrT 0x5000 0 3 with poison := [(0x5000 / 64, 0)] }

theorem load_denied {s : State} {va : DWord} {c : Cause} (h : (s.formedB && s.selB isT) = true)
    (h1 : ((Ex.of s isT).is.lanes == 1#32 && (Ex.of s isT).b.halt.isNone) = true)
    (h2 : (let x := Ex.of s isT
      let m := ldForm ⟨0, 8, 16, false, 2, 0, 0⟩ x
      x.legal m.acc m.ops m.extra && x.pf.sem == 0 && readiness (x.w.lane 0).view m.srcs m.dst == .go && (x.w.lane 0).watchSkip == 0 &&
        (x.w.lane 0).view.wide 16 2 + BitVec.ofNat 64 (offOf x.pf 0 7 * sizeOf_ 2 x.pf.modOf.wq) == va && s.deniedB 0 va (sizeOf_ 2 x.pf.modOf.wq) .load c) = true) :
    loadDenied s va c := by
  simp only [Bool.and_eq_true, beq_iff_eq] at h2
  obtain ⟨⟨⟨⟨⟨a1, a2⟩, a3⟩, a4⟩, a5⟩, a6⟩ := h2
  rw [Bool.and_eq_true] at h
  exact ⟨formed_ok h.1, selects_ok h.2, single_ok h1, a1, a2, a3, a4, a5, denied_ok a6⟩

theorem store_denied {s : State} {va : DWord} {c : Cause} (h : (s.formedB && s.selB isT) = true)
    (h1 : ((Ex.of s isT).is.lanes == 1#32 && (Ex.of s isT).b.halt.isNone) = true)
    (h2 : (let x := Ex.of s isT
      let f : FormW := ⟨0, false, 7, 16, 24, 2, 0⟩
      let m := stForm f false x
      x.legal m.acc m.ops m.extra && x.pf.sem == 0 && (x.w.lane 0).guard f.gn f.gp && readiness (x.w.lane 0).view m.srcs m.dst == .go && (x.w.lane 0).watchSkip == 0 &&
        (x.w.lane 0).view.wide f.a.toNat 2 + BitVec.ofNat 64 (offOf x.pf f.off.toNat 6 * sizeOf_ f.sz x.pf.modOf.wq) == va &&
        s.deniedB 0 va (sizeOf_ f.sz x.pf.modOf.wq) .store c) = true) : storeDenied s va c := by
  simp only [Bool.and_eq_true, beq_iff_eq] at h2
  obtain ⟨⟨⟨⟨⟨⟨a1, a2⟩, a3⟩, a4⟩, a5⟩, a6⟩, a7⟩ := h2
  rw [Bool.and_eq_true] at h
  exact ⟨formed_ok h.1, selects_ok h.2, single_ok h1, a1, a2, a3, a4, a5, a6, denied_ok a7⟩

/-- The hypotheses on a fetch of the small device's group. -/
def fetchDenied (s : State) (c : Cause) : Prop :=
  let s' := s.selected isT
  s'.selects isT ∧ s'.formed ∧ (s'.blk 0).halt = none ∧ (s'.lane 0 0 (lowest isT.lanes)).watchSkip = 0 ∧ s'.deniedBy 0 isT.pc 4 .fetch c

theorem fetch_denied {s : State} {c : Cause} (h : ((s.selected isT).formedB && (s.selected isT).selB isT) = true)
    (h2 : (((s.selected isT).blk 0).halt.isNone && ((s.selected isT).lane 0 0 (lowest isT.lanes)).watchSkip == 0 && (s.selected isT).deniedB 0 isT.pc 4 .fetch c) = true) :
    fetchDenied s c := by
  simp only [Bool.and_eq_true, Option.isNone_iff_eq_none, beq_iff_eq] at h h2
  exact ⟨selects_ok h.2, formed_ok (by simpa using h.1), h2.1.1, h2.1.2, denied_ok h2.2⟩

theorem witness_AccessTraps :
    -- not canonical, misaligned, not mapped, a reserved range, watched, poisoned
    (loadDenied (addrT 0 0x01000000 3) 0x0100000000000000 .prot ∧ loadDenied (addrT 0x5002 0 3) 0x5002 .misalign ∧
      loadDenied (addrT 0 1 3) 0x100000000 .xlate ∧ loadDenied (addrT 0x5000 0 0xA000000003) 0x5000 .prot ∧ loadDenied watchT 0x5000 .watch ∧
      loadDenied poisonT 0x5000 .poison) ∧
    (storeDenied (addrT 0 0x01000000 3) 0x0100000000000000 .prot ∧ storeDenied (addrT 0x5001 0 3) 0x5001 .misalign ∧
      storeDenied (addrT 0 1 3) 0x100000000 .xlate ∧ storeDenied (addrT 0x5000 0 0x23) 0x5000 .prot ∧ storeDenied watchT 0x5000 .watch) ∧
    fetchDenied (stT.withD fun d => { d with tlb := [] }) .xlate ∧ fetchDenied (addrT 0 0 0x13) .prot ∧ fetchDenied { stT with poison := [(0x1000 / 64, 0)] } .poison := by
  refine ⟨?_, ?_, ?_⟩
  · refine ⟨?_, ?_, ?_, ?_, ?_, ?_⟩ <;> apply load_denied <;> decide +kernel
  · refine ⟨?_, ?_, ?_, ?_, ?_⟩ <;> apply store_denied <;> decide +kernel
  · refine ⟨?_, ?_, ?_⟩ <;> apply fetch_denied <;> decide +kernel

/-- A program of one instruction loaded on the small device, which nothing else can happen to. -/
def oneT : State := stT.loaded 32 0x1827FFFF

def oneIs : Issue := ⟨0, 0, 0xFFFFFFFF, 0x10000⟩

/-- Whether a group's fetch reads a word of an instruction that goes on. -/
def State.runsB (s : State) (is : Issue) (w : Word) (i : Instr) : Bool :=
  match (s.selected is).laneAccess is.blk is.pc 4 .fetch (((s.selected is).lane is.blk is.warp (lowest is.lanes)).watchSkip.getLsbD 1) with
  | (s', .ok _ pa) => s'.codeOf is pa == w && match exec i (s'.fetched is pa) with | .next _ => true | _ => false
  | _ => false

theorem fetches_one {s : State} {is : Issue} {w : Word} {i : Instr} (hd : decodeWord w = some i) (h : s.runsB is w i = true) :
    ∃ s' e pa t, (s.selected is).laneAccess is.blk is.pc 4 .fetch (((s.selected is).lane is.blk is.warp (lowest is.lanes)).watchSkip.getLsbD 1) = (s', .ok e pa) ∧
      decodeWord (s'.codeOf is pa) = some i ∧ exec i (s'.fetched is pa) = .next t := by
  unfold State.runsB at h
  split at h
  · next s' e pa hl =>
    rw [Bool.and_eq_true, beq_iff_eq] at h
    split at h
    · next t ht => exact ⟨s', e, pa, t, hl, by rw [h.1, hd], ht⟩
    · simp at h
  · simp at h

theorem idle_ok {s : State} {m : Move} (h : (nextOf (s.perform m)).isNone = true) : ∀ u, s.perform m ≠ .next u := by
  intro u hu
  simp [hu, nextOf] at h

def Move.group (m : Move) : Option Issue :=
  match m with
  | .issue is => some is
  | .outside _ => none
  | .event _ => none
  | .evict _ _ => none
  | .clean _ _ _ => none
  | .refresh _ _ => none
  | .forget _ _ => none
  | .dropLine _ _ => none
  | .dropHost _ _ => none
  | .startJob _ => none
  | .land _ _ => none
  | .early _ => none
  | .fence _ => none
  | .rereadJob _ => none
  | .rereadLaunch _ => none
  | .mail => none

theorem split_one {is : Issue} {ms : List Move} (h : ms.filterMap Move.group = [is]) :
    ∃ l r, ms = l ++ .issue is :: r ∧ ∀ m ∈ l ++ r, m.group = none := by
  induction ms with
  | nil => simp at h
  | cons m ms ih =>
    rcases hm : m.group with _ | j
    · rw [List.filterMap_cons_none hm] at h
      obtain ⟨l, r, rfl, hr⟩ := ih h
      exact ⟨m :: l, r, rfl, by simpa [hm] using hr⟩
    · rw [List.filterMap_cons_some hm] at h
      simp only [List.cons.injEq, List.filterMap_eq_nil_iff] at h
      cases m <;> simp only [Move.group, Option.some.injEq, reduceCtorEq] at hm
      exact ⟨[], ms, by simp [hm, h.1], by simpa using h.2⟩

def movesT : State := { stT.withD (fun d => { d with tlb := [] }) with blocks := [], launches := [], ctxs := [] }

/-- The device whose core holds an older word of its code. -/
def oldT : State := { stT with cores := [{ Core.reset with code := [⟨0, 32, [0x02, 0, 0, 0x70] ++ zeros 124⟩] }] }

theorem witness_StepRunsDecoded :
    (let s := stT.withWord 0x1827FFFF;
      (s.selected isT).maps 0 0x1000 4 .fetch 3 0x1000 ∧ decodeWord ((s.selected isT).codeOf isT 0x1000) = some (.movi ⟨0, 9, 0x3FFFF⟩)) ∧
    (∃ s' e pa l r t, oneT.moves = l ++ .issue oneIs :: r ∧ (∀ m ∈ l ++ r, ∀ u, oneT.perform m ≠ .next u) ∧
      (oneT.selected oneIs).laneAccess 0 0x10000 4 .fetch (((oneT.selected oneIs).lane 0 0 (lowest oneIs.lanes)).watchSkip.getLsbD 1) = (s', .ok e pa) ∧
      decodeWord (s'.codeOf oneIs pa) = some (.movi ⟨0, 9, 0x3FFFF⟩) ∧ exec (.movi ⟨0, 9, 0x3FFFF⟩) (s'.fetched oneIs pa) = .next t) ∧
    -- a line of code that is held, and one that is not
    (oldT.codeOf isT 0x1000 = 0x70000002 ∧ (∃ x ∈ (oldT.core (oldT.blk 0).coreNo).code, x.ctx = (oldT.blk 0).ctx ∧ x.line = 0x1000 / 128) ∧
      (stT.core (stT.blk 0).coreNo).code = []) ∧
    -- nothing that may happen, and something
    (∀ m ∈ movesT.moves, ∀ t, movesT.perform m ≠ .next t) ∧ ∃ m ∈ oneT.moves, ∃ t, oneT.perform m = .next t := by
  have hm : oneT.moves.filterMap Move.group = [oneIs] := by decide +kernel
  have hn : (oneT.moves.all fun m => m.group.isSome || (nextOf (oneT.perform m)).isNone) = true := by decide +kernel
  have hd : decodeWord 0x1827FFFF = some (.movi ⟨0, 9, 0x3FFFF⟩) := by decide +kernel
  have h6 : (nextOf (oneT.perform (.issue oneIs))).isSome = true := by decide +kernel
  have h7 : (movesT.moves.all fun m => (nextOf (movesT.perform m)).isNone) = true := by decide +kernel
  obtain ⟨l, r, h1, h2⟩ := split_one hm
  obtain ⟨s', e, pa, t, h3, h4, h5⟩ := fetches_one (s := oneT) (is := oneIs) hd (by decide +kernel)
  refine ⟨⟨maps_ok (by decide +kernel), by rfl⟩, ⟨s', e, pa, l, r, t, h1, fun m hx => ?_, h3, h4, h5⟩, ⟨by decide +kernel, by decide +kernel, rfl⟩,
    fun m hx => idle_ok (List.all_eq_true.mp h7 m hx), .issue oneIs, by rw [h1]; simp, ?_⟩
  · have h := List.all_eq_true.mp hn m (by rw [h1]; simp only [List.mem_append, List.mem_cons] at hx ⊢; tauto)
    rw [h2 m hx] at h
    exact idle_ok (by simpa using h)
  · generalize oneT.perform (.issue oneIs) = o at h6
    cases o
    · exact ⟨_, rfl⟩
    all_goals simp [nextOf] at h6

theorem witness_DecodeEncode : encode (.movi ⟨0, 9, 0x3FFFF⟩) = some 0x1827FFFF ∧ decodeWord 0x1827FFFF = some (.movi ⟨0, 9, 0x3FFFF⟩) ∧
    (Instr.movi ⟨0, 9, 0x3FFFF⟩).wf = true := by
  decide +kernel

theorem witness_MemoryCanonical : ∃ t, oneT.memOk ∧ step oneT = .next t := by
  have h : Memory.wf oneT.mem = true ∧ (oneT.blocks.all fun b => Memory.wf b.sp) = true := by decide +kernel
  exact ⟨_, ⟨h.1, List.all_eq_true.mp h.2⟩, rfl⟩

theorem witness_PartsFormed : ∃ t, oneT.formed ∧ step oneT = .next t := ⟨_, formed_ok (by decide +kernel), rfl⟩

/-! ### Terms that are not well formed, one for each check -/

/-- A predicate destination 7, of a compare and of VTOP. -/
theorem test_wf_predDest : predDestOk 7 = false ∧ (Instr.icmpEq ⟨0, 7, 0, 1, 2, false, false⟩).wf = false ∧
    (Instr.icmpiEq ⟨0, 7, 0, 1, false, 0⟩).wf = false ∧ (Instr.fcmpEq ⟨0, 7, 0, 1, 2, false, false⟩).wf = false ∧
    (Instr.vtop ⟨false, 7, 1, false⟩).wf = false ∧ (Instr.icmpEq ⟨0, 6, 0, 1, 2, false, false⟩).wf = true := by
  decide +kernel

/-- The reserved mask codes 12 to 14 as a source, in forms L, B and K. -/
theorem test_wf_maskSrc : maskSrcOk 12 = false ∧ (Instr.perm ⟨1, 2, 3, 12⟩).wf = false ∧ (Instr.ballot ⟨1, 2, 14⟩).wf = false ∧
    (Instr.redadd ⟨1, 2, 13⟩).wf = false ∧ (Instr.bra ⟨false, false, 7, 12, 0⟩).wf = false ∧ (Instr.kand ⟨false, 1, 12, 2⟩).wf = false ∧
    (Instr.kpopc ⟨false, 12, 3⟩).wf = false ∧ (Instr.perm ⟨1, 2, 3, 15⟩).wf = true := by
  decide +kernel

/-- A mask destination that names no mask register. -/
theorem test_wf_maskDest : maskDestOk 15 = false ∧ (Instr.join ⟨false, 15⟩).wf = false ∧ (Instr.kfromw ⟨false, 12, 3⟩).wf = false ∧
    (Instr.join ⟨false, 11⟩).wf = true := by
  decide +kernel

/-- A reserved format code, as source and destination of CONV and as the format of a pass. -/
theorem test_wf_format : formatOk 25 = false ∧ (Instr.conv ⟨0, 2, 1, false, 25, 0, false⟩).wf = false ∧
    (Instr.conv ⟨0, 2, 1, false, 0, 31, false⟩).wf = false ∧ (Instr.mma ⟨0, 2, 8, 4, 0, 25⟩).wf = false ∧
    (Instr.mma ⟨0, 2, 8, 4, 0, 24⟩).wf = true := by
  decide +kernel

/-- An operation of the device, which has no word. -/
theorem test_wf_noWord : (Instr.rendezvousComplete 0 0).wf = false ∧ encode (.rendezvousComplete 0 0) = none := by decide +kernel

/-! ### Words that the spec writes out (R112 and the tables of each chapter) -/

theorem test_decode_integer :
    decodeWord 0x040C1080 = some (.iadd ⟨0, 3, 1, 2, false, false⟩) ∧ decodeWord 0x050C1080 = some (.iadd ⟨1, 3, 1, 2, false, false⟩) ∧
    decodeWord 0x040C10A0 = some (.iadd ⟨0, 3, 1, 2, true, false⟩) ∧ decodeWord 0x060801C0 = some (.iadd ⟨2, 2, 0, 7, false, false⟩) ∧
    decodeWord 0x041461C3 = some (.imulhS ⟨0, 5, 6, 7, false, false⟩) ∧ decodeWord 0x08083105 = some (.shl ⟨0, 2, 3, 4, false, false⟩) ∧
    decodeWord 0x090420CE = some (.bfxS ⟨1, 1, 2, 3, false, false⟩) ∧ decodeWord 0x0C101080 = some (.imad ⟨0, 4, 1, 2, false, false⟩) ∧
    decodeWord 0x0C201085 = some (.idot4S8 ⟨0, 8, 1, 2, false, false⟩) ∧ decodeWord 0x101C27FB = some (.iaddi ⟨0, 7, 2, false, 0x7FB⟩) ∧
    decodeWord 0x14042104 = some (.shri ⟨0, 1, 2, false, 4⟩) ∧ decodeWord 0x1827FFFF = some (.movi ⟨0, 9, 0x3FFFF⟩) := by
  decide +kernel

theorem test_decode_compare :
    decodeWord 0x1C402182 = some (.icmpLtS ⟨0, 2, 0, 1, 3, false, false⟩) ∧ decodeWord 0x1C482182 = some (.icmpLtS ⟨0, 2, 1, 1, 3, false, false⟩) ∧
    decodeWord 0x2020890A = some (.icmpiGeN ⟨0, 1, 0, 4, false, 10⟩) ∧ decodeWord 0x21218A01 = some (.icmpiTstz ⟨1, 1, 0, 12, false, 1⟩) ∧
    decodeWord 0x2410C414 = some (.sel ⟨0, false, 1, 3, 4, 5, false, false⟩) ∧ decodeWord 0x282820C2 = some (.prmnSx ⟨0, 10, 2, 3, false, false⟩) ∧
    decodeWord 0x2C08100B = some (.conv ⟨0, 2, 1, false, 0, 5, true⟩) ∧ decodeWord 0x34101080 = some (.ffma ⟨0, 4, 1, 2, false, false⟩) ∧
    decodeWord 0x3C602102 = some (.fcmpLt ⟨0, 3, 0, 1, 2, false, false⟩) ∧ decodeWord 0x401851C9 = some (.rndh ⟨0, 6, 5, 7, false, false⟩) ∧
    decodeWord 0x44102001 = some (.smxs ⟨0, 4, 2, false⟩) := by
  decide +kernel

theorem test_decode_lanes :
    decodeWord 0x490C10BC = some (.perm ⟨3, 1, 2, 15⟩) ∧ decodeWord 0x4D101008 = some (.ballot ⟨4, 1, 2⟩) ∧
    decodeWord 0x510C203F = some (.scanadd ⟨3, 2, 15⟩) ∧ decodeWord 0x5408C007 = some (.movs ⟨0, 2, 12⟩) ∧
    decodeWord 0x553082C2 = some (.readl ⟨12, 8, 11, false⟩) ∧ decodeWord 0x58106202 = some (.lea2 ⟨0, 4, 6, 8, false, false⟩) := by
  decide +kernel

theorem test_decode_control :
    decodeWord 0x5C7F0005 = some (.bra ⟨false, false, 7, 15, 5⟩) ∧ decodeWord 0x5C92FFFD = some (.bra ⟨false, true, 1, 2, 0xFFFD⟩) ∧
    decodeWord 0x607F000C = some (.call ⟨false, 7, 12⟩) ∧ decodeWord 0x64720000 = some (.jmp ⟨false, 7, 8⟩) ∧
    decodeWord 0x647FD000 = some (.ret ⟨false, 7, 63⟩) ∧ decodeWord 0x6422A000 = some (.callx ⟨false, 2, 10⟩) ∧
    decodeWord 0x68030000 = some (.join ⟨false, 3⟩) ∧ decodeWord 0x68230000 = some (.wait ⟨3⟩) ∧
    decodeWord 0x68553400 = some (.kandn ⟨false, 5, 3, 4⟩) ∧ decodeWord 0x68902038 = some (.kpopc ⟨false, 2, 7⟩) ∧
    decodeWord 0x6F000000 = some (.bar ⟨3⟩) ∧ decodeWord 0x6D1020C1 = some (.bara ⟨4, 2, 3⟩) ∧
    decodeWord 0x6D0040C2 = some (.barw ⟨4, 3⟩) ∧ decodeWord 0x6F185004 = some (.carve ⟨6, 5⟩) ∧ decodeWord 0x70000000 = some .exitB ∧
    decodeWord 0x70000002 = some (.nop ⟨0⟩) ∧ decodeWord 0x70007003 = some (.sleep ⟨7⟩) ∧ decodeWord 0x73044004 = some (.spawn ⟨1, 4⟩) ∧
    decodeWord 0x71080045 = some (.groupq ⟨2, 1⟩) := by
  decide +kernel

theorem test_decode_system :
    decodeWord 0x74003000 = some (.trap ⟨3⟩) ∧ decodeWord 0x75000001 = some (.rte ⟨false⟩) ∧ decodeWord 0x75000041 = some (.rte ⟨true⟩) ∧
    decodeWord 0x75001082 = some (.sysc ⟨0, 1, 2⟩) ∧ decodeWord 0x750C9003 = some (.fpxr ⟨3, 9⟩) ∧ decodeWord 0x74000005 = some .bkpt ∧
    decodeWord 0xFC000030 = some (.xwImm ⟨0x30⟩) ∧ decodeWord 0xFC7C0050 = some (.xwMod ⟨15, 0, false, 0, false, true, 1, false, false, false⟩) ∧
    decodeWord 0xFC7D0000 = some (.xwMod ⟨15, 2, false, 0, false, false, 0, false, false, false⟩) ∧
    decodeWord 0xFC7C0900 = some (.xwMod ⟨15, 0, false, 9, false, false, 0, false, false, false⟩) ∧
    decodeWord 0xFCA60000 = some (.xwOrd ⟨2, 3⟩) ∧ decodeWord 0xFCCC0000 = some (.xwFmt ⟨6, 0, 0, 0, 0⟩) ∧
    decodeWord 0xFCC0620B = some (.xwFmt ⟨0, 12, 16, 1, 3⟩) := by
  decide +kernel

theorem test_decode_memory :
    decodeWord 0x78108410 = some (.ld ⟨0, 4, 8, false, 2, 0, 16⟩) ∧ decodeWord 0x78202682 = some (.ld ⟨0, 8, 2, false, 3, 1, 2⟩) ∧
    decodeWord 0x7C0C1404 = some (.lds ⟨0, 3, 1, false, 2, 4⟩) ∧ decodeWord 0x8013F462 = some (.ldp ⟨0, 4, 63, false, 2, 3, 2⟩) ∧
    decodeWord 0x842106C1 = some (.st ⟨0, false, 2, 4, 6, 3, 1⟩) ∧ decodeWord 0x8870C684 = some (.sts ⟨0, false, 7, 3, 6, 2, 4⟩) ∧
    decodeWord 0x8C714828 = some (.atomAdd ⟨false, false, 7, 5, 8, 10⟩) ∧ decodeWord 0x9021482B = some (.atombCas ⟨false, false, 2, 5, 8, 10⟩) ∧
    decodeWord 0x9570C418 = some (.atomfFadd ⟨true, false, 7, 3, 4, 6⟩) ∧ decodeWord 0x98708313 = some (.atomsMaxn ⟨false, false, 7, 2, 3, 4⟩) ∧
    decodeWord 0x9C718828 = some (.redFadd ⟨false, false, 7, 8, 10, false⟩) ∧ decodeWord 0x9C700311 = some (.redAdd ⟨false, false, 7, 3, 4, true⟩) ∧
    decodeWord 0xA0000000 = some (.fence ⟨false⟩) ∧ decodeWord 0xA0084041 = some (.pin ⟨false, 2, 4, true⟩) ∧ decodeWord 0xA10C0006 = some (.sigq ⟨3⟩) ∧
    decodeWord 0xA5101241 = some (.cpidx ⟨4, 1, 9⟩) ∧ decodeWord 0xA90061C0 = some (.swarm ⟨6, 7⟩) ∧ decodeWord 0xA9086201 = some (.swwait ⟨2, 6, 8⟩) := by
  decide +kernel

theorem test_decode_queues :
    decodeWord 0xAD0080C0 = some (.push ⟨8, 3⟩) ∧ decodeWord 0xAD0480C1 = some (.pusht ⟨1, 8, 3⟩) ∧ decodeWord 0xAD4000C2 = some (.pop ⟨16, 3⟩) ∧
    decodeWord 0xB0200140 = some (.deq ⟨8, 5⟩) ∧ decodeWord 0xB0008141 = some (.done ⟨false, 8, 5⟩) ∧ decodeWord 0xB00020C2 = some (.depadd ⟨false, 2, 3⟩) ∧
    decodeWord 0xB0002003 = some (.cancel ⟨false, 2⟩) ∧ decodeWord 0xB1100144 = some (.tqstat ⟨4, 5⟩) ∧
    decodeWord 0xB410C800 = some (.enq ⟨false, false, 1, 3, 8⟩) ∧ decodeWord 0xB510C801 = some (.enqCmp ⟨false, 1, 3, 8⟩) ∧
    decodeWord 0xB9105000 = some (.put ⟨4, 5⟩) ∧ decodeWord 0xB92020C3 = some (.winwait ⟨8, 2, 3⟩) ∧
    decodeWord 0xBD002102 = some (.mxzero ⟨2, 4⟩) ∧ decodeWord 0xBF1C2043 = some (.mxstat ⟨true, 7, 2, 1⟩) ∧ decodeWord 0xBD1C0004 = some (.mxtest ⟨7⟩) := by
  decide +kernel

theorem test_decode_engines :
    decodeWord 0xC0088205 = some (.mma ⟨0, 2, 8, 4, 0, 5⟩) ∧ decodeWord 0xC2102303 = some (.mma ⟨2, 4, 2, 6, 0, 3⟩) ∧
    decodeWord 0xC5002240 = some (.mxds ⟨2, 9⟩) ∧ decodeWord 0xC52020C1 = some (.mxdv ⟨8, 2, 3⟩) ∧ decodeWord 0xC9048000 = some (.wstart ⟨1, 8⟩) ∧
    decodeWord 0xC9181381 = some (.wjoin ⟨6, 1, 14⟩) ∧ decodeWord 0xC9201284 = some (.wstat ⟨8, 1, 10⟩) ∧ decodeWord 0xC910A005 = some (.kvapp ⟨4, 10⟩) ∧
    decodeWord 0xCD101201 = some (.ssig ⟨4, 1, 8⟩) ∧ decodeWord 0xCD241004 = some (.sclose ⟨9, 1⟩) ∧ decodeWord 0xD1187042 = some (.mapapply ⟨6, 7, 1⟩) ∧
    decodeWord 0xD1201004 = some (.mapstat ⟨8, 1⟩) ∧ decodeWord 0xD5105000 = some (.dsub ⟨4, 5⟩) ∧ decodeWord 0xD51C4002 = some (.dwait ⟨7, 4⟩) ∧
    decodeWord 0xD9106001 = some (.tkmrg ⟨4, 6⟩) := by
  decide +kernel

/-- The bytes of a word in memory (R87). -/
theorem test_word_bytes : bytesOfWord 0x78108410 = [0x10, 0x84, 0x10, 0x78] ∧ wordOf [0x10, 0x84, 0x10, 0x78] = 0x78108410 := by decide +kernel

/-! ### One step, with results that the spec works out -/

def after (i : Instr) (s : State) : State := (nextOf (exec i s)).getD s

/-- Lane 0 with two registers set. -/
def twoT (a b : Word) : State := stT.withL fun l => { l with v := (l.v.set 1 a).set 2 b }

def State.v (s : State) (n : Nat) : Word := (s.lane 0 0 0).reg n

/-- Chapter 8, the worked differences, nibbles and conversions. -/
theorem test_iabsd : (after (.iabsd ⟨0, 3, 1, 2, false, false⟩) (twoT 0x80000000 0x7FFFFFFF)).v 3 = 0xFFFFFFFF := by decide +kernel

theorem test_prmnSx : (after (.prmnSx ⟨0, 3, 1, 2, false, false⟩) (twoT 0xE1 0x10)).v 3 = 0xFFFE0001 := by decide +kernel

theorem test_conv_sat : (after (.conv ⟨0, 3, 1, false, 0, 5, true⟩) (twoT 0x43FA0000 0)).v 3 = 0x7E := by decide +kernel

/-- IADDI and MOVI sign-extend (R103); IADD wraps (R187). -/
theorem test_iaddi : (after (.iaddi ⟨0, 7, 2, false, 0x7FB⟩) (twoT 0 3)).v 7 = 0xFFFFFFFE := by decide +kernel

theorem test_iadd_wraps : (after (.iadd ⟨0, 1, 1, 2, false, false⟩) (twoT 0xFFFFFFFF 2)).v 1 = 1 := by decide +kernel

/-- The branch of chapter 6: BRA of offset 5 goes to the next word and five more (R140). -/
theorem test_bra : ((after (.bra ⟨false, false, 7, 15, 5⟩) stT).lane 0 0 0).pc = 0x1018 := by decide +kernel

theorem test_bra_back : ((after (.bra ⟨false, false, 7, 15, 0xFFFD⟩) stT).lane 0 0 0).pc = 0xFF8 := by decide +kernel

/-- ICMP.LT.S is signed, and CB 1 takes the conjunction (R191). -/
theorem test_icmp : ((after (.icmpLtS ⟨0, 2, 0, 1, 2, false, false⟩) (twoT 0xFFFFFFFF 0)).lane 0 0 0).pred 2 = true ∧
    ((after (.icmpLtS ⟨0, 2, 1, 1, 2, false, false⟩) (twoT 0xFFFFFFFF 0)).lane 0 0 0).pred 2 = false := by decide +kernel

/-- A breakpoint halts its block (R154, R404). -/
theorem test_bkpt : ((after .bkpt stT).blk 0).halt.isSome = true := by decide +kernel

/-- A load leaves its destination empty (R98, R213). -/
theorem test_ld : ((after (.ld ⟨0, 4, 8, false, 2, 0, 16⟩) stT).lane 0 0 0).full 4 = false ∧ (after (.ld ⟨0, 4, 8, false, 2, 0, 16⟩) stT).loads.length = 1 := by
  decide +kernel

/-- A step fetches the word at the program counter and runs it. -/
theorem test_step : (match step oneT with | .next t => t.v 9 == 0xFFFFFFFF && (t.lane 0 0 0).pc == 0x10004 | _ => false) = true := by decide +kernel

end Sys2Proof.Machine
end

section
/-! PROOFS. Lane masks, and the integer functions of R187 to R190 as their statements put them. -/

namespace Sys2Proof.Machine

/-! ### Lane masks -/

theorem mem_lanesOf {m : Word} {l : Nat} : l ∈ lanesOf m ↔ l < 32 ∧ m.getLsbD l = true := by
  simp [lanesOf]

theorem getLsbD_maskOf (p : Nat → Bool) {i : Nat} (hi : i < 32) : (maskOf p).getLsbD i = p i := by
  have upto : ∀ n ≤ 32, ((List.range n).foldl (fun m l => if p l then m ||| (1#32 <<< l) else m) 0#32).getLsbD i =
      (decide (i < n) && p i) := by
    intro n
    induction n with
    | zero => simp
    | succ n ih =>
      intro hn
      rw [List.range_succ, List.foldl_append, List.foldl_cons, List.foldl_nil]
      have hbit : (1#32 <<< n).getLsbD i = decide (i = n) := by
        simp only [BitVec.getLsbD_shiftLeft, BitVec.getLsbD_one]
        by_cases h : i = n
        · simp [h]; omega
        · simp [h]; omega
      by_cases hin : i = n
      · subst hin
        cases hp : p i <;> simp [hp, ih (by omega), hbit]
      · have hlt : (i < n + 1) = (i < n) := by simp only [eq_iff_iff]; omega
        cases hp : p n <;> simp [ih (by omega), hbit, hin, hlt]
  simpa [maskOf, hi] using upto 32 le_rfl

/-! ### The functions of IARITH, LOGIC, IMAD and the immediates (R187 to R190) -/

theorem hiHalf_ofInt (z : Int) : hiHalf (BitVec.ofInt 64 z) = BitVec.ofInt 32 (z / 2 ^ 32) := by
  apply BitVec.eq_of_toNat_eq
  simp only [hiHalf, BitVec.toNat_setWidth, BitVec.toNat_ushiftRight, BitVec.toNat_ofInt, Nat.shiftRight_eq_div_pow]
  omega

theorem hiHalf_ofNat (n : Nat) : hiHalf (BitVec.ofNat 64 n) = BitVec.ofNat 32 (n / 2 ^ 32) := by
  apply BitVec.eq_of_toNat_eq
  simp only [hiHalf, BitVec.toNat_setWidth, BitVec.toNat_ushiftRight, BitVec.toNat_ofNat, Nat.shiftRight_eq_div_pow]
  omega

theorem signExtend_mul_eq (a b : Word) : a.signExtend 64 * b.signExtend 64 = BitVec.ofInt 64 (a.toInt * b.toInt) := by
  rw [BitVec.ofInt_mul, BitVec.signExtend, BitVec.signExtend]

theorem setWidth_mul_eq (a b : Word) : a.setWidth 64 * b.setWidth 64 = BitVec.ofNat 64 (a.toNat * b.toNat) := by
  apply BitVec.eq_of_toNat_eq
  simp

theorem mulHigh_signed (a b : Word) : mulHigh true a b = BitVec.ofInt 32 (a.toInt * b.toInt / 2 ^ 32) := by
  rw [mulHigh, if_pos rfl, signExtend_mul_eq, hiHalf_ofInt]

theorem mulHigh_unsigned (a b : Word) : mulHigh false a b = BitVec.ofNat 32 (a.toNat * b.toNat / 2 ^ 32) := by
  rw [mulHigh, if_neg Bool.false_ne_true, setWidth_mul_eq, hiHalf_ofNat]

theorem natAbs_sub_eq (a b : Word) : BitVec.ofNat 32 (a.toInt - b.toInt).natAbs =
    BitVec.ofInt 32 (if a.toInt ≤ b.toInt then b.toInt - a.toInt else a.toInt - b.toInt) := by
  rw [← BitVec.ofInt_natCast]
  congr 1
  split <;> omega

theorem clamp32_eq (z : Int) : clamp32 z = BitVec.ofInt 32 (max (-(2 ^ 31)) (min (2 ^ 31 - 1) z)) := by
  unfold clamp32
  congr 1
  omega

theorem shiftLeft_eq_shl (a : Word) (n : Nat) : shiftLeft a n = a <<< n := by
  unfold shiftLeft
  split
  · next h => exact (BitVec.shiftLeft_eq_zero h).symm
  · rfl

theorem shiftLeft_eq (a : Word) (n : Nat) : shiftLeft a n = BitVec.ofNat 32 (a.toNat * 2 ^ n) := by
  rw [shiftLeft_eq_shl]
  apply BitVec.eq_of_toNat_eq
  simp [Nat.shiftLeft_eq]

theorem shiftRight_eq_ushr (a : Word) (n : Nat) : shiftRight a n = a >>> n := by
  unfold shiftRight
  split
  · next h => exact (BitVec.ushiftRight_eq_zero h).symm
  · rfl

theorem shiftRight_eq (a : Word) (n : Nat) : shiftRight a n = BitVec.ofNat 32 (a.toNat / 2 ^ n) := by
  rw [shiftRight_eq_ushr]
  apply BitVec.eq_of_toNat_eq
  have hlt : a.toNat / 2 ^ n < 2 ^ 32 := (Nat.div_le_self _ _).trans_lt a.isLt
  rw [BitVec.toNat_ofNat, Nat.mod_eq_of_lt hlt, BitVec.toNat_ushiftRight, Nat.shiftRight_eq_div_pow]

/-- A count from 31 on leaves copies of the sign (R188). -/
theorem shiftArith_eq_sshiftRight (a : Word) (n : Nat) : shiftArith a n = a.sshiftRight n := by
  by_cases hn : n ≤ 31
  · rw [shiftArith, Nat.min_eq_left hn]
  · apply BitVec.eq_of_getLsbD_eq
    intro i hi
    have hmsb : a.msb = a.getLsbD 31 := BitVec.msb_eq_getLsbD_last a
    rw [shiftArith, Nat.min_eq_right (by omega : 31 ≤ n), BitVec.getLsbD_sshiftRight, BitVec.getLsbD_sshiftRight, hmsb,
      if_neg (by omega : ¬n + i < 32)]
    by_cases h0 : i = 0
    · subst h0; simp
    · simp [show ¬31 + i < 32 by omega]

theorem shiftArith_eq (a : Word) (n : Nat) : shiftArith a n = BitVec.ofInt 32 (a.toInt / 2 ^ n) := by
  rw [shiftArith_eq_sshiftRight]
  apply BitVec.eq_of_toInt_eq
  rw [BitVec.toInt_sshiftRight, Int.shiftRight_eq_div_pow]
  have h1 := BitVec.toInt_lt (x := a)
  have h2 := BitVec.le_toInt (x := a)
  rw [BitVec.toInt_ofInt_eq_self (by norm_num)]
  · norm_num
  · rw [Int.le_ediv_iff_mul_le (by positivity)]
    nlinarith [show (1 : Int) ≤ 2 ^ n from one_le_pow₀ (by norm_num)]
  · apply Int.ediv_lt_of_lt_mul (by positivity)
    nlinarith [show (1 : Int) ≤ 2 ^ n from one_le_pow₀ (by norm_num)]

theorem rotLeft_eq (a : Word) (n : Nat) : rotLeft a n = a <<< (n % 32) ||| a >>> (32 - n % 32) := rfl

theorem rotRight_eq (a : Word) (n : Nat) : rotRight a n = a >>> (n % 32) ||| a <<< (32 - n % 32) := rfl

theorem shiftCount_mod (b : Word) : shiftCount b % 32 = b.toNat % 32 := by
  unfold shiftCount
  omega

/-- The leading zeros are those above the highest bit that is set. -/
theorem leadingZeros_eq (a : Word) : leadingZeros a = ((List.range 32).takeWhile fun i => !a.getLsbD (31 - i)).length := by
  rw [List.takeWhile_eq_take_findIdx_not, List.length_take, List.length_range]
  unfold leadingZeros
  split
  · next h0 =>
    rw [List.findIdx_eq_length_of_false (by simp [h0])]
    simp
  · next h0 =>
    have hne : a.toNat ≠ 0 := fun h => h0 (BitVec.eq_of_toNat_eq h)
    have hlog : a.toNat.log2 < 32 := (Nat.log2_lt hne).2 a.isLt
    have hidx : (List.range 32).findIdx (fun i => !!a.getLsbD (31 - i)) = 31 - a.toNat.log2 := by
      rw [List.findIdx_eq (by simp; omega)]
      constructor
      · simpa [show 31 - (31 - a.toNat.log2) = a.toNat.log2 by omega, ← BitVec.testBit_toNat] using Nat.testBit_log2 hne
      · intro j hj
        have habove : a.toNat < 2 ^ (31 - j) :=
          Nat.lt_log2_self.trans_le (Nat.pow_le_pow_right (by norm_num) (by omega))
        simpa [← BitVec.testBit_toNat] using Nat.testBit_lt_two_pow habove
    rw [hidx]
    omega

theorem reverseBits_eq (a : Word) : reverseBits a = a.reverse := by
  apply BitVec.eq_of_getLsbD_eq
  intro i hi
  rw [reverseBits, getLsbD_maskOf _ hi, BitVec.getLsbD_reverse, BitVec.getMsbD_eq_getLsbD]
  simp [hi]

/-- A field is as long as its length field says, within the word (R188). -/
theorem extractField_unsigned (a b : Word) : extractField false a b =
    BitVec.ofNat 32 (a.toNat / 2 ^ (b.toNat % 32) % 2 ^ min (b.toNat / 256 % 64) (32 - b.toNat % 32)) := by
  simp only [extractField, fieldOf, Nat.shiftRight_eq_div_pow]
  generalize min (b.toNat / 256 % 64) (32 - b.toNat % 32) = n
  split
  · next h => simp [h, Nat.mod_one]
  · rfl

theorem extractField_signed (a b : Word) : extractField true a b =
    (let n := min (b.toNat / 256 % 64) (32 - b.toNat % 32)
     let x := a.toNat / 2 ^ (b.toNat % 32) % 2 ^ n
     BitVec.ofInt 32 (if 2 * x < 2 ^ n then (x : Int) else x - 2 ^ n)) := by
  simp only [extractField, fieldOf, Nat.shiftRight_eq_div_pow, if_true]
  generalize min (b.toNat / 256 % 64) (32 - b.toNat % 32) = n
  generalize a.toNat / 2 ^ (b.toNat % 32) = y
  cases n with
  | zero => simp [Nat.mod_one]
  | succ n =>
    rw [if_neg n.succ_ne_zero, signed, Nat.add_sub_cancel]
    congr 1
    have h2 : 2 ^ (n + 1) = 2 * 2 ^ n := pow_succ' 2 n
    by_cases h : y % 2 ^ (n + 1) < 2 ^ n
    · rw [if_pos h, if_pos (by omega)]
    · rw [if_neg h, if_neg (by omega)]

theorem getLsbD_insertField (a b d : Word) {i : Nat} (hi : i < 32) : (insertField a b d).getLsbD i =
    if b.toNat % 32 ≤ i ∧ i < b.toNat % 32 + min (b.toNat / 256 % 64) (32 - b.toNat % 32)
      then a.getLsbD (i - b.toNat % 32) else d.getLsbD i := by
  simp only [insertField, fieldOf]
  generalize min (b.toNat / 256 % 64) (32 - b.toNat % 32) = n
  generalize b.toNat % 32 = st
  have hmask : (BitVec.ofNat 32 ((2 ^ n - 1) <<< st)).getLsbD i = decide (st ≤ i ∧ i < st + n) := by
    simp only [BitVec.getLsbD_ofNat, Nat.testBit_shiftLeft, Nat.testBit_two_pow_sub_one, hi, decide_true, Bool.true_and,
      ge_iff_le, ← Bool.decide_and, decide_eq_decide]
    omega
  simp only [BitVec.getLsbD_or, BitVec.getLsbD_and, BitVec.getLsbD_not, BitVec.getLsbD_shiftLeft, hmask, hi]
  by_cases h : st ≤ i ∧ i < st + n
  · simp [h]
  · simp [h]

/-- The dot products sum over the elements of packed words (R160, R189). -/
theorem dot_eq_dotOf {w : Nat} (hw : w ≠ 0) (sg : Bool) (a b : Word) : dot w sg a b = dotOf w sg a b := by
  have hel : ∀ (x : Word) (i : Nat), (if sg then signed w (elemOf w i x.toNat) else (elemOf w i x.toNat : Int)) =
      (let e := x.toNat / 2 ^ (w * i) % 2 ^ w; if sg ∧ 2 ^ w ≤ 2 * e then (e : Int) - 2 ^ w else e) := by
    intro x i
    obtain ⟨k, rfl⟩ := Nat.exists_eq_succ_of_ne_zero hw
    simp only [elemOf, Nat.shiftRight_eq_div_pow, signed, Nat.succ_sub_one]
    generalize x.toNat / 2 ^ (k.succ * i) % 2 ^ k.succ = e
    have h2 : 2 ^ k.succ = 2 * 2 ^ k := pow_succ' 2 k
    cases sg
    · simp
    · by_cases h : e < 2 ^ k
      · simp [h, show ¬2 ^ k.succ ≤ 2 * e by omega]
      · simp [h, show 2 ^ k.succ ≤ 2 * e by omega]
  simp only [dot, dotOf, elements, hel, List.zipWith_map, List.zipWith_self, List.sum_eq_foldl, List.foldl_map]

end Sys2Proof.Machine
end

section
/-! PROOFS. What registers, set elements and predicates hold after a write, and results in their destinations. -/

namespace Sys2Proof.Machine

/-! ### Registers of lanes, warps and sets after a write -/

theorem mem_codes {n k i : Nat} : i ∈ codes n k ↔ n ≤ i ∧ i < n + k := by
  simp only [codes, List.mem_map, List.mem_range]
  constructor
  · rintro ⟨j, hj, rfl⟩; omega
  · intro h; exact ⟨i - n, by omega, by omega⟩

/-- Registers that hold the words of a list in order. -/
theorem map_codes_eq {α : Type} {n k : Nat} {xs : List α} {f : Nat → α} (hk : xs.length = k)
    (h : ∀ i (hi : i < xs.length), f (n + i) = xs[i]) : (codes n k).map f = xs := by
  subst hk
  apply List.ext_getElem
  · simp [codes]
  · intro i _ hi
    simpa [codes] using h i hi

theorem length_wordsOf {n : Nat} (hn : n = 1 ∨ n = 2) (x : DWord) : (wordsOf n x).length = n := by
  rcases hn with rfl | rfl <;> rfl

theorem Lane.reg_setRegs_outside (xs : List Word) (l : Lane) {n k : Nat} (hk : k < n ∨ n + xs.length ≤ k) :
    (l.setRegs n xs).reg k = l.reg k := by
  induction xs generalizing l n with
  | nil => rfl
  | cons x xs ih =>
    rw [List.length_cons] at hk
    rw [Lane.setRegs, ih _ (by omega)]
    simp [Lane.reg, List.getD_eq_getElem?_getD, List.getElem?_set_ne (show n ≠ k by omega)]

theorem Lane.reg_setRegs (xs : List Word) (l : Lane) {n : Nat} (hn : n + xs.length ≤ l.v.length) {i : Nat}
    (hi : i < xs.length) : (l.setRegs n xs).reg (n + i) = xs[i] := by
  induction xs generalizing l n i with
  | nil => simp at hi
  | cons x xs ih =>
    rw [List.length_cons] at hn hi
    cases i with
    | zero =>
      rw [Lane.setRegs, Lane.reg_setRegs_outside _ _ (by omega)]
      simp [Lane.reg, List.getD_eq_getElem?_getD, show n < l.v.length by omega]
    | succ i =>
      rw [Lane.setRegs, show n + (i + 1) = n + 1 + i by omega]
      simpa using ih
        { l with v := l.v.set n x, empty := l.empty &&& ~~~(1#64 <<< n), poison := l.poison &&& ~~~(1#64 <<< n) }
        (by simpa using (by omega : n + 1 + xs.length ≤ l.v.length)) (by omega)

/-- A bit cleared in a mask of registers. -/
theorem getLsbD_clear (m : DWord) {n k : Nat} (hk : k < 64) :
    (m &&& ~~~(1#64 <<< n)).getLsbD k = (m.getLsbD k && decide (k ≠ n)) := by
  simp only [BitVec.getLsbD_and, BitVec.getLsbD_not, BitVec.getLsbD_shiftLeft, BitVec.getLsbD_one, hk, decide_true,
    Bool.true_and]
  congr 1
  by_cases h : k = n
  · simp [h]
  · simp [h]; omega

theorem Lane.marks_setRegs (xs : List Word) (l : Lane) {n k : Nat} (hk : k < 64) :
    (l.setRegs n xs).full k = (l.full k || decide (n ≤ k ∧ k < n + xs.length)) ∧
      (l.setRegs n xs).poisoned k = (l.poisoned k && !decide (n ≤ k ∧ k < n + xs.length)) := by
  induction xs generalizing l n with
  | nil => simp [show ¬(n ≤ k ∧ k < n) by omega]
  | cons x xs ih =>
    have hrange : (n ≤ k ∧ k < n + (xs.length + 1)) ↔ k = n ∨ (n + 1 ≤ k ∧ k < n + 1 + xs.length) := by omega
    simp only [Lane.setRegs, ih, List.length_cons, hrange, Bool.decide_or]
    simp only [Lane.full, Lane.poisoned, getLsbD_clear _ hk]
    by_cases h : k = n <;> simp [h]

theorem Warp.reg_setRegs_outside (xs : List Word) (w : Warp) {n k : Nat} (hk : k < n ∨ n + xs.length ≤ k) :
    (w.setRegs n xs).reg k = w.reg k := by
  induction xs generalizing w n with
  | nil => rfl
  | cons x xs ih =>
    rw [List.length_cons] at hk
    rw [Warp.setRegs, ih _ (by omega)]
    simp [Warp.setReg, Warp.reg, List.getD_eq_getElem?_getD, List.getElem?_set_ne (show n ≠ k by omega)]

theorem Warp.reg_setRegs (xs : List Word) (w : Warp) {n : Nat} (hn : n + xs.length ≤ w.w.length) {i : Nat}
    (hi : i < xs.length) : (w.setRegs n xs).reg (n + i) = xs[i] := by
  induction xs generalizing w n i with
  | nil => simp at hi
  | cons x xs ih =>
    rw [List.length_cons] at hn hi
    cases i with
    | zero =>
      rw [Warp.setRegs, Warp.reg_setRegs_outside _ _ (by omega), Warp.reg_setReg _ _ _ _ (by omega)]
      simp
    | succ i =>
      rw [Warp.setRegs, show n + (i + 1) = n + 1 + i by omega]
      simpa using ih (w.setReg n x) (by simpa [Warp.setReg] using (by omega : n + 1 + xs.length ≤ w.w.length)) (by omega)

theorem SetB.elem_setElem_other (st : SetB) {n pos l c p k : Nat} (e : Elem)
    (h : c ≠ n ∨ p * 32 + k ≠ pos * 32 + l) : (st.setElem n pos l e).elem c p k = st.elem c p k := by
  simp only [SetB.elem, SetB.setElem, getD_modify]
  by_cases hc : n = c ∧ c < st.g.length
  · rw [if_pos hc]
    simp [List.getD_eq_getElem?_getD, List.getElem?_set_ne (show pos * 32 + l ≠ p * 32 + k by omega)]
  · rw [if_neg hc]

theorem SetB.elem_setElem_same (st : SetB) {gregs n pos l : Nat} (e : Elem) (hf : st.formed gregs) (hn : n < gregs)
    (hp : pos < popcount st.members) (hl : l < 32) : (st.setElem n pos l e).elem n pos l = e := by
  have hng : n < st.g.length := by rw [hf.1]; exact hn
  have hin : pos * 32 + l < (st.g.getD n []).length := by
    rw [List.getD_eq_getElem _ _ hng, hf.2 _ (List.getElem_mem hng)]
    omega
  simp only [SetB.elem, SetB.setElem, getD_modify]
  rw [if_pos (by simpa using hng), List.getD_eq_getElem _ _ (by simpa using hin), List.getElem_set_self]

theorem SetB.formed_setElem {st : SetB} {gregs : Nat} (hf : st.formed gregs) (n pos l : Nat) (e : Elem) :
    (st.setElem n pos l e).formed gregs := by
  obtain ⟨hlen, hes⟩ := hf
  refine ⟨by simpa [SetB.setElem] using hlen, fun es hmem => ?_⟩
  obtain ⟨i, hi, rfl⟩ := List.getElem_of_mem hmem
  simp only [SetB.setElem, List.length_modify] at hi
  simp only [SetB.setElem, List.getElem_modify]
  split <;> simp [hes _ (List.getElem_mem hi)]

theorem SetB.elem_setElems_other (xs : List Word) (st : SetB) {n pos l c p k : Nat}
    (h : c < n ∨ n + xs.length ≤ c ∨ p * 32 + k ≠ pos * 32 + l) :
    (st.setElems n pos l xs).elem c p k = st.elem c p k := by
  induction xs generalizing st n with
  | nil => rfl
  | cons x xs ih =>
    rw [List.length_cons] at h
    rw [SetB.setElems, ih _ (by omega), SetB.elem_setElem_other _ _ (by omega)]

theorem SetB.elem_setElems_same (xs : List Word) {st : SetB} {gregs n pos l : Nat} (hf : st.formed gregs)
    (hn : n + xs.length ≤ gregs) (hp : pos < popcount st.members) (hl : l < 32) {i : Nat} (hi : i < xs.length) :
    (st.setElems n pos l xs).elem (n + i) pos l = ⟨xs[i], true, false⟩ := by
  induction xs generalizing st n i with
  | nil => simp at hi
  | cons x xs ih =>
    rw [List.length_cons] at hn hi
    cases i with
    | zero =>
      rw [SetB.setElems, SetB.elem_setElems_other _ _ (by omega)]
      exact SetB.elem_setElem_same _ _ hf (by omega) hp hl
    | succ i =>
      rw [SetB.setElems, show n + (i + 1) = n + 1 + i by omega]
      exact ih (SetB.formed_setElem hf _ _ _ _) (by omega) hp (by omega)

theorem SetB.setElems_keeps (xs : List Word) {st : SetB} {gregs : Nat} (hf : st.formed gregs) (n pos l : Nat) :
    (st.setElems n pos l xs).formed gregs ∧ (st.setElems n pos l xs).members = st.members := by
  induction xs generalizing st n with
  | nil => exact ⟨hf, rfl⟩
  | cons x xs ih => exact ih (SetB.formed_setElem hf _ _ _ _) _

theorem Lane.pred_eq_getLsbD (l : Lane) {p : BitVec 3} (hp : p.toNat ≤ 6) : l.pred p = l.preds.getLsbD p.toNat := by
  have h7 : (p == 7#3) = false := by
    rw [beq_eq_false_iff_ne]
    intro h
    rw [h] at hp
    exact absurd hp (by decide)
  simp [Lane.pred, h7]

theorem Lane.pred_setPred (l : Lane) {p : BitVec 3} (hp : p.toNat ≤ 6) (c : Bool) : (l.setPred p.toNat c).pred p = c := by
  have hbit : (1#7 <<< p.toNat).getLsbD p.toNat = true := by simp; omega
  rw [Lane.pred_eq_getLsbD _ hp]
  cases c <;> simp [Lane.setPred, hbit]

/-! ### Results in their destinations (R91, R97, R133, R186) -/

/-- The operand that a destination stands for at a scope (R92, R95). -/
def Dst.opd (d : Dst) (sc : Nat) : Opd :=
  match d with
  | .reg c n => ⟨scopeClass sc, c, n, false⟩
  | .pred pd _ => ⟨.pd, pd.toNat, 1, false⟩

/-- A destination is one register, a pair, or a predicate (R93). -/
def Dst.sized : Dst → Prop
  | .reg _ n => n = 1 ∨ n = 2
  | .pred _ _ => True

/-- Whether a destination lies within `size` registers, or within the predicates. -/
def Dst.fits (d : Dst) (size : Nat) : Prop :=
  match d with
  | .reg c n => (n = 1 ∨ n = 2) ∧ c + n ≤ size
  | .pred pd _ => pd.toNat ≤ 6

/-- The registers of a class (R9, R93). -/
def classSize (gregs sc : Nat) : Nat :=
  match sc with
  | 0 => 64
  | 2 => gregs
  | _ => 32

theorem Dst.fits_of_ok {d : Dst} {lregs gregs sc : Nat} (hs : d.sized) (h : (d.opd sc).ok lregs gregs = true) :
    d.fits (classSize gregs sc) := by
  simp only [Opd.ok, Bool.and_eq_true] at h
  obtain ⟨hcode, -⟩ := h
  cases d with
  | pred pd cb => exact of_decide_eq_true (p := pd.toNat ≤ 6) hcode
  | reg c n =>
    refine ⟨hs, ?_⟩
    simp only [Dst.opd] at hcode
    unfold classSize
    split
    · simp only [scopeClass, codeOk, Bool.and_eq_true, decide_eq_true_eq] at hcode
      exact hcode.1.2
    · simp only [scopeClass, codeOk, Bool.and_eq_true, decide_eq_true_eq] at hcode
      exact hcode.2
    · next h0 h2 =>
      have hw : scopeClass sc = .w := by
        unfold scopeClass
        split
        · exact absurd rfl h0
        · exact absurd rfl h2
        · rfl
      simp only [hw, codeOk, Bool.and_eq_true, decide_eq_true_eq] at hcode
      exact hcode.2

theorem Dst.inLane_pred {pd : BitVec 3} (hd : pd.toNat ≤ 6) (cb : BitVec 2) {old l : Lane} (hp : l.preds = old.preds)
    (x : DWord) : (Dst.pred pd cb).inLane old ((Dst.pred pd cb).toLane x l) x := by
  simp only [Dst.inLane, Lane.pred_eq_getLsbD old hd, ← hp]
  exact Lane.pred_setPred _ hd _

theorem Dst.inLane_toLane {d : Dst} (hd : d.fits 64) {old l : Lane} (hp : l.preds = old.preds) (hv : l.v.length = 64)
    (x : DWord) : d.inLane old (d.toLane x l) x := by
  cases d with
  | reg c n =>
    obtain ⟨hn, hc⟩ := hd
    have hlen := length_wordsOf hn x
    refine ⟨map_codes_eq hlen fun i hi => Lane.reg_setRegs _ _ (by omega) hi, fun i hi => ?_⟩
    rw [mem_codes] at hi
    have hmarks := Lane.marks_setRegs (wordsOf n x) l (n := c) (k := i) (by omega)
    rw [hlen] at hmarks
    simpa [hi, Dst.toLane] using hmarks
  | pred pd cb => exact Dst.inLane_pred hd cb hp x

theorem Dst.inLane_advance {d : Dst} {old l : Lane} {x : DWord} (h : d.inLane old l x) (c n : Nat) :
    d.inLane old (l.advance c n) x := by
  cases d <;> exact h

/-- A write of a lane's part leaves its place, and the number of its registers. -/
theorem Dst.toLane_place (d : Dst) (x : DWord) (l : Lane) : (d.toLane x l).pc = l.pc ∧ (d.toLane x l).run = l.run := by
  cases d with
  | reg c n => exact ⟨(Lane.setRegs_frame _ l c).1, (Lane.setRegs_frame _ l c).2.1⟩
  | pred pd cb => exact ⟨rfl, rfl⟩

theorem Dst.inWarp_toWarp {d : Dst} (hd : d.fits 32) {old W : Warp} {m : Word} (hw : W.w.length = 32)
    (hl : W.lanes.length = 32) (hp : ∀ l, (W.lane l).preds = (old.lane l).preds) (x : DWord) :
    d.inWarp old (d.toWarp x m W) m x := by
  cases d with
  | reg c n =>
    obtain ⟨hn, hc⟩ := hd
    have hlen := length_wordsOf hn x
    exact map_codes_eq hlen fun i hi => Warp.reg_setRegs _ _ (by omega) hi
  | pred pd cb =>
    intro l hlm
    rw [mem_lanesOf] at hlm
    rw [Dst.toWarp, Warp.lane_mapLanes, if_pos ⟨hlm.2, by omega⟩]
    exact Dst.inLane_pred hd cb (hp l) x

theorem Dst.toWarp_place (d : Dst) (x : DWord) (m : Word) (W : Warp) (l : Nat) :
    ((d.toWarp x m W).lane l).pc = (W.lane l).pc ∧ ((d.toWarp x m W).lane l).run = (W.lane l).run := by
  cases d with
  | reg c n =>
    have hlanes := (Warp.setRegs_frame (wordsOf n x) W c).1
    simp only [Dst.toWarp, Warp.lane, hlanes, and_self]
  | pred pd cb =>
    rw [Dst.toWarp, Warp.lane_mapLanes]
    split
    · exact Dst.toLane_place _ _ _
    · exact ⟨rfl, rfl⟩

end Sys2Proof.Machine
end

section
/-! PROOFS. Blocks whose lanes move, and the arrival at a rendezvous with its issue (R123 to R129). -/

namespace Sys2Proof.Machine

/-! ### Blocks whose lanes move and whose registers stay -/

/-- A lane may stand elsewhere; its registers and predicates are as they were. -/
def Lane.Moved (x y : Lane) : Prop :=
  y = { x with pc := y.pc, run := y.run, status := y.status, replay := y.replay, watchSkip := y.watchSkip }

/-- Lanes of a warp may have moved; nothing else of it has changed. -/
structure Warp.Moved (V W : Warp) : Prop where
  rest : W = { V with lanes := W.lanes }
  size : W.lanes.length = V.lanes.length
  lane : ∀ l, (V.lane l).Moved (W.lane l)

/-- Lanes of a block may have moved, and its rendezvous may be others; nothing else of it has changed. -/
structure Block.Moved (b c : Block) : Prop where
  rest : c = { b with warps := c.warps, insts := c.insts }
  size : c.warps.length = b.warps.length
  warp : ∀ w, (b.warp w).Moved (c.warp w)

theorem Lane.Moved.refl (x : Lane) : x.Moved x := rfl

theorem Lane.Moved.trans {x y z : Lane} (h : x.Moved y) (g : y.Moved z) : x.Moved z := by
  unfold Lane.Moved at *
  rw [g, h]

theorem Warp.Moved.refl (W : Warp) : W.Moved W := ⟨rfl, rfl, fun _ => .refl _⟩

theorem Warp.Moved.trans {U V W : Warp} (h : U.Moved V) (g : V.Moved W) : U.Moved W :=
  ⟨by rw [g.rest, h.rest], g.size.trans h.size, fun l => (h.lane l).trans (g.lane l)⟩

theorem Block.Moved.refl (b : Block) : b.Moved b := ⟨rfl, rfl, fun _ => .refl _⟩

theorem Block.Moved.trans {a b c : Block} (h : a.Moved b) (g : b.Moved c) : a.Moved c :=
  ⟨by rw [g.rest, h.rest], g.size.trans h.size, fun w => (h.warp w).trans (g.warp w)⟩

theorem Warp.moved_mapLanes (W : Warp) (m : Word) {f : Nat → Lane → Lane} (h : ∀ l (x : Lane), x.Moved (f l x)) :
    W.Moved (W.mapLanes m f) := by
  refine ⟨rfl, by simp [Warp.mapLanes], fun l => ?_⟩
  rw [Warp.lane_mapLanes]
  split
  · exact h _ _
  · exact .refl _

theorem Block.moved_updWarp (b : Block) (w : Nat) {f : Warp → Warp} (h : ∀ W : Warp, W.Moved (f W)) :
    b.Moved (b.updWarp w f) := by
  refine ⟨rfl, by simp [Block.updWarp], fun v => ?_⟩
  rw [Block.warp_updWarp]
  split
  · exact h _
  · exact .refl _

theorem Block.Moved.withInsts {b c : Block} (h : b.Moved c) (insts : List Inst) : b.Moved { c with insts := insts } :=
  ⟨by rw [h.rest], h.size, h.warp⟩

theorem Lane.Moved.preds {x y : Lane} (h : x.Moved y) : y.preds = x.preds := by rw [h]
theorem Lane.Moved.guard {x y : Lane} (h : x.Moved y) (gn : Bool) (gp : BitVec 3) : y.guard gn gp = x.guard gn gp := by
  rw [h]; rfl

theorem Warp.Moved.view {V W : Warp} (h : V.Moved W) : W.view = V.view := by rw [h.rest]; rfl
theorem Warp.Moved.regs {V W : Warp} (h : V.Moved W) : W.w = V.w := by rw [h.rest]
theorem Warp.Moved.live {V W : Warp} (h : V.Moved W) : W.live = V.live := by rw [h.rest]

theorem Block.Moved.sets {b c : Block} (h : b.Moved c) : c.sets = b.sets := by rw [h.rest]
theorem Block.Moved.halt {b c : Block} (h : b.Moved c) : c.halt = b.halt := by rw [h.rest]

theorem Block.Moved.lives {b c : Block} (h : b.Moved c) : c.warps.map (·.live) = b.warps.map (·.live) := by
  apply List.ext_getElem
  · simp [h.size]
  · intro w hc hb
    rw [List.length_map] at hc hb
    simpa [Block.warp, List.getD_eq_getElem, hc, hb] using (h.warp w).live

theorem Block.needed_eq (b : Block) (y : Inst) : b.needed y = List.zipWith (· &&& ·) y.part (b.warps.map (·.live)) := by
  rw [Block.needed, List.zipWith_map_right]

theorem Block.Moved.needed {b c : Block} (h : b.Moved c) (y : Inst) : c.needed y = b.needed y := by
  rw [Block.needed_eq, Block.needed_eq, h.lives]

theorem Block.Moved.firstLive {b c : Block} (h : b.Moved c) : c.firstLive = b.firstLive := by
  have hmap : ∀ a : Block, a.firstLive = ((a.warps.map (·.live)).findIdx? (· != 0#32)).getD 0 := by
    intro a
    rw [List.findIdx?_map]
    rfl
  rw [hmap, hmap, h.lives]

theorem Block.Moved.others {b c : Block} (h : b.Moved c) (i : Nat) (n : List Word) : c.others i n = b.others i n := by
  simp only [Block.others, Block.set, h.sets, (h.warp _).live]

theorem Block.Moved.othersPend {b c : Block} (h : b.Moved c) (i : Nat) (n : List Word) (regs : List Nat) :
    c.othersPend i n regs = b.othersPend i n regs := by
  simp only [Block.othersPend, h.others, Block.set, h.sets]

@[simp] theorem Ex.of_is (s : State) (is : Issue) : (Ex.of s is).is = is := rfl

/-! ### Arrival at a rendezvous and its issue (R123 to R129) -/

theorem Block.moved_park (b : Block) (w : Nat) (m : Word) (st : LaneStatus) : b.Moved (b.park w m st) :=
  b.moved_updWarp w fun W => W.moved_mapLanes m fun _ _ => rfl

/-- Parked lanes stay at their words. -/
theorem Block.park_place (b : Block) (w : Nat) (m : Word) (st : LaneStatus) (v l : Nat) :
    (((b.park w m st).warp v).lane l).pc = ((b.warp v).lane l).pc ∧
      (((b.park w m st).warp v).lane l).run = ((b.warp v).lane l).run := by
  rw [Block.park, Block.warp_updWarp]
  split
  · rw [Warp.lane_mapLanes]
    split <;> exact ⟨rfl, rfl⟩
  · exact ⟨rfl, rfl⟩

theorem Block.putInst_insts (b : Block) (y : Inst) (p : Prop) [Decidable p] :
    (if p then b else b.putInst y) = { b with insts := if p then b.insts else (b.putInst y).insts } := by
  unfold Block.putInst
  dsimp only
  split
  · rfl
  · split <;> rfl

/-- The rendezvous that a group opens at its instruction, at which none of its lanes has arrived yet (R123). -/
def Ex.newInst (x : Ex) (u : RdvUnit) (k : Nat) : Inst :=
  ⟨u, x.addr, x.partOf u k, x.b.warps.map fun _ => 0, false, 0⟩

/-- What an arrival that lets its instruction issue does: it finds a rendezvous that has completed, or it is the last at
one that is open or new, whose lanes then wait there. -/
theorem Ex.arrive_issues {x : Ex} {u : RdvUnit} {k : Nat} {s : State} {y : Inst} (h : x.arrive u k = (s, some y)) :
    (s = x.s ∧ y ∈ x.b.insts ∧ y.u = u) ∨
    ∃ z m insts, (z ∈ x.b.insts ∧ z.u = u ∨ z = x.newInst u k) ∧
      y = { z with arrived := z.arrived.set x.is.warp (z.arrived.getD x.is.warp 0 ||| m), granted := true } ∧
      s = x.s.updBlk x.is.blk fun _ => { x.b.park x.is.warp m (.rdv u x.addr) with insts := insts } := by
  unfold Ex.arrive at h
  dsimp only at h
  split at h
  · next z hz =>
    obtain ⟨rfl, rfl⟩ := by simpa using h
    have hu := List.find?_some hz
    simp only [Bool.and_eq_true, beq_iff_eq] at hu
    exact .inl ⟨rfl, List.mem_of_find?_eq_some hz, hu.1.1.1⟩
  · right
    have hz : ∀ z, (x.b.insts.find? fun y => y.u == u && y.addr == x.addr && !y.granted).getD (x.newInst u k) = z →
        (z ∈ x.b.insts ∧ z.u = u ∨ z = x.newInst u k) := by
      rintro _ rfl
      rcases hfind : x.b.insts.find? fun y => y.u == u && y.addr == x.addr && !y.granted with _ | z
      · exact .inr (by rw [hfind, Option.getD_none])
      · have hu := List.find?_some hfind
        simp only [Bool.and_eq_true, beq_iff_eq] at hu
        rw [hfind, Option.getD_some]
        exact .inl ⟨List.mem_of_find?_eq_some hfind, hu.1.1⟩
    rw [← Ex.newInst] at h
    generalize (x.b.insts.find? fun y => y.u == u && y.addr == x.addr && !y.granted).getD (x.newInst u k) = z at h hz
    split at h
    · simp at h
    · split at h
      · next hgo =>
        rw [hgo] at h
        simp only [Prod.mk.injEq, Option.some.injEq] at h
        obtain ⟨rfl, rfl⟩ := h
        exact ⟨z, _, _, hz z rfl, rfl, congrArg (x.s.updBlk x.is.blk) (funext fun _ => Block.putInst_insts _ _ _)⟩
      · simp at h

/-- A rendezvous newly opened speaks of the warps of its block (R124 to R126). -/
theorem Ex.newInst_formed (x : Ex) (u : RdvUnit) (k : Nat) : (x.newInst u k).formed x.b := by
  have hgetD : ∀ (f : Nat → Warp → Word) (v : Nat), (x.b.warps.mapIdx f).getD v 0 ≠ 0 → f v (x.b.warp v) ≠ 0 := by
    intro f v hv
    simp only [List.getD_eq_getElem?_getD, List.getElem?_mapIdx] at hv
    by_cases hlt : v < x.b.warps.length
    · simpa [hlt, Block.warp] using hv
    · simp [hlt] at hv
  refine ⟨?_, by simp [Ex.newInst], ?_, ?_⟩
  · cases u <;> simp [Ex.newInst, Ex.partOf]
  · rintro i hu v hv
    obtain rfl : u = .set i := hu
    have hpart := hgetD _ v hv
    by_contra hmem
    exact hpart (by simp [hmem])
  · rintro w0 hu v hne
    obtain rfl : u = .warp w0 := hu
    by_contra hv
    exact hgetD _ v hv (if_neg hne)

/-- The rendezvous at which an instruction issues is of its unit and speaks of the warps of the block. -/
theorem Ex.arrive_inst {x : Ex} {u : RdvUnit} {k : Nat} {s : State} {y : Inst} (hf : ∀ z ∈ x.b.insts, z.formed x.b)
    (h : x.arrive u k = (s, some y)) : y.u = u ∧ y.formed x.b := by
  rcases Ex.arrive_issues h with ⟨-, hy, hu⟩ | ⟨z, m, insts, hz, rfl, -⟩
  · exact ⟨hu, hf y hy⟩
  · have hzf : z.u = u ∧ z.formed x.b := by
      rcases hz with ⟨hz, hu⟩ | rfl
      · exact ⟨hu, hf z hz⟩
      · exact ⟨rfl, x.newInst_formed u k⟩
    obtain ⟨hu, hpart, harr, hset, hwarp⟩ := hzf
    exact ⟨hu, hpart, by simpa using harr, hset, hwarp⟩

/-- An arrival that lets its instruction issue moves lanes of its block only, and none of them past its word. -/
theorem Ex.arrive_moved {s t : State} {is : Issue} {u : RdvUnit} {k : Nat} {y : Inst} (hb : is.blk < s.blocks.length)
    (h : (Ex.of s is).arrive u k = (t, some y)) :
    t.blocks.length = s.blocks.length ∧ t.cycle = s.cycle ∧ (s.blk is.blk).Moved (t.blk is.blk) ∧
      ∀ w l, (t.lane is.blk w l).pc = (s.lane is.blk w l).pc ∧ (t.lane is.blk w l).run = (s.lane is.blk w l).run := by
  rcases Ex.arrive_issues h with ⟨rfl, -, -⟩ | ⟨z, m, insts, -, -, rfl⟩
  · exact ⟨rfl, rfl, .refl _, fun _ _ => ⟨rfl, rfl⟩⟩
  · have hblk : ∀ f : Block → Block, ((Ex.of s is).s.updBlk (Ex.of s is).is.blk f).blk is.blk = f (s.blk is.blk) :=
      fun f => State.blk_updBlk_same s is.blk f hb
    refine ⟨State.blocks_length_updBlk _ _ _, rfl, ?_, fun w l => ?_⟩
    · rw [hblk]
      exact (Block.moved_park _ _ _ _).withInsts insts
    · simp only [State.lane, State.warp, hblk]
      exact Block.park_place _ _ _ _ w l

theorem Inst.mem_lanes {n : List Word} {p : Nat × Nat} :
    p ∈ Inst.lanes n ↔ p.1 < n.length ∧ p.2 < 32 ∧ (n.getD p.1 0).getLsbD p.2 = true := by
  obtain ⟨w, l⟩ := p
  simp only [Inst.lanes, List.mem_flatMap, List.mem_range, List.mem_map, mem_lanesOf, Prod.mk.injEq]
  constructor
  · rintro ⟨v, hv, k, hk, rfl, rfl⟩; exact ⟨hv, hk⟩
  · rintro ⟨hv, hk⟩; exact ⟨w, hv, l, hk, rfl, rfl⟩

/-- NEEDED lies within the participants of each warp (R123). -/
theorem Block.length_needed {b : Block} {y : Inst} (hy : y.formed b) : (b.needed y).length = b.warps.length := by
  simp [Block.needed, hy.1]

theorem Block.needed_getD {b : Block} {y : Inst} (hy : y.formed b) (w : Nat) :
    (b.needed y).getD w 0 = if w < b.warps.length then y.part.getD w 0 &&& (b.warp w).live else 0 := by
  obtain ⟨hpart, -⟩ := hy
  split
  · next hw => simp [Block.needed, Block.warp, List.getD_eq_getElem?_getD, hw, hpart]
  · next hw => simp [Block.needed, List.getD_eq_getElem?_getD, hw]

/-- Every lane that a completed rendezvous needs has come (R123). -/
theorem Block.needed_arrived {b : Block} {y : Inst} (hy : y.formed b) (hc : b.completes y = true) {w l : Nat}
    (hl : ((b.needed y).getD w 0).getLsbD l = true) : (y.arrived.getD w 0).getLsbD l = true := by
  simp only [Block.completes, Bool.and_eq_true, List.all_eq_true] at hc
  obtain ⟨-, hall⟩ := hc
  have hlen := Block.length_needed hy
  by_cases hw : w < b.warps.length
  · have hn : w < (b.needed y).length := by omega
    have ha : w < y.arrived.length := by rw [hy.2.1]; exact hw
    have hsub : subset (b.needed y)[w] y.arrived[w] = true :=
      hall _ (List.mem_iff_getElem.2 ⟨w, by rw [List.length_zipWith]; omega, List.getElem_zipWith⟩)
    rw [List.getD_eq_getElem _ _ hn] at hl
    rw [List.getD_eq_getElem _ _ ha]
    simp only [subset, beq_iff_eq] at hsub
    have hbit := congrArg (·.getLsbD l) hsub
    by_cases hl32 : l < 32
    · simpa [hl, hl32] using hbit
    · simp [BitVec.getLsbD_of_ge _ _ (by omega : 32 ≤ l)] at hl
  · rw [List.getD_eq_default _ _ (by omega)] at hl
    simp at hl

theorem Block.warp_finish (b : Block) (cycle : Nat) (y : Inst) (w : Nat) :
    (b.finish cycle y).warp w = if w < b.warps.length then (b.warp w).advance (y.arrived.getD w 0) cycle else b.warp w := by
  simp only [Block.finish, Block.warp, List.getD_eq_getElem?_getD, List.getElem?_mapIdx]
  by_cases hw : w < b.warps.length <;> simp [hw]

theorem Block.moved_finish (b : Block) (cycle : Nat) (y : Inst) : b.Moved (b.finish cycle y) := by
  refine ⟨rfl, by simp [Block.finish], fun w => ?_⟩
  rw [Block.warp_finish]
  split
  · exact Warp.moved_mapLanes _ _ fun _ _ => rfl
  · exact .refl _

theorem Block.lane_finish (b : Block) (cycle : Nat) (y : Inst) {w l : Nat} (hw : w < b.warps.length)
    (hl : l < (b.warp w).lanes.length) (ha : (y.arrived.getD w 0).getLsbD l = true) :
    (((b.finish cycle y).warp w).lane l).pc = ((b.warp w).lane l).pc + 4 ∧
      (((b.finish cycle y).warp w).lane l).run = [] := by
  rw [Block.warp_finish, if_pos hw, Warp.advance, Warp.lane_mapLanes, if_pos ⟨ha, hl⟩]
  exact ⟨rfl, rfl⟩

theorem Block.formed_warp {b : Block} (hb : b.formed) {w : Nat} (hw : w < b.warps.length) : (b.warp w).formed := by
  obtain ⟨-, -, -, hwarps, -⟩ := hb
  rw [Block.warp, List.getD_eq_getElem _ _ hw]
  exact hwarps _ (List.getElem_mem hw)

theorem Block.formed_set {b : Block} (hb : b.formed) {i : Nat} (hi : i < b.sets.length) : (b.set i).formed b.gregs := by
  obtain ⟨-, -, -, -, hsets, -⟩ := hb
  rw [Block.set, List.getD_eq_getElem _ _ hi]
  exact hsets _ (List.getElem_mem hi)

theorem Block.formed_inst {b : Block} (hb : b.formed) : ∀ y ∈ b.insts, y.formed b := by
  obtain ⟨-, -, -, -, -, hinsts⟩ := hb
  exact hinsts

theorem State.formed_blk {s : State} (hs : s.formed) {b : Nat} (hb : b < s.blocks.length) : (s.blk b).formed := by
  obtain ⟨⟨hblocks, -⟩, -⟩ := hs
  rw [State.blk, List.getD_eq_getElem _ _ hb]
  exact hblocks _ (List.getElem_mem hb)

theorem State.blk_finish {s : State} {b : Nat} (hb : b < s.blocks.length) (y : Inst) :
    (s.finish b y).blk b = (s.blk b).finish s.cycle y := State.blk_updBlk_same _ _ _ hb

/-- A block once an instruction of a wider scope has issued: lanes have moved, those that it needs past the instruction
(R129). -/
theorem Ex.issued {s t : State} {is : Issue} {u : RdvUnit} {k : Nat} {y : Inst} (hs : s.formed)
    (hb : is.blk < s.blocks.length) (h : (Ex.of s is).completes u k t y) :
    (s.blk is.blk).Moved ((t.finish is.blk y).blk is.blk) ∧ (Ex.of s is).past y (t.finish is.blk y) := by
  obtain ⟨harr, hc⟩ := h
  have hbf := State.formed_blk hs hb
  obtain ⟨hlen, -, hmoved, hplace⟩ := Ex.arrive_moved hb harr
  obtain ⟨-, hy⟩ := Ex.arrive_inst (Block.formed_inst hbf) harr
  have hfin := State.blk_finish (s := t) (b := is.blk) (by omega) y
  refine ⟨hfin ▸ hmoved.trans (Block.moved_finish _ _ _), fun p hp => ?_⟩
  obtain ⟨hw, hl, hn⟩ := Inst.mem_lanes.1 hp
  have hw' : p.1 < (s.blk is.blk).warps.length := Block.length_needed hy ▸ hw
  have hl' : p.2 < ((t.blk is.blk).warp p.1).lanes.length := by
    rw [(hmoved.warp p.1).size, (Block.formed_warp hbf hw').1]
    exact hl
  obtain ⟨hpc, hrun⟩ := Block.lane_finish (t.blk is.blk) t.cycle y (hmoved.size ▸ hw') hl' (Block.needed_arrived hy hc hn)
  simp only [State.lane, State.warp] at hplace ⊢
  rw [Ex.of_is, hfin]
  exact ⟨hpc.trans (by rw [(hplace _ _).1]; rfl), hrun⟩

end Sys2Proof.Machine
end

section
/-! PROOFS. Instructions on registers at lane, warp and block scope (R117, R186). -/

namespace Sys2Proof.Machine

/-! ### Events leave the blocks as they are -/

theorem State.deliver_blocks (s : State) (g : Sig) (ms die cl : Nat) (except : Option Nat) :
    (s.deliver g ms die cl except).blocks = s.blocks := by
  unfold State.deliver
  split <;> rfl

theorem State.raise_blocks (s : State) (i : Intr) : (s.raise i).blocks = s.blocks := by
  unfold State.raise
  split <;> rfl

theorem State.log_blocks (s : State) (die : Nat) (r : LogRec) : (s.log die r).blocks = s.blocks := by
  simp only [State.log, State.raise_blocks, State.updDie]
  split
  · rfl
  · rw [State.deliver_blocks, State.writePa_blocks]

theorem State.countOne_blocks (s : State) (l i : Nat) : (s.countOne l i).blocks = s.blocks := by
  have hif : ∀ (u : State) (c : Bool) (d : Nat) (r : LogRec) (n : Intr),
      (if c then (u.log d r).raise n else u).blocks = u.blocks := by
    intro u c d r n
    split
    · rw [State.raise_blocks, State.log_blocks]
    · rfl
  exact (hif _ _ _ _ _).trans (State.updLaunch_blocks _ _ _)

theorem State.countEvents_blocks (s : State) (l g : Nat) (e : Events) : (s.countEvents l g e).blocks = s.blocks := by
  have hif : ∀ (t : State) (c : Bool) (i : Nat), (if c then t.countOne l i else t).blocks = t.blocks := by
    intro t c i
    split
    · exact State.countOne_blocks _ _ _
    · rfl
  simp only [State.countEvents, hif]

theorem State.countAll_blocks (s : State) (l : Nat) (es : List (Nat × Events)) : (s.countAll l es).blocks = s.blocks := by
  induction es generalizing s with
  | nil => rfl
  | cons e es ih => exact (ih _).trans (State.countEvents_blocks _ _ _ _)

theorem State.blk_countAll (s : State) (l : Nat) (es : List (Nat × Events)) (b : Nat) :
    (s.countAll l es).blk b = s.blk b := by
  rw [State.blk, State.countAll_blocks, State.blk]

theorem State.warp_countAll (s : State) (l : Nat) (es : List (Nat × Events)) (b w : Nat) :
    (s.countAll l es).warp b w = s.warp b w := congrArg (Block.warp · w) (State.blk_countAll s l es b)

/-! ### Lane scope (R117) -/

theorem State.warp_uncountSkid (s : State) (b w v : Nat) : (s.uncountSkid b w).warp b v = s.warp b v := by
  simp only [State.uncountSkid, State.warp, State.blk_updBlk]
  split
  · unfold Block.uncountSkid
    split
    · rfl
    · split <;> rfl
  · rfl

/-- Where no lane faults, every lane of the group has done its part, or waits. -/
theorem Ex.warp_lanewise {x : Ex} {f : Nat → Lane → LaneRes}
    (hf : ((lanesOf x.is.lanes).filterMap fun l => (f l (x.w.lane l)).fault? l) = []) :
    (x.lanewise f).warp x.is.blk x.is.warp = (x.s.updWarp x.is.blk x.is.warp fun W =>
      W.mapLanes x.is.lanes fun l y => (f l y).apply x.s.cycle y).warp x.is.blk x.is.warp := by
  unfold Ex.lanewise
  dsimp only
  rw [hf]
  dsimp only [lowestFault]
  split
  · rw [State.warp_uncountSkid, State.warp_countAll]
  · rw [State.warp_countAll]

/-- Where every lane of the group is done, each stands past the instruction with its part. -/
theorem Ex.lane_lanewise {s : State} {is : Issue} (hb : is.blk < s.blocks.length)
    (hw : is.warp < (s.blk is.blk).warps.length) (hn : (s.warp is.blk is.warp).lanes.length = 32)
    {f : Nat → Lane → LaneRes} {g : Nat → Lane} {ev : Nat → List (Nat × Events)}
    (hf : ∀ l ∈ lanesOf is.lanes, f l (s.lane is.blk is.warp l) = .done (g l) (ev l)) {l : Nat}
    (hl : l ∈ lanesOf is.lanes) :
    ((Ex.of s is).lanewise f).lane is.blk is.warp l = (g l).advance s.cycle (stlOf (s.lane is.blk is.warp l).run) := by
  have hfault : ((lanesOf is.lanes).filterMap fun l => (f l ((Ex.of s is).w.lane l)).fault? l) = [] := by
    rw [List.filterMap_eq_nil_iff]
    intro k hk
    rw [show f k ((Ex.of s is).w.lane k) = .done (g k) (ev k) from hf k hk]
    rfl
  have hwarp : ((Ex.of s is).lanewise f).warp is.blk is.warp =
      (s.warp is.blk is.warp).mapLanes is.lanes fun l y => (f l y).apply s.cycle y :=
    (Ex.warp_lanewise hfault).trans (State.warp_updWarp_same _ _ _ _ hb hw)
  have hdone := hf l hl
  rw [mem_lanesOf] at hl
  rw [State.lane] at hdone
  rw [State.lane, hwarp, Warp.lane_mapLanes, if_pos ⟨hl.2, by omega⟩, hdone]
  rfl

/-- An instruction in a lane that may go on: its result where its guard is true. -/
theorem Alu.lane_done {al : Alu} {w : Warp} {l : Lane}
    (h : l.guard al.gn al.gp = false ∨ readiness l.view al.srcs al.dst.codes = .go) :
    ∃ ev, al.lane w l = .done (if l.guard al.gn al.gp then al.dst.toLane (al.out l.view w.view).val l else l) ev := by
  unfold Alu.lane
  cases hg : l.guard al.gn al.gp with
  | false => exact ⟨[], rfl⟩
  | true =>
    rcases h with h | h
    · simp [hg] at h
    · exact ⟨_, by simp [h]; rfl⟩

/-! ### Warp and block scope (R186) -/

/-- Lanes that stand past an instruction do so whatever else has been written. -/
theorem Ex.past_of_places {x : Ex} {y : Inst} {s t : State} (h : x.past y s)
    (ht : ∀ w l, (t.lane x.is.blk w l).pc = (s.lane x.is.blk w l).pc ∧
      (t.lane x.is.blk w l).run = (s.lane x.is.blk w l).run) :
    x.past y t := by
  intro p hp
  rw [(ht p.1 p.2).1, (ht p.1 p.2).2]
  exact h p hp

theorem Block.warp_mapWarps (B : Block) {f : Warp → Warp} (hf : f default = default) (w : Nat) :
    ({ B with warps := B.warps.map f } : Block).warp w = f (B.warp w) := by
  simp only [Block.warp, List.getD_eq_getElem?_getD, List.getElem?_map]
  by_cases hw : w < B.warps.length <;> simp [hw, hf]

theorem State.warp_updWarp (s : State) {b : Nat} (w v : Nat) (f : Warp → Warp) (hb : b < s.blocks.length) :
    (s.updWarp b w f).warp b v = if w = v ∧ v < (s.blk b).warps.length then f (s.warp b v) else s.warp b v := by
  simp only [State.updWarp, State.warp, State.blk_updBlk_same _ _ _ hb, Block.warp_updWarp]

section
variable {s t : State} {is : Issue} {y : Inst} {al : Alu}

theorem Alu.atWarp_results (hs : s.formed) (hb : is.blk < s.blocks.length) (hw : is.warp < (s.blk is.blk).warps.length)
    (hd : al.dst.fits 32) (h : (Ex.of s is).completes (.warp is.warp) (Ex.of s is).pf.modOf.k.toNat t y) :
    (Ex.of s is).past y (al.atWarp (Ex.of s is) t y) ∧
    let n := ((s.blk is.blk).needed y).getD is.warp 0
    ((s.lane is.blk is.warp (lowest n)).guard al.gn al.gp = true →
      al.dst.inWarp (s.warp is.blk is.warp) ((al.atWarp (Ex.of s is) t y).warp is.blk is.warp) n
        (al.out (s.warp is.blk is.warp).view (s.warp is.blk is.warp).view).val) := by
  obtain ⟨hlen, -, hmoved, -⟩ := Ex.arrive_moved hb h.1
  obtain ⟨hfin, hpast⟩ := Ex.issued hs hb h
  have hbf := State.formed_blk hs hb
  have hview : (t.warp is.blk is.warp).view = (s.warp is.blk is.warp).view := (hmoved.warp _).view
  have hguard : ∀ l, ((t.warp is.blk is.warp).lane l).guard al.gn al.gp = (s.lane is.blk is.warp l).guard al.gn al.gp :=
    fun l => ((hmoved.warp is.warp).lane l).guard _ _
  simp only [Alu.atWarp, Ex.of_is, hmoved.needed, hview, hguard]
  generalize hF : t.finish is.blk y = F at *
  have hFb : is.blk < F.blocks.length := by rw [← hF]; simpa [State.finish] using hlen ▸ hb
  have hFw : is.warp < (F.blk is.blk).warps.length := by rw [hfin.size]; exact hw
  split
  · next hg =>
    have hwf := Block.formed_warp hbf hw
    have hFm := hfin.warp is.warp
    refine ⟨Ex.past_of_places hpast fun v l => ?_, fun _ => ?_⟩
    · rw [State.lane, State.warp_countAll, Ex.of_is, State.warp_updWarp _ _ _ _ hFb]
      split
      · exact Dst.toWarp_place _ _ _ _ _
      · exact ⟨rfl, rfl⟩
    · rw [State.warp_countAll, State.warp_updWarp_same _ _ _ _ hFb hFw]
      exact Dst.inWarp_toWarp hd ((congrArg List.length hFm.regs).trans hwf.2.1) (hFm.size.trans hwf.1)
        (fun l => (hFm.lane l).preds) _
  · next hg => exact ⟨hpast, fun h => absurd h hg⟩

theorem Alu.atBlock_results (hs : s.formed) (hb : is.blk < s.blocks.length) (hd : al.dst.fits 32)
    (h : (Ex.of s is).completes .block (Ex.of s is).pf.modOf.k.toNat t y) :
    (Ex.of s is).past y (al.atBlock (Ex.of s is) t y) ∧
    let w := (s.blk is.blk).warp (s.blk is.blk).firstLive
    ((w.lane (lowest w.live)).guard al.gn al.gp = true →
      ∀ i < (s.blk is.blk).warps.length, ((s.blk is.blk).warp i).live ≠ 0 →
        al.dst.inWarp ((s.blk is.blk).warp i) ((al.atBlock (Ex.of s is) t y).warp is.blk i) ((s.blk is.blk).warp i).live
          (al.out w.view w.view).val) := by
  obtain ⟨hlen, -, hmoved, -⟩ := Ex.arrive_moved hb h.1
  obtain ⟨hfin, hpast⟩ := Ex.issued hs hb h
  have hbf := State.formed_blk hs hb
  have hfirst := hmoved.warp (s.blk is.blk).firstLive
  simp only [Alu.atBlock, Ex.of_is, hmoved.firstLive, hfirst.view, hfirst.live,
    (hfirst.lane _).guard]
  generalize hF : t.finish is.blk y = F at *
  have hFb : is.blk < F.blocks.length := by rw [← hF]; simpa [State.finish] using hlen ▸ hb
  split
  · next hg =>
    generalize (al.out ((s.blk is.blk).warp (s.blk is.blk).firstLive).view
      ((s.blk is.blk).warp (s.blk is.blk).firstLive).view) = o
    have hwarp : ∀ v, ((F.updBlk is.blk fun B => { B with
        warps := B.warps.map fun W => if W.live == 0#32 then W else al.dst.toWarp o.val W.live W }).countAll
          (Ex.of s is).b.launch o.ev).warp is.blk v =
        if (F.warp is.blk v).live == 0#32 then F.warp is.blk v
        else al.dst.toWarp o.val (F.warp is.blk v).live (F.warp is.blk v) := by
      intro v
      rw [State.warp, State.blk_countAll, State.blk_updBlk_same _ _ _ hFb]
      exact Block.warp_mapWarps _ rfl v
    refine ⟨Ex.past_of_places hpast fun v l => ?_, fun _ i hi hlive => ?_⟩
    · rw [State.lane, Ex.of_is, hwarp]
      split
      · exact ⟨rfl, rfl⟩
      · exact Dst.toWarp_place _ _ _ _ _
    · have hFm := hfin.warp i
      have hwf := Block.formed_warp hbf hi
      have hFlive : (F.warp is.blk i).live = ((s.blk is.blk).warp i).live := hFm.live
      rw [hwarp, hFlive, if_neg (by simpa using hlive)]
      exact Dst.inWarp_toWarp hd ((congrArg List.length hFm.regs).trans hwf.2.1) (hFm.size.trans hwf.1)
        (fun l => (hFm.lane l).preds) _
  · next hg => exact ⟨hpast, fun h => absurd h hg⟩

end

end Sys2Proof.Machine
end

section
/-! PROOFS. The elements of a set and what is written into them (R104, R125, R133). -/

namespace Sys2Proof.Machine

/-! ### The places of a set's members (R125, R133) -/

theorem pairwise_lanesOf (m : Word) : (lanesOf m).Pairwise (· < ·) := List.pairwise_lt_range.filter _

theorem nodup_lanesOf (m : Word) : (lanesOf m).Nodup := (pairwise_lanesOf m).imp Nat.ne_of_lt

/-- In an ascending list an element stands after the smaller ones. -/
theorem getElem?_takeWhile_lt {ls : List Nat} (hs : ls.Pairwise (· < ·)) {w : Nat} (hw : w ∈ ls) :
    ls[(ls.takeWhile (· < w)).length]? = some w := by
  induction ls with
  | nil => simp at hw
  | cons a ls ih =>
    obtain ⟨hlt, hs⟩ := List.pairwise_cons.1 hs
    rcases List.mem_cons.1 hw with rfl | hw
    · simp
    · simpa [List.takeWhile_cons, hlt w hw] using ih hs hw

theorem SetB.members_pos {st : SetB} {w : Nat} (hw : w ∈ lanesOf st.members) :
    (lanesOf st.members)[st.pos w]? = some w := getElem?_takeWhile_lt (pairwise_lanesOf _) hw

theorem SetB.pos_lt {st : SetB} {w : Nat} (hw : w ∈ lanesOf st.members) : st.pos w < popcount st.members :=
  (List.getElem?_eq_some_iff.1 (SetB.members_pos hw)).1

theorem SetB.pos_inj {st : SetB} {v w : Nat} (hv : v ∈ lanesOf st.members) (hw : w ∈ lanesOf st.members)
    (h : st.pos v = st.pos w) : v = w := by
  have hvw := (SetB.members_pos hv).symm.trans (h ▸ SetB.members_pos hw)
  exact Option.some.inj hvw

theorem SetB.pos_congr {st su : SetB} (h : st.members = su.members) (w : Nat) : st.pos w = su.pos w := by
  rw [SetB.pos, h, SetB.pos]

/-- The place of a lane of a member warp among the elements of a set register. -/
def SetB.place (st : SetB) (p : Nat × Nat) : Nat := st.pos p.1 * 32 + p.2

theorem SetB.place_inj {st : SetB} {p q : Nat × Nat} (hp : p.1 ∈ lanesOf st.members) (hq : q.1 ∈ lanesOf st.members)
    (hp2 : p.2 < 32) (hq2 : q.2 < 32) (h : st.place p = st.place q) : p = q := by
  unfold SetB.place at h
  have hpos : st.pos p.1 = st.pos q.1 := by omega
  exact Prod.ext (SetB.pos_inj hp hq hpos) (by omega)

theorem Inst.nodup_lanes (n : List Word) : (Inst.lanes n).Nodup := by
  refine List.nodup_flatMap.2 ⟨fun w _ => (nodup_lanesOf _).map fun l k h => (Prod.mk.inj h).2, ?_⟩
  refine (List.nodup_range (n := n.length)).imp fun {v w} hvw => ?_
  intro p hp hq
  obtain ⟨l, -, rfl⟩ := List.mem_map.1 hp
  obtain ⟨k, -, hk⟩ := List.mem_map.1 hq
  exact hvw (Prod.mk.inj hk).1.symm

/-! ### Elements set to zero (R104, R133) -/

/-- The elements of one lane in some registers written over with one value. -/
theorem SetB.foldl_setElem {st : SetB} {gregs w l : Nat} (hf : st.formed gregs) (hw : w ∈ lanesOf st.members)
    (hl : l < 32) (e : Elem) {regs : List Nat} (hr : ∀ r ∈ regs, r < gregs) :
    let su := regs.foldl (fun st r => st.setElem r (st.pos w) l e) st
    su.formed gregs ∧ su.members = st.members ∧ (∀ r ∈ regs, su.elem r (st.pos w) l = e) ∧
      (∀ c p k, st.elem c p k = e → su.elem c p k = e) ∧
      ∀ c p k, p * 32 + k ≠ st.place (w, l) → su.elem c p k = st.elem c p k := by
  induction regs generalizing st with
  | nil => exact ⟨hf, rfl, by simp, fun _ _ _ h => h, fun _ _ _ _ => rfl⟩
  | cons r regs ih =>
    obtain ⟨hf', hm, hset, hkeep, hother⟩ := ih (SetB.formed_setElem hf r (st.pos w) l e) hw
      fun c hc => hr c (List.mem_cons_of_mem _ hc)
    have hnew := SetB.elem_setElem_same st e hf (hr r List.mem_cons_self) (SetB.pos_lt hw) hl
    have hkept : ∀ c p k, st.elem c p k = e → (st.setElem r (st.pos w) l e).elem c p k = e := by
      intro c p k h
      by_cases hsame : c = r ∧ p * 32 + k = st.pos w * 32 + l
      · obtain ⟨rfl, hplace⟩ := hsame
        rw [SetB.elem, hplace]
        exact hnew
      · rw [SetB.elem_setElem_other _ _ (by omega), h]
    refine ⟨hf', hm, fun c hc => ?_, fun c p k h => hkeep c p k (hkept c p k h), fun c p k h => ?_⟩
    · rcases List.mem_cons.1 hc with rfl | hc
      · exact hkeep _ _ _ hnew
      · exact hset c hc
    · exact (hother c p k h).trans (SetB.elem_setElem_other _ _ (.inr h))

/-- The elements of some lanes in some registers written over with one value, and the others as they were. -/
theorem SetB.foldl_lanes {st : SetB} {gregs : Nat} (hf : st.formed gregs) {ps : List (Nat × Nat)}
    (hps : ∀ p ∈ ps, p.1 ∈ lanesOf st.members ∧ p.2 < 32) (e : Elem) {regs : List Nat} (hr : ∀ r ∈ regs, r < gregs) :
    let su := ps.foldl (fun st (w, l) => regs.foldl (fun st r => st.setElem r (st.pos w) l e) st) st
    su.members = st.members ∧ (∀ p ∈ ps, ∀ r ∈ regs, su.elem r (st.pos p.1) p.2 = e) ∧
      (∀ c p k, st.elem c p k = e → su.elem c p k = e) ∧
      ∀ c p k, (∀ q ∈ ps, p * 32 + k ≠ st.place q) → su.elem c p k = st.elem c p k := by
  induction ps generalizing st with
  | nil => exact ⟨rfl, by simp, fun _ _ _ h => h, fun _ _ _ _ => rfl⟩
  | cons p ps ih =>
    obtain ⟨hf1, hm1, hset1, hkeep1, hother1⟩ :=
      SetB.foldl_setElem hf (hps p List.mem_cons_self).1 (hps p List.mem_cons_self).2 e hr
    obtain ⟨hm2, hset2, hkeep2, hother2⟩ := ih hf1 fun q hq => by
      rw [hm1]
      exact hps q (List.mem_cons_of_mem _ hq)
    simp only [SetB.place, SetB.pos_congr hm1] at hset2 hother2
    refine ⟨hm2.trans hm1, fun q hq r hr' => ?_, fun c q k h => hkeep2 c q k (hkeep1 c q k h), fun c q k h => ?_⟩
    · rcases List.mem_cons.1 hq with rfl | hq
      · exact hkeep2 _ _ _ (hset1 r hr')
      · exact hset2 q hq r hr'
    · rw [List.foldl_cons, hother2 c q k fun q' hq' => h q' (List.mem_cons_of_mem _ hq')]
      exact hother1 c q k (h p List.mem_cons_self)

theorem Block.mem_others {b : Block} {i : Nat} {n : List Word} {p : Nat × Nat} :
    p ∈ b.others i n ↔ p.1 ∈ lanesOf (b.set i).members ∧ p.2 ∈ lanesOf ((b.warp p.1).live &&& ~~~n.getD p.1 0) := by
  obtain ⟨w, l⟩ := p
  simp only [Block.others, List.mem_flatMap, List.mem_map, Prod.mk.injEq]
  constructor
  · rintro ⟨v, hv, k, hk, rfl, rfl⟩; exact ⟨hv, hk⟩
  · rintro ⟨hv, hk⟩; exact ⟨w, hv, l, hk, rfl, rfl⟩

theorem Block.set_zeroOthers {b : Block} {i : Nat} (hi : i < b.sets.length) (n : List Word) (regs : List Nat) :
    (b.zeroOthers i n regs).set i = (b.others i n).foldl (fun st (w, l) =>
      regs.foldl (fun st r => st.setElem r (st.pos w) l ⟨0, true, false⟩) st) (b.set i) := by
  simp [Block.zeroOthers, Block.set, List.getD_eq_getElem?_getD, hi]

/-! ### Set scope (R133, R186) -/

/-- A set-scope instruction issues where none of its lanes keeps it from doing so. -/
theorem Ex.setBlocked_none {x : Ex} {s : State} {y : Inst} {lanes : List (Nat × Nat)} {r : Nat → Nat → Ready}
    {pend : Bool} (h : ∀ p ∈ lanes, r p.1 p.2 = .go) (hp : pend = false) : x.setBlocked s y lanes r pend = none := by
  subst hp
  unfold Ex.setBlocked
  dsimp only
  rw [if_neg, if_neg, if_neg Bool.false_ne_true]
  · rw [Bool.not_eq_true', Bool.not_eq_false, List.isEmpty_iff, List.filter_eq_nil_iff]
    intro p hp
    simp [h p hp]
  · rw [List.any_eq_true]
    rintro ⟨p, -, hp⟩
    rw [Bool.not_eq_true', ← Bool.not_eq_true, List.isEmpty_iff] at hp
    refine hp (List.filterMap_eq_nil_iff.2 fun q hq => ?_)
    rw [h q hq]

/-- Results written into the elements or predicates of the lanes of a rendezvous that act, one after another. -/
def Dst.writeLanes (d : Dst) (i : Nat) (acts : Nat → Nat → Bool) (val : Nat → Nat → View → DWord)
    (lanes : List (Nat × Nat)) (b : Block) : Block :=
  lanes.foldl (fun b (w, l) => if acts w l then d.toSet (val w l (b.warp w).view) i w l b else b) b

/-- What the results of set scope leave as it was in a block: places, warp registers and the shape of the set. -/
structure Block.SetKept (i : Nat) (b c : Block) : Prop where
  gregs : c.gregs = b.gregs
  sets : c.sets.length = b.sets.length
  formed : (b.set i).formed b.gregs → (c.set i).formed c.gregs
  members : (c.set i).members = (b.set i).members
  size : c.warps.length = b.warps.length
  view : ∀ w, (c.warp w).view = (b.warp w).view
  live : ∀ w, (c.warp w).live = (b.warp w).live
  lanes : ∀ w, (c.warp w).lanes.length = (b.warp w).lanes.length
  place : ∀ w l, ((c.warp w).lane l).pc = ((b.warp w).lane l).pc ∧ ((c.warp w).lane l).run = ((b.warp w).lane l).run

theorem Block.SetKept.refl (i : Nat) (b : Block) : b.SetKept i b :=
  ⟨rfl, rfl, fun h => h, rfl, rfl, fun _ => rfl, fun _ => rfl, fun _ => rfl, fun _ _ => ⟨rfl, rfl⟩⟩

theorem Block.SetKept.trans {i : Nat} {a b c : Block} (h : a.SetKept i b) (g : b.SetKept i c) : a.SetKept i c where
  gregs := g.gregs.trans h.gregs
  sets := g.sets.trans h.sets
  formed := fun hf => g.formed (h.formed hf)
  members := g.members.trans h.members
  size := g.size.trans h.size
  view := fun w => (g.view w).trans (h.view w)
  live := fun w => (g.live w).trans (h.live w)
  lanes := fun w => (g.lanes w).trans (h.lanes w)
  place := fun w l => ⟨(g.place w l).1.trans (h.place w l).1, (g.place w l).2.trans (h.place w l).2⟩

theorem Block.set_modify {b : Block} {i : Nat} (hi : i < b.sets.length) (f : SetB → SetB) :
    ({ b with sets := b.sets.modify i f } : Block).set i = f (b.set i) :=
  (getD_modify b.sets i i f default).trans (if_pos ⟨rfl, hi⟩)

/-- One result in the element or the predicate of its lane. -/
theorem Dst.toSet_results {d : Dst} {i w l : Nat} {b : Block} (hi : i < b.sets.length) (hf : (b.set i).formed b.gregs)
    (hd : d.fits b.gregs) (hm : w ∈ lanesOf (b.set i).members) (hl : l < 32) (hw : w < b.warps.length)
    (hll : l < (b.warp w).lanes.length) (x : DWord) :
    let c := d.toSet x i w l b
    b.SetKept i c ∧ d.inSet (c.set i) ((b.set i).pos w) l ((b.warp w).lane l) ((c.warp w).lane l) x ∧
      (∀ r p k, p * 32 + k ≠ (b.set i).place (w, l) → (c.set i).elem r p k = (b.set i).elem r p k) ∧
      ∀ q, q ≠ (w, l) → (c.warp q.1).lane q.2 = (b.warp q.1).lane q.2 := by
  cases d with
  | reg c n =>
    obtain ⟨hn, hc⟩ := hd
    have hlen := length_wordsOf hn x
    have hset : ((Dst.reg c n).toSet x i w l b).set i = (b.set i).setElems c ((b.set i).pos w) l (wordsOf n x) :=
      Block.set_modify hi _
    obtain ⟨hf', hm'⟩ := SetB.setElems_keeps (wordsOf n x) hf c ((b.set i).pos w) l
    refine ⟨⟨rfl, List.length_modify _ _ _, fun _ => by rw [hset]; exact hf', by rw [hset]; exact hm', rfl, fun _ => rfl,
      fun _ => rfl, fun _ => rfl, fun _ _ => ⟨rfl, rfl⟩⟩, ?_, fun r p k h => ?_, fun _ _ => rfl⟩
    · rw [hset]
      refine map_codes_eq (by simpa using hlen) fun j hj => ?_
      rw [List.length_map] at hj
      rw [List.getElem_map]
      exact SetB.elem_setElems_same _ hf (by omega) (SetB.pos_lt hm) hl hj
    · rw [hset]
      exact SetB.elem_setElems_other _ _ (.inr (.inr h))
  | pred pd cb =>
    have hlane : ∀ v k, ((((Dst.pred pd cb).toSet x i w l b).warp v).lane k) =
        if v = w ∧ k = l then (Dst.pred pd cb).toLane x ((b.warp w).lane l) else (b.warp v).lane k := by
      intro v k
      simp only [Dst.toSet, Block.warp_updWarp]
      by_cases hv : v = w
      · subst hv
        rw [if_pos ⟨rfl, hw⟩, Warp.lane_updLane]
        by_cases hk : k = l
        · subst hk; rw [if_pos ⟨rfl, hll⟩, if_pos ⟨rfl, rfl⟩]
        · rw [if_neg (by tauto), if_neg (by tauto)]
      · rw [if_neg (by tauto), if_neg (by tauto)]
    have hwarp : ∀ v, ∃ ls, ((Dst.pred pd cb).toSet x i w l b).warp v = { b.warp v with lanes := ls } ∧
        ls.length = (b.warp v).lanes.length := by
      intro v
      simp only [Dst.toSet, Block.warp_updWarp]
      split
      · exact ⟨_, rfl, by simp⟩
      · exact ⟨_, rfl, rfl⟩
    refine ⟨⟨rfl, rfl, fun h => h, rfl, by simp [Dst.toSet, Block.updWarp], fun v => ?_, fun v => ?_, fun v => ?_,
      fun v k => ?_⟩, ?_, fun _ _ _ _ => rfl, fun q hq => ?_⟩
    · obtain ⟨ls, h, -⟩ := hwarp v; rw [h]; rfl
    · obtain ⟨ls, h, -⟩ := hwarp v; rw [h]
    · obtain ⟨ls, h, hls⟩ := hwarp v; rw [h]; exact hls
    · rw [hlane]
      split
      · next h => obtain ⟨rfl, rfl⟩ := h; exact Dst.toLane_place _ _ _
      · exact ⟨rfl, rfl⟩
    · rw [hlane, if_pos ⟨rfl, rfl⟩]
      exact Dst.inLane_pred hd cb rfl x
    · rw [hlane, if_neg fun h => hq (Prod.ext h.1 h.2)]

theorem Dst.inSet_congr {d : Dst} {st su : SetB} {pos l : Nat} {old x y : Lane} {v : DWord} (h : d.inSet st pos l old x v)
    (he : ∀ r, su.elem r pos l = st.elem r pos l) (hl : y = x) : d.inSet su pos l old y v := by
  subst hl
  cases d with
  | reg c n => simpa only [Dst.inSet, he] using h
  | pred pd cb => exact h

/-- The results of all lanes are there, and nothing else of the set and of other lanes has changed. -/
theorem Dst.writeLanes_results {d : Dst} {i : Nat} {acts : Nat → Nat → Bool} {val : Nat → Nat → View → DWord}
    {lanes : List (Nat × Nat)} (hnd : lanes.Nodup) {b : Block} (hi : i < b.sets.length) (hf : (b.set i).formed b.gregs)
    (hd : d.fits b.gregs)
    (hl : ∀ p ∈ lanes, p.1 ∈ lanesOf (b.set i).members ∧ p.2 < 32 ∧ p.1 < b.warps.length ∧ p.2 < (b.warp p.1).lanes.length) :
    let c := d.writeLanes i acts val lanes b
    b.SetKept i c ∧
      (∀ p ∈ lanes, acts p.1 p.2 = true → d.inSet (c.set i) ((b.set i).pos p.1) p.2 ((b.warp p.1).lane p.2)
        ((c.warp p.1).lane p.2) (val p.1 p.2 (b.warp p.1).view)) ∧
      (∀ r p k, (∀ q ∈ lanes, p * 32 + k ≠ (b.set i).place q) → (c.set i).elem r p k = (b.set i).elem r p k) ∧
      ∀ q ∉ lanes, (c.warp q.1).lane q.2 = (b.warp q.1).lane q.2 := by
  induction lanes generalizing b with
  | nil => exact ⟨.refl _ _, by simp, fun _ _ _ _ => rfl, fun _ _ => rfl⟩
  | cons p ps ih =>
    obtain ⟨hp, hnd⟩ := List.nodup_cons.1 hnd
    obtain ⟨hpm, hp32, hpw, hpl⟩ := hl p List.mem_cons_self
    obtain ⟨a, hstep, hkept, hres, helem, hlane⟩ : ∃ a,
        (if acts p.1 p.2 then d.toSet (val p.1 p.2 (b.warp p.1).view) i p.1 p.2 b else b) = a ∧ b.SetKept i a ∧
        (acts p.1 p.2 = true → d.inSet (a.set i) ((b.set i).pos p.1) p.2 ((b.warp p.1).lane p.2)
          ((a.warp p.1).lane p.2) (val p.1 p.2 (b.warp p.1).view)) ∧
        (∀ r q k, q * 32 + k ≠ (b.set i).place p → (a.set i).elem r q k = (b.set i).elem r q k) ∧
        ∀ q, q ≠ p → (a.warp q.1).lane q.2 = (b.warp q.1).lane q.2 := by
      refine ⟨_, rfl, ?_⟩
      split
      · obtain ⟨hkept, hres, helem, hlane⟩ :=
          Dst.toSet_results hi hf hd hpm hp32 hpw hpl (val p.1 p.2 (b.warp p.1).view)
        exact ⟨hkept, fun _ => hres, helem, hlane⟩
      · next hact => exact ⟨.refl _ _, fun h => absurd h hact, fun _ _ _ _ => rfl, fun _ _ => rfl⟩
    obtain ⟨hkept', hres', helem', hlane'⟩ := ih hnd (b := a) (hkept.sets ▸ hi) (hkept.formed hf) (hkept.gregs ▸ hd)
      fun q hq => by
        rw [hkept.members, hkept.size, hkept.lanes]
        exact hl q (List.mem_cons_of_mem _ hq)
    have hfold : d.writeLanes i acts val (p :: ps) b = d.writeLanes i acts val ps a := by
      rw [← hstep]
      rfl
    have hpos : ∀ w, (a.set i).pos w = (b.set i).pos w := SetB.pos_congr hkept.members
    simp only [SetB.place, hpos, hkept.view] at hres' helem'
    rw [hfold]
    refine ⟨hkept.trans hkept', fun q hq hact => ?_, fun r q k h => ?_, fun q hq => ?_⟩
    · rcases List.mem_cons.1 hq with rfl | hq
      · refine Dst.inSet_congr (hres hact) (fun r => helem' r _ _ fun q' hq' heq => hp ?_) (hlane' _ hp)
        have hq'm := hl q' (List.mem_cons_of_mem _ hq')
        rwa [SetB.place_inj hpm hq'm.1 hp32 hq'm.2.1 heq]
      · have hne : q ≠ p := fun h => hp (h ▸ hq)
        rw [← hlane q hne]
        exact hres' q hq hact
    · rw [helem' r q k fun q' hq' => h q' (List.mem_cons_of_mem _ hq'), helem r q k (h p List.mem_cons_self)]
    · rw [hlane' q fun h => hq (List.mem_cons_of_mem _ h), hlane q fun h => hq (h ▸ List.mem_cons_self)]

end Sys2Proof.Machine
end

section
/-! PROOFS. Instructions on registers at set scope (R129, R133, R186). -/

namespace Sys2Proof.Machine

section
variable {s t : State} {is : Issue} {y : Inst} {al : Alu} {i : Nat}

theorem Ex.unit_set_lt {x : Ex} (h : x.unit 2 = some (.set i)) : i < x.b.sets.length := by
  simp only [Ex.unit, Block.setOf, Option.map_eq_some_iff, RdvUnit.set.injEq, exists_eq_right] at h
  exact (List.findIdx?_eq_some_iff_getElem.1 h).1

theorem Dst.codes_lt {d : Dst} {size : Nat} (hd : d.fits size) : ∀ r ∈ d.codes, r < size := by
  cases d with
  | reg c n =>
    intro r hr
    have hr' := mem_codes.1 hr
    have hc := hd.2
    omega
  | pred pd cb => simp [Dst.codes]

/-- What the lanes outside NEEDED have once MZ has been obeyed (R104, R133). -/
theorem Block.zeroed_results {B : Block} {n : List Word} {regs : List Nat} (mz : Bool) (hi : i < B.sets.length)
    (hf : (B.set i).formed B.gregs) (hr : ∀ r ∈ regs, r < B.gregs) :
    let C := if mz then B.zeroOthers i n regs else B
    C.warps = B.warps ∧
      (∀ p ∈ B.others i n, ∀ r ∈ regs, (C.set i).elem r ((B.set i).pos p.1) p.2 =
        if mz then ⟨0, true, false⟩ else (B.set i).elem r ((B.set i).pos p.1) p.2) ∧
      ∀ r p k, (∀ q ∈ B.others i n, p * 32 + k ≠ (B.set i).place q) → (C.set i).elem r p k = (B.set i).elem r p k := by
  cases mz with
  | false => exact ⟨rfl, fun _ _ _ _ => rfl, fun _ _ _ _ => rfl⟩
  | true =>
    obtain ⟨-, hzero, -, hkeep⟩ := SetB.foldl_lanes hf (ps := B.others i n)
      (fun p hp => ⟨(Block.mem_others.1 hp).1, (mem_lanesOf.1 (Block.mem_others.1 hp).2).1⟩) ⟨0, true, false⟩ hr
    rw [← Block.set_zeroOthers hi] at hzero hkeep
    exact ⟨rfl, hzero, hkeep⟩

theorem Dst.inSet_preds {d : Dst} {st : SetB} {pos l : Nat} {old old' x : Lane} {v : DWord} (h : d.inSet st pos l old x v)
    (hp : old'.preds = old.preds) : d.inSet st pos l old' x v := by
  cases d with
  | reg c n => exact h
  | pred pd cb => simpa only [Dst.inSet, Dst.inLane, Lane.pred, hp] using h

/-- The lanes that a rendezvous of a set needs are lanes of its members (R125). -/
theorem Inst.formed_member {b : Block} {y : Inst} (hy : y.formed b) (hu : y.u = .set i) {p : Nat × Nat}
    (hp : p ∈ Inst.lanes (b.needed y)) : p.1 ∈ lanesOf (b.set i).members ∧ p.2 < 32 ∧ p.1 < b.warps.length := by
  obtain ⟨hw, hl, hn⟩ := Inst.mem_lanes.1 hp
  rw [Block.length_needed hy] at hw
  have hpart : y.part.getD p.1 0 ≠ 0 := by
    intro h0
    rw [Block.needed_getD hy, if_pos hw, h0] at hn
    simp at hn
  obtain ⟨-, -, hset, -⟩ := hy
  have hm := hset i hu p.1 hpart
  exact ⟨mem_lanesOf.2 ⟨BitVec.lt_of_getLsbD hm, hm⟩, hl, hw⟩

theorem Alu.atSet_results (hs : s.formed) (hb : is.blk < s.blocks.length) (hi : i < (s.blk is.blk).sets.length)
    (hd : al.dst.fits (s.blk is.blk).gregs)
    (h : (Ex.of s is).completes (.set i) (Ex.of s is).pf.modOf.k.toNat t y) (hz : (Ex.of s is).zeroes y al.dst.codes)
    (hr : let st := (s.blk is.blk).set i
      ∀ p ∈ Inst.lanes ((s.blk is.blk).needed y), (s.lane is.blk p.1 p.2).guard al.gn al.gp = false ∨
        readiness (st.view (st.pos p.1) p.2 (s.lane is.blk p.1 p.2)) al.srcs al.dst.codes = .go) :
    let st := (s.blk is.blk).set i
    let u := al.atSet (Ex.of s is) i t y
    (Ex.of s is).past y u ∧
    (∀ p ∈ Inst.lanes ((s.blk is.blk).needed y), (s.lane is.blk p.1 p.2).guard al.gn al.gp = true →
      al.dst.inSet ((u.blk is.blk).set i) (st.pos p.1) p.2 (s.lane is.blk p.1 p.2) (u.lane is.blk p.1 p.2)
        (al.out (st.view (st.pos p.1) p.2 (s.lane is.blk p.1 p.2)) (s.warp is.blk p.1).view).val) ∧
    ∀ p ∈ (s.blk is.blk).others i ((s.blk is.blk).needed y), ∀ c ∈ al.dst.codes,
      ((u.blk is.blk).set i).elem c (st.pos p.1) p.2 =
        if (Ex.of s is).pf.modOf.mz then ⟨0, true, false⟩ else st.elem c (st.pos p.1) p.2 := by
  obtain ⟨hlen, -, hmoved, -⟩ := Ex.arrive_moved hb h.1
  obtain ⟨hfin, hpast⟩ := Ex.issued hs hb h
  have hbf := State.formed_blk hs hb
  obtain ⟨hyu, hy⟩ := Ex.arrive_inst (Block.formed_inst hbf) h.1
  have hset : (t.blk is.blk).set i = (s.blk is.blk).set i := by rw [Block.set, hmoved.sets, Block.set]
  have hguard : ∀ w l, (((t.blk is.blk).warp w).lane l).guard al.gn al.gp = (s.lane is.blk w l).guard al.gn al.gp :=
    fun w l => ((hmoved.warp w).lane l).guard _ _
  have hview : ∀ w l, ((s.blk is.blk).set i).view (((s.blk is.blk).set i).pos w) l (((t.blk is.blk).warp w).lane l) =
      ((s.blk is.blk).set i).view (((s.blk is.blk).set i).pos w) l (s.lane is.blk w l) := by
    intro w l
    simp only [SetB.view, Lane.pred, ((hmoved.warp w).lane l).preds]
    rfl
  unfold Alu.atSet
  simp only [Ex.of_is, hset, hmoved.needed, hmoved.othersPend, hguard, hview]
  split
  · next hblocked =>
    rw [Ex.setBlocked_none] at hblocked
    · simp at hblocked
    · intro p hp
      rcases hr p hp with hg | hgo
      · simp [hg]
      · simp [hgo]
    · cases hmz : (Ex.of s is).pf.modOf.mz
      · rfl
      · exact hz hmz i hyu
  · clear hguard hview
    generalize hF : t.finish is.blk y = F at *
    have hFb : is.blk < F.blocks.length := by rw [← hF]; simpa [State.finish] using hlen ▸ hb
    have hFset : (F.blk is.blk).set i = (s.blk is.blk).set i := by rw [Block.set, hfin.sets, Block.set]
    have hFgregs : (F.blk is.blk).gregs = (s.blk is.blk).gregs := by rw [hfin.rest]
    have hneeds := fun p hp => Inst.formed_member (i := i) hy hyu (p := p) hp
    have hFi : i < (F.blk is.blk).sets.length := by rw [hfin.sets]; exact hi
    have hFf : ((F.blk is.blk).set i).formed (F.blk is.blk).gregs := by
      rw [hFset, hFgregs]; exact Block.formed_set hbf hi
    obtain ⟨hkept, hres, helem, -⟩ := Dst.writeLanes_results (d := al.dst) (i := i)
      (acts := fun w l => (s.lane is.blk w l).guard al.gn al.gp)
      (val := fun w l wv =>
        (al.out (((s.blk is.blk).set i).view (((s.blk is.blk).set i).pos w) l (s.lane is.blk w l)) wv).val)
      (Inst.nodup_lanes ((s.blk is.blk).needed y)) hFi hFf (hFgregs ▸ hd) fun p hp => by
        obtain ⟨hm, h32, hlt⟩ := hneeds p hp
        rw [hFset, hfin.size, (hfin.warp p.1).size, (Block.formed_warp hbf hlt).1]
        exact ⟨hm, h32, hlt, h32⟩
    generalize hB : al.dst.writeLanes i _ _ _ (F.blk is.blk) = B at hkept hres helem
    have hothers : B.others i ((s.blk is.blk).needed y) = (s.blk is.blk).others i ((s.blk is.blk).needed y) := by
      simp only [Block.others, hkept.members, hkept.live, hFset, (hfin.warp _).live]
    have hpos : ∀ w, (B.set i).pos w = ((s.blk is.blk).set i).pos w :=
      SetB.pos_congr (hkept.members.trans (congrArg SetB.members hFset))
    obtain ⟨hwarps, hzeroed, hkeep⟩ := Block.zeroed_results (n := (s.blk is.blk).needed y) (regs := al.dst.codes)
      (Ex.of s is).pf.modOf.mz (hkept.sets ▸ hFi) (hkept.formed hFf)
      (by rw [hkept.gregs, hFgregs]; exact Dst.codes_lt hd)
    generalize hC : (if (Ex.of s is).pf.modOf.mz = true then
      B.zeroOthers i ((s.blk is.blk).needed y) al.dst.codes else B) = C at hwarps hzeroed hkeep
    generalize hu : State.countAll _ _ _ = u
    have hblk : u.blk is.blk = C := by
      rw [← hu, ← hC, ← hB, State.blk_countAll]
      split
      · rw [State.blk_updBlk_same _ _ _ (by simpa using hFb), State.blk_updBlk_same _ _ _ hFb]
        rfl
      · rw [State.blk_updBlk_same _ _ _ hFb]
        rfl
    have hwarp : ∀ w, u.warp is.blk w = B.warp w := fun w => by
      simp only [State.warp, Block.warp, hblk, hwarps]
    simp only [hFset, hothers, hpos, SetB.place] at hres helem hzeroed hkeep
    have hapart : ∀ p ∈ Inst.lanes ((s.blk is.blk).needed y), ∀ q ∈ (s.blk is.blk).others i ((s.blk is.blk).needed y),
        ((s.blk is.blk).set i).place p ≠ ((s.blk is.blk).set i).place q := by
      intro p hp q hq heq
      obtain ⟨hqm, hql⟩ := Block.mem_others.1 hq
      obtain ⟨hq32, hqn⟩ := mem_lanesOf.1 hql
      obtain ⟨hpm, hp32, -⟩ := hneeds p hp
      obtain rfl := SetB.place_inj hpm hqm hp32 hq32 heq
      have hpn : (((s.blk is.blk).needed y).getD p.1 0).getLsbD p.2 = true := (Inst.mem_lanes.1 hp).2.2
      simp only [BitVec.getLsbD_and, BitVec.getLsbD_not, hpn, Bool.not_true, Bool.and_false, Bool.false_eq_true] at hqn
    refine ⟨Ex.past_of_places hpast fun w l => ?_, fun p hp hg => ?_, fun p hp c hc => ?_⟩
    · rw [State.lane, Ex.of_is, hwarp]
      exact hkept.place w l
    · rw [hblk, State.lane, State.lane, hwarp]
      have h := hres p hp hg
      rw [(hfin.warp p.1).view] at h
      exact Dst.inSet_congr (Dst.inSet_preds h ((hfin.warp p.1).lane p.2).preds.symm)
        (fun r => hkeep r _ _ fun q hq => hapart p hp q hq) rfl
    · rw [hblk, hzeroed p hp c hc, helem c _ _ fun q hq => (hapart q hq p hp).symm]
end

end Sys2Proof.Machine
end

section
/-! PROOFS. Instructions on registers at every scope, from their descriptions (R186), and the shapes that they have. -/

namespace Sys2Proof.Machine

/-! ### Instructions on registers (R186) -/

/-- What ties a description of an instruction on registers to its meaning: the meaning checks what the description says,
and computes with the sources, the guard, the destination and the function of the description. -/
structure RegInstr.Means (r : RegInstr) (al : Ex → Alu) : Prop where
  exec : ∀ s, exec r.instr s = issuing s fun x => x.alu r.sc r.acc (r.ops x) (r.extra x) (al x)
  srcs : ∀ x, (al x).srcs = r.srcs x
  gn : ∀ x, (al x).gn = r.gn
  gp : ∀ x, (al x).gp = r.gp
  dst : ∀ x, (al x).dst = r.dst
  val : ∀ x v wv, ((al x).out v wv).val = r.val x v wv
  sized : r.dst.sized
  opd : ∀ x, r.dst.opd r.sc ∈ r.ops x

section
variable {x : Ex} {acc : Acc} {ops : List Opd} {extra : Bool} {s : State} {y : Inst}

theorem Ex.alu_warp (hl : x.legal acc ops extra = true)
    (h : x.arrive (.warp x.is.warp) x.pf.modOf.k.toNat = (s, some y)) (al : Alu) :
    x.alu 1 acc ops extra al = al.atWarp x s y := by
  simp [Ex.alu, hl, Ex.unit, Ex.wide, h]

theorem Ex.alu_set (hl : x.legal acc ops extra = true) {i : Nat} (hu : x.unit 2 = some (.set i))
    (h : x.arrive (.set i) x.pf.modOf.k.toNat = (s, some y)) (al : Alu) : x.alu 2 acc ops extra al = al.atSet x i s y := by
  simp [Ex.alu, hl, hu, Ex.wide, h]

theorem Ex.alu_block (hl : x.legal acc ops extra = true) (n : Nat)
    (h : x.arrive .block x.pf.modOf.k.toNat = (s, some y)) (al : Alu) :
    x.alu (n + 3) acc ops extra al = al.atBlock x s y := by
  simp [Ex.alu, hl, Ex.unit, Ex.wide, h]

end

theorem RegInstr.Means.fits {r : RegInstr} {al : Ex → Alu} (hm : r.Means al) {x : Ex}
    (hl : x.legal r.acc (r.ops x) (r.extra x) = true) : r.dst.fits (classSize x.b.gregs r.sc) := by
  simp only [Ex.legal, Bool.and_eq_true, List.all_eq_true] at hl
  exact Dst.fits_of_ok hm.sized (hl.1.2 _ (hm.opd x))

section
variable {s : State} {is : Issue} {al : Alu}

theorem Alu.lanewise_results (hb : is.blk < s.blocks.length) (hw : is.warp < (s.blk is.blk).warps.length)
    (hwf : (s.warp is.blk is.warp).formed) (hd : al.dst.fits 64)
    (hr : ∀ l ∈ lanesOf is.lanes, (s.lane is.blk is.warp l).guard al.gn al.gp = false ∨
      readiness (s.lane is.blk is.warp l).view al.srcs al.dst.codes = .go) {l : Nat} (hl : l ∈ lanesOf is.lanes) :
    let old := s.lane is.blk is.warp l
    let new := ((Ex.of s is).lanewise fun _ l => al.lane (Ex.of s is).w l).lane is.blk is.warp l
    new.pc = old.pc + 4 ∧ new.run = [] ∧
      (old.guard al.gn al.gp = true → al.dst.inLane old new (al.out old.view (s.warp is.blk is.warp).view).val) := by
  choose! ev hev using fun l hl => Alu.lane_done (w := s.warp is.blk is.warp) (hr l hl)
  have hlane := Ex.lane_lanewise hb hw hwf.1 (f := fun _ l => al.lane (Ex.of s is).w l) hev hl
  dsimp only
  rw [hlane]
  have hold : (s.lane is.blk is.warp l).v.length = 64 := by
    have h32 : l < (s.warp is.blk is.warp).lanes.length := by rw [hwf.1]; exact (mem_lanesOf.1 hl).1
    rw [State.lane, Warp.lane, List.getD_eq_getElem _ _ h32]
    exact hwf.2.2.2 _ (List.getElem_mem h32)
  split
  · next hg =>
    refine ⟨?_, rfl, fun _ => Dst.inLane_advance (Dst.inLane_toLane hd rfl hold _) _ _⟩
    rw [Lane.advance_pc, (Dst.toLane_place _ _ _).1]
  · next hg => exact ⟨rfl, rfl, fun h => absurd h hg⟩

end

/-- An instruction on registers performs what its description says, at every scope (R186). -/
theorem RegInstr.Means.performs {r : RegInstr} {al : Ex → Alu} (hm : r.Means al) : r.performs := by
  intro s is hs hsel hready
  obtain ⟨hcur, -, hb, hw, -⟩ := hsel
  refine ⟨_, (hm.exec s).trans (issuing_selected hcur _), ?_⟩
  suffices h : r.results (Ex.of s is)
      ((Ex.of s is).alu r.sc r.acc (r.ops (Ex.of s is)) (r.extra (Ex.of s is)) (al (Ex.of s is))) from h
  obtain ⟨hl, hready⟩ := hready
  have hfits := hm.fits hl
  have hsrcs := hm.srcs (Ex.of s is)
  have hval := hm.val (Ex.of s is)
  have hwf := Block.formed_warp (State.formed_blk hs hb) hw
  rw [← hm.dst (Ex.of s is)] at hfits
  simp only [RegInstr.results, RegInstr.readyIn, ← hm.dst (Ex.of s is), ← hm.gn (Ex.of s is), ← hm.gp (Ex.of s is), ← hval,
    ← hsrcs] at hready ⊢
  generalize al (Ex.of s is) = a at *
  rcases hsc : r.sc with _ | _ | _ | n
  all_goals rw [hsc] at hfits
  all_goals simp only [hsc] at hready ⊢
  · rw [Ex.alu_lane hl]
    exact fun l hll => Alu.lanewise_results hb hw hwf hfits hready hll
  · intro t y hc
    rw [Ex.alu_warp hl hc.1]
    exact Alu.atWarp_results hs hb hw hfits hc
  · intro i t y hu hc
    rw [Ex.alu_set hl hu hc.1]
    obtain ⟨j, t', y', hu', hc', hz, hr⟩ := hready
    obtain rfl : j = i := by simpa using hu'.symm.trans hu
    obtain ⟨rfl, rfl⟩ : t' = t ∧ y' = y := by simpa using hc'.1.symm.trans hc.1
    obtain ⟨hpast, hin, hout⟩ := Alu.atSet_results hs hb (Ex.unit_set_lt hu) hfits hc hz hr
    exact ⟨hpast, fun p hp hg => ⟨hin p hp hg, hout⟩⟩
  · intro t y hc
    rw [Ex.alu_block hl n hc.1]
    exact Alu.atBlock_results hs hb hfits hc

/-! ### The shapes of instructions on registers -/

theorem loHalf_setWidth (a : Word) : loHalf (a.setWidth 64) = a := by
  apply BitVec.eq_of_toNat_eq
  have := a.isLt
  simp [loHalf]

theorem View.wide_one (v : View) (c : Nat) : v.wide c 1 = (v.val c).setWidth 64 := rfl

theorem Src.val_own (c : Nat) {n : Nat} (ta : Bool) (v wv : View) : (Src.mk c n ta .own).val v wv = v.wide c n := rfl

/-- B of an instruction that accepts UB (R94). -/
theorem Ex.srcB_val (x : Ex) (b : BitVec 6) (tb : Bool) (v wv : View) :
    (x.srcB b tb).val v wv = ((if x.pf.modOf.ub then wv else v).val b.toNat).setWidth 64 := by
  unfold Ex.srcB
  split <;> rfl

/-- An instruction that runs as a binary one performs its function. -/
theorem RegInstr.binary_performs {c : FormA → Instr} {acc : Acc} {fn : Ex → Word → Word → Word}
    {ev : Ex → Word → Word → List (Nat × Events)} {f : FormA}
    (h : ∀ s, exec (c f) s = Machine.binary f acc (fun x a b => (fn x a b, ev x a b)) s) :
    (RegInstr.binary c acc fn f).performs :=
  RegInstr.Means.performs
    { exec := h, srcs := fun _ => rfl, gn := fun _ => rfl, gp := fun _ => rfl, dst := fun _ => rfl, sized := .inl rfl,
      opd := fun _ => List.mem_cons_self,
      val := fun x v wv => by
        simp only [Alu.out, Option.map_some, Option.getD_some, Src.val_own, View.wide_one, Ex.srcB_val, loHalf_setWidth]
        rfl }

theorem RegInstr.unary_performs {c : FormA1 → Instr} {acc : Acc} {fn : Ex → Word → Word}
    {ev : Ex → Word → List (Nat × Events)} {f : FormA1}
    (h : ∀ s, exec (c f) s = Machine.unary f acc (fun x a => (fn x a, ev x a)) s) :
    (RegInstr.unary c acc fn f).performs :=
  RegInstr.Means.performs
    { exec := h, srcs := fun _ => rfl, gn := fun _ => rfl, gp := fun _ => rfl, dst := fun _ => rfl, sized := .inl rfl,
      opd := fun _ => List.mem_cons_self,
      val := fun x v wv => by
        simp only [Alu.out, Option.map_some, Option.getD_some, Src.val_own, View.wide_one, loHalf_setWidth]
        rfl }

theorem RegInstr.ternary_performs {c : FormA → Instr} {acc : Acc} {n : Nat} (hn : n = 1 ∨ n = 2)
    {fn : Ex → Word → Word → DWord → DWord} {ev : Ex → Word → Word → DWord → List (Nat × Events)} {f : FormA}
    (h : ∀ s, exec (c f) s = Machine.ternary f acc n (fun x a b c => (fn x a b c, ev x a b c)) s) :
    (RegInstr.ternary c acc n fn f).performs :=
  RegInstr.Means.performs
    { exec := h, srcs := fun _ => rfl, gn := fun _ => rfl, gp := fun _ => rfl, dst := fun _ => rfl, sized := hn,
      opd := fun _ => List.mem_cons_self,
      val := fun x v wv => by
        simp only [Alu.out, Option.map_some, Option.getD_some, Src.val_own, View.wide_one, Ex.srcB_val, loHalf_setWidth]
        rfl }

theorem RegInstr.immediate_performs {i : Instr} {sc : BitVec 2} {d a : BitVec 6} {ta : Bool} {used : Nat}
    {fn : Ex → Word → Word}
    (h : ∀ s, exec i s = withImm sc d a ta { imm := if used = 0 then none else some used } fn s) :
    (RegInstr.immediate i sc d a ta used fn).performs :=
  RegInstr.Means.performs
    { exec := h, srcs := fun _ => rfl, gn := fun _ => rfl, gp := fun _ => rfl, dst := fun _ => rfl, sized := .inl rfl,
      opd := fun _ => List.mem_cons_self,
      val := fun x v wv => by
        simp only [Alu.out, Option.map_some, Option.getD_some, Src.val_own, View.wide_one, loHalf_setWidth]
        rfl }

end Sys2Proof.Machine
end

section
/-! PROOFS. The integer families (R187 to R190) and RNDH (R200). -/

namespace Sys2Proof.Machine

/-! ### The integer families (R187 to R190)

The shapes of the integer instructions, each given the model's function `g` and the rule's function `fn`: that the two
agree is the lemma named at each entry, or holds by unfolding, and so does that the instruction is of that shape. -/

theorem intBin_performs {c : FormA → Instr} (g : Word → Word → Word) {fn : Word → Word → Word}
    (hg : ∀ a b, g a b = fn a b := by intros; rfl)
    (hc : ∀ f s, exec (c f) s = intBin f g s := by intros; rfl) (f : FormA) :
    (RegInstr.binary c {} (fun _ => fn) f).performs := by
  obtain rfl : g = fn := funext₂ hg
  exact RegInstr.binary_performs (ev := fun _ _ _ => []) (hc f)

theorem intUn_performs {c : FormA1 → Instr} (g : Word → Word) {fn : Word → Word}
    (hg : ∀ a, g a = fn a := by intros; rfl)
    (hc : ∀ f s, exec (c f) s = intUn f g s := by intros; rfl) (f : FormA1) :
    (RegInstr.unary c {} (fun _ => fn) f).performs := by
  obtain rfl : g = fn := funext hg
  exact RegInstr.unary_performs (ev := fun _ _ => []) (hc f)

theorem mad_performs {c : FormA → Instr} (g : Word → Word → Word → Word) {fn : Word → Word → DWord → DWord}
    (hg : ∀ a b d, (g a b (d.setWidth 32)).setWidth 64 = fn a b d := by intros; rfl)
    (hc : ∀ f s, exec (c f) s = mad f g s := by intros; rfl) (f : FormA) :
    (RegInstr.ternary c {} 1 (fun _ => fn) f).performs := by
  obtain rfl : (fun a b d => (g a b (loHalf d)).setWidth 64) = fn := funext₃ hg
  exact RegInstr.ternary_performs (.inl rfl) (ev := fun _ _ _ _ => []) (hc f)

theorem madWide_performs {c : FormA → Instr} (g : Word → Word → DWord → DWord) {fn : Word → Word → DWord → DWord}
    (hg : ∀ a b d, g a b d = fn a b d := by intros; rfl)
    (hc : ∀ f s, exec (c f) s = madWide f g s := by intros; rfl) (f : FormA) :
    (RegInstr.ternary c {} 2 (fun _ => fn) f).performs := by
  obtain rfl : g = fn := funext₃ hg
  exact RegInstr.ternary_performs (.inr rfl) (ev := fun _ _ _ _ => []) (hc f)

theorem iarith_performs : ∀ p ∈ iarith, ∀ f, (RegInstr.binary p.1 {} (fun _ => p.2) f).performs := by
  simp only [iarith, List.forall_mem_cons]
  exact ⟨intBin_performs (fun a b => a + b),
    intBin_performs (fun a b => a - b),
    intBin_performs (fun a b => a * b),
    intBin_performs (mulHigh true) mulHigh_signed,
    intBin_performs (mulHigh false) mulHigh_unsigned,
    intBin_performs (fun a b => if a.sle b then a else b) fun a b => by
      simp only [BitVec.sle_iff_toInt_le],
    intBin_performs (fun a b => if a.ule b then a else b) fun a b => by
      simp only [BitVec.ule_iff_toNat_le],
    intBin_performs (fun a b => if a.sle b then b else a) fun a b => by
      simp only [BitVec.sle_iff_toInt_le],
    intBin_performs (fun a b => if a.ule b then b else a) fun a b => by
      simp only [BitVec.ule_iff_toNat_le],
    intBin_performs (fun a b => BitVec.ofNat 32 (a.toInt - b.toInt).natAbs) natAbs_sub_eq,
    intBin_performs (fun a b => clamp32 (a.toInt + b.toInt)) (fun a b => clamp32_eq _),
    intBin_performs (fun a b => clamp32 (a.toInt - b.toInt)) (fun a b => clamp32_eq _),
    by simp⟩

theorem logicBinary_performs : ∀ p ∈ logicBinary, ∀ f, (RegInstr.binary p.1 {} (fun _ => p.2) f).performs := by
  have hrot : ∀ b : Word, shiftCount b % 32 = b.toNat % 32 := shiftCount_mod
  simp only [logicBinary, List.forall_mem_cons]
  exact ⟨intBin_performs (fun a b => a &&& b),
    intBin_performs (fun a b => a ||| b),
    intBin_performs (fun a b => a ^^^ b),
    intBin_performs (fun a b => a &&& ~~~b),
    intBin_performs (fun a b => a ||| ~~~b),
    intBin_performs (fun a b => shiftLeft a (shiftCount b)) (fun a b => shiftLeft_eq a _),
    intBin_performs (fun a b => shiftRight a (shiftCount b)) (fun a b => shiftRight_eq a _),
    intBin_performs (fun a b => shiftArith a (shiftCount b)) (fun a b => shiftArith_eq a _),
    intBin_performs (fun a b => rotLeft a (shiftCount b)) (fun a b => by rw [rotLeft_eq, hrot]),
    intBin_performs (fun a b => rotRight a (shiftCount b)) (fun a b => by rw [rotRight_eq, hrot]),
    intBin_performs (extractField false) extractField_unsigned,
    intBin_performs (extractField true) extractField_signed,
    by simp⟩

theorem logicUnary_performs : ∀ p ∈ logicUnary, ∀ f, (RegInstr.unary p.1 {} (fun _ => p.2) f).performs := by
  simp only [logicUnary, List.forall_mem_cons]
  exact ⟨intUn_performs (fun a => BitVec.ofNat 32 (popcount a)),
    intUn_performs (fun a => BitVec.ofNat 32 (leadingZeros a)) fun a =>
      congrArg (BitVec.ofNat 32) (leadingZeros_eq a),
    intUn_performs reverseBits reverseBits_eq,
    by simp⟩

theorem bfi_performs (f : FormA) : (bfiInstr f).performs :=
  RegInstr.Means.performs (al := fun x =>
      { a := some ⟨f.a.toNat, 1, f.ta, .own⟩, b := some (x.srcB f.b f.tb), d := some ⟨f.d.toNat, 1, false, .own⟩,
        dst := .reg f.d.toNat 1,
        fn := fun a b _ d => ⟨(insertField (loHalf a) (loHalf b) (loHalf d)).setWidth 64, []⟩ })
    { exec := fun _ => rfl, srcs := fun _ => rfl, gn := fun _ => rfl, gp := fun _ => rfl, dst := fun _ => rfl,
      sized := .inl rfl, opd := fun _ => List.mem_cons_self,
      val := fun x v wv => by
        simp only [Alu.out, Option.map_some, Option.getD_some, Src.val_own, View.wide_one, Ex.srcB_val, loHalf_setWidth,
          bfiInstr]
        refine congrArg (BitVec.setWidth 64) (BitVec.eq_of_getLsbD_eq fun i hi => ?_)
        rw [getLsbD_insertField _ _ _ hi, getLsbD_maskOf _ hi] }

theorem imadOps_performs : ∀ p ∈ imadOps, ∀ f, (RegInstr.ternary p.1 {} p.2.1 (fun _ => p.2.2) f).performs := by
  simp only [imadOps, List.forall_mem_cons]
  exact ⟨mad_performs (fun a b c => a * b + c),
    mad_performs (fun a b c => mulHigh true a b + c) (fun a b d => by rw [mulHigh_signed]),
    mad_performs (fun a b c => mulHigh false a b + c) (fun a b d => by rw [mulHigh_unsigned]),
    madWide_performs (fun a b c => a.signExtend 64 * b.signExtend 64 + c) (fun a b d => by rw [signExtend_mul_eq]),
    madWide_performs (fun a b c => a.setWidth 64 * b.setWidth 64 + c) (fun a b d => by rw [setWidth_mul_eq]),
    mad_performs (fun a b c => c + BitVec.ofInt 32 (dot 8 true a b)) (fun a b d => by
      rw [dot_eq_dotOf (by decide)]),
    mad_performs (fun a b c => c + BitVec.ofInt 32 (dot 8 false a b)) (fun a b d => by
      rw [dot_eq_dotOf (by decide)]),
    mad_performs (fun a b c => c + BitVec.ofInt 32 (dot 4 true a b)) (fun a b d => by
      rw [dot_eq_dotOf (by decide)]),
    mad_performs (fun a b c => c + BitVec.ofInt 32 (dot 4 false a b)) (fun a b d => by
      rw [dot_eq_dotOf (by decide)]),
    by simp⟩

theorem shiftImm_performs {c : FormSh → Instr} (g : Word → Nat → Word) {fn : FormSh → Word → Word}
    (hg : ∀ f a, g a f.imm.toNat = fn f a)
    (hc : ∀ f s, exec (c f) s = shiftImm f g s := by intros; rfl) (f : FormSh) :
    (RegInstr.immediate (c f) f.sc f.d f.a f.ta 0 fun _ => fn f).performs := by
  rw [← funext (hg f)]
  exact RegInstr.immediate_performs (hc f)

theorem shiftImms_performs : ∀ p ∈ shiftImms, ∀ f : FormSh,
    (RegInstr.immediate (p.1 f) f.sc f.d f.a f.ta 0 fun _ a => p.2 a f.imm.toNat).performs := by
  simp only [shiftImms, List.forall_mem_cons]
  exact ⟨shiftImm_performs shiftLeft fun f a => shiftLeft_eq_shl a _,
    shiftImm_performs shiftRight fun f a => shiftRight_eq_ushr a _,
    shiftImm_performs shiftArith fun f a => shiftArith_eq_sshiftRight a _,
    shiftImm_performs rotLeft fun f a => by rw [rotLeft_eq, Nat.mod_eq_of_lt f.imm.isLt],
    by simp⟩

theorem opImms_performs : ∀ p ∈ opImms, ∀ f : FormS,
    (RegInstr.immediate (p.1 f) f.sc f.d f.a f.ta 22
      fun x a => p.2.2 a (immOf x.pf f.imm.toNat 8 22 p.2.1)).performs := by
  simp only [opImms, List.forall_mem_cons]
  exact ⟨fun _ => RegInstr.immediate_performs fun _ => rfl, fun _ => RegInstr.immediate_performs fun _ => rfl,
    fun _ => RegInstr.immediate_performs fun _ => rfl, fun _ => RegInstr.immediate_performs fun _ => rfl,
    by simp⟩

theorem iaddi_performs (f : FormI) : (RegInstr.immediate (.iaddi f) f.sc f.d f.a f.ta 21
    fun x a => a + immOf x.pf f.imm.toNat 11 21 true).performs := RegInstr.immediate_performs fun _ => rfl

theorem movi_performs (f : FormV) : (moviInstr f).performs :=
  RegInstr.Means.performs (al := fun x =>
      { dst := .reg f.d.toNat 1, fn := fun _ _ _ _ => ⟨(immOf x.pf f.imm.toNat 18 14 true).setWidth 64, []⟩ })
    { exec := fun _ => rfl, srcs := fun _ => rfl, gn := fun _ => rfl, gp := fun _ => rfl, dst := fun _ => rfl,
      sized := .inl rfl, opd := fun _ => List.mem_cons_self, val := fun _ _ _ => rfl }

theorem hash_eq_rndhOf (a b : Word) : hash a b = rndhOf a b := rfl

/-- Settles O4: RNDH runs as a binary instruction, and its function is the hash of R200. -/
theorem rndhResult : Obligations.RndhResult := intBin_performs hash hash_eq_rndhOf

end Sys2Proof.Machine
end

section
/-! PROOFS. Words without a meaning (R113), and the integer statement. -/

namespace Sys2Proof.Machine

/-! ### Traps (R404, R410) -/

theorem Block.trap_places (b : Block) (t : Trap) (ws : List Nat) : (b.trap t ws).warps = b.warps := by
  rw [Block.trap_frame]

theorem State.lane_trap (s : State) (b : Nat) (t : Trap) (ws : List Nat) (c v l : Nat) :
    (s.trap b t ws).lane c v l = s.lane c v l := by
  simp only [State.lane, State.warp, State.trap, State.blk_updBlk]
  split
  · rw [Block.warp, Block.trap_places, Block.warp]
  · rfl

/-- A block that a trap has halted, its handler not yet entered. -/
def State.haltedBy (s : State) (b : Nat) (t : Trap) : Prop := ∃ h, (s.blk b).halt = some h ∧ h.trap = t ∧ h.handler = false

theorem State.trap_halts {s : State} {b : Nat} (hb : b < s.blocks.length) (hh : (s.blk b).halt = none) (t : Trap)
    (ws : List Nat) : (s.trap b t ws).haltedBy b t := by
  obtain ⟨h, hhalt, htrap, hhandler, -⟩ := Block.trap_halts hh t ws
  exact ⟨h, by rw [State.trap, State.blk_updBlk_same _ _ _ hb]; exact hhalt, htrap, hhandler⟩

/-- A further trap of a halted block waits behind the first (R410). -/
theorem State.trap_pending {s : State} {b : Nat} {t : Trap} (hb : b < s.blocks.length) (hh : s.haltedBy b t) (u : Trap)
    (ws : List Nat) : (s.trap b u ws).haltedBy b t := by
  obtain ⟨h, hhalt, htrap, hhandler⟩ := hh
  rw [State.haltedBy, State.trap, State.blk_updBlk_same _ _ _ hb]
  simp [Block.trap, hhalt, hhandler, htrap]

/-- Traps of some warps, one after another: the first halts the block, and the later ones wait behind it. -/
theorem State.foldl_trap {step : State → Nat → State} {traps : Nat → Option Trap} {b : Nat} {stop : List Nat}
    (hnone : ∀ s w, traps w = none → step s w = s) (hsome : ∀ s w t, traps w = some t → step s w = s.trap b t stop)
    (ws : List Nat) {s : State} (hb : b < s.blocks.length) :
    (∀ c v l, (ws.foldl step s).lane c v l = s.lane c v l) ∧ (∀ t, s.haltedBy b t → (ws.foldl step s).haltedBy b t) ∧
      ((s.blk b).halt = none → (∃ w ∈ ws, traps w ≠ none) →
        ∃ w t, traps w = some t ∧ (ws.foldl step s).haltedBy b t) := by
  induction ws generalizing s with
  | nil => exact ⟨fun _ _ _ => rfl, fun _ h => h, by simp⟩
  | cons w ws ih =>
    rw [List.foldl_cons]
    rcases hw : traps w with _ | t
    · obtain ⟨hlane, hkeep, hfirst⟩ := ih hb
      rw [hnone s w hw]
      refine ⟨hlane, hkeep, fun hh ⟨v, hv, hne⟩ => hfirst hh ?_⟩
      rcases List.mem_cons.1 hv with rfl | hv
      · exact absurd hw hne
      · exact ⟨v, hv, hne⟩
    · obtain ⟨hlane, hkeep, -⟩ := ih (s := s.trap b t stop) (by simpa [State.trap] using hb)
      rw [hsome s w t hw]
      exact ⟨fun c v l => (hlane c v l).trans (State.lane_trap _ _ _ _ _ _ _),
        fun u hu => hkeep u (State.trap_pending hb hu _ _),
        fun hh _ => ⟨w, t, hw, hkeep _ (State.trap_halts hb hh _ _)⟩⟩

/-- The traps of the member warps of a set halt its block with one of them (R406, R410). -/
theorem Ex.memberTraps_halts {x : Ex} {s : State} {y : Inst} {n : List Word}
    {fault : Nat → Option (Cause × Word × DWord)} (hb : x.is.blk < s.blocks.length) (hh : (s.blk x.is.blk).halt = none)
    {w : Nat} (hw : w < y.part.length) (hp : y.part.getD w 0 ≠ 0) (hf : fault w ≠ none) :
    (∀ v l, (x.memberTraps s y n fault).lane x.is.blk v l = s.lane x.is.blk v l) ∧
      ∃ w c f a, fault w = some (c, f, a) ∧
        (x.memberTraps s y n fault).haltedBy x.is.blk (mkTrap w c f (n.getD w 0) a x.runLen) := by
  unfold Ex.memberTraps
  dsimp only
  obtain ⟨hlane, -, hhalts⟩ := State.foldl_trap (b := x.is.blk)
    (traps := fun w => (fault w).map fun q => mkTrap w q.1 q.2.1 (n.getD w 0) q.2.2 x.runLen)
    (stop := (List.range y.part.length).filter fun w => y.part.getD w 0 != 0#32)
    (step := fun s w => match fault w with
      | none => s
      | some (c, f, a) => s.trap x.is.blk (mkTrap w c f (n.getD w 0) a x.runLen)
        ((List.range y.part.length).filter fun w => y.part.getD w 0 != 0#32))
    (fun s w h => by rw [Option.map_eq_none_iff] at h; rw [h])
    (fun s w t h => by obtain ⟨q, hq, rfl⟩ := Option.map_eq_some_iff.1 h; rw [hq])
    ((List.range y.part.length).filter fun w => y.part.getD w 0 != 0#32) hb
  refine ⟨fun v l => hlane _ v l, ?_⟩
  obtain ⟨v, t, ht, hhalt⟩ := hhalts hh ⟨w, List.mem_filter.2 ⟨List.mem_range.2 hw, bne_iff_ne.2 hp⟩, by simpa using hf⟩
  obtain ⟨⟨c, f, a⟩, hq, rfl⟩ := Option.map_eq_some_iff.1 ht
  exact ⟨v, c, f, a, hq, hhalt⟩

/-! ### Words without a meaning (R113) -/

/-- A lane that is needed is a participant (R123). -/
theorem Block.part_of_needed {b : Block} {y : Inst} {w : Nat} (h : (b.needed y).getD w 0 ≠ 0) :
    w < y.part.length ∧ y.part.getD w 0 ≠ 0 := by
  have hlen : w < (b.needed y).length := by
    by_contra hge
    exact h (List.getD_eq_default _ _ (by omega))
  have hboth : w < y.part.length ∧ w < b.warps.length := by
    simpa [Block.needed] using hlen
  refine ⟨hboth.1, fun h0 => h ?_⟩
  rw [List.getD_eq_getElem _ _ hboth.1] at h0
  rw [List.getD_eq_getElem _ _ hlen]
  simp [Block.needed, h0]

/-- ILLEGAL_OP of a wider scope once the participants have gathered: the block is halted by one of their warps, with the
lanes that its rendezvous needs at fault, and no lane has moved (R113, R411). -/
theorem Ex.illegal_wide {s t : State} {is : Issue} {sc code : Nat} {u : RdvUnit} {y : Inst} (hsc : sc ≠ 0)
    (hb : is.blk < s.blocks.length) (hu : (Ex.of s is).unit sc = some u)
    (hout : (Ex.of s is).outsiders u (if code ≤ 11 then code else 15) = 0)
    (h : (Ex.of s is).arrive u (if code ≤ 11 then code else 15) = (t, some y))
    (hn : ((s.blk is.blk).needed y).getD is.warp 0 ≠ 0)
    (hh : (s.blk is.blk).halt = none) :
    ∃ trap, ((Ex.of s is).illegal sc code).haltedBy is.blk trap ∧ trap.cause = .illegalOp ∧
      trap.faultLanes = ((s.blk is.blk).needed y).getD trap.warp 0 ∧
      ∀ v l, (((Ex.of s is).illegal sc code).lane is.blk v l).pc = (s.lane is.blk v l).pc := by
  obtain ⟨hlen, -, hmoved, hplace⟩ := Ex.arrive_moved hb h
  have htb : is.blk < t.blocks.length := hlen ▸ hb
  have hth : (t.blk is.blk).halt = none := hmoved.halt.trans hh
  unfold Ex.illegal
  dsimp only
  rw [if_neg hsc, hu]
  dsimp only
  rw [if_neg (by simp [hout]), Ex.wide_issues h]
  cases u with
  | set i =>
    obtain ⟨hwp, hpart⟩ := Block.part_of_needed hn
    obtain ⟨hlane, w, c, f, a, hf, hhalt⟩ := Ex.memberTraps_halts (x := Ex.of s is) (n := (s.blk is.blk).needed y)
      (fault := fun w => if ((s.blk is.blk).needed y).getD w 0 == 0#32 then none
        else some (.illegalOp, ((s.blk is.blk).needed y).getD w 0, 0)) htb hth hwp hpart (by simpa using hn)
    rw [Option.ite_none_left_eq_some] at hf
    obtain ⟨-, hf⟩ := hf
    simp only [Option.some.injEq, Prod.mk.injEq] at hf
    obtain ⟨rfl, rfl, rfl⟩ := hf
    simp only [Ex.of_is, hmoved.needed]
    exact ⟨_, hhalt, rfl, rfl, fun v l => (congrArg Lane.pc (hlane v l)).trans (hplace v l).1⟩
  | warp w =>
    simp only [State.wideTrap, Ex.neededHere, Ex.of_is, hmoved.needed]
    exact ⟨_, State.trap_halts htb hth _ _, rfl, rfl, fun v l => by rw [State.lane_trap]; exact (hplace v l).1⟩
  | block =>
    simp only [State.wideTrap, Ex.neededHere, Ex.of_is, hmoved.needed]
    exact ⟨_, State.trap_halts htb hth _ _, rfl, rfl, fun v l => by rw [State.lane_trap]; exact (hplace v l).1⟩

/-- A word without a meaning, at the scope and with the mask that it names, raises ILLEGAL_OP. -/
theorem execIllegal_raises {q : State} {is : Issue} (hcur : q.cur = some is) (sc : Nat) (own : Option Nat) :
    q.raisesIllegal is sc (execIllegal sc q own) own := by
  unfold State.raisesIllegal execIllegal
  rw [issuing_selected hcur]
  dsimp only
  split
  · next h0 =>
    subst h0
    rfl
  · next h0 =>
    intro u t y hb hu hout hc _ hn hh
    obtain ⟨trap, ⟨h, hhalt, rfl, -⟩, hcause, hlanes, hplaces⟩ := Ex.illegal_wide h0 hb hu hout hc.1 hn hh
    exact ⟨_, h, rfl, hhalt, hcause, hlanes, hplaces⟩

/-- What executing a word without a meaning does (R90, R113). -/
theorem State.execWord_undecoded {s : State} {w : Word} (hd : decodeWord w = none) (hrun : bits w 26 6 ≠ 0x3F#6) :
    s.execWord w = execIllegal (if bits w 26 6 = 0 then 0 else (bits w 24 2).toNat) s
      (if bits w 26 6 ∈ [0x12#6, 0x13#6, 0x14#6] then some (bits w 2 4).toNat else none) := by
  unfold State.execWord
  rw [hd]
  dsimp only
  rw [if_neg (by simpa using hrun)]
  by_cases h0 : bits w 26 6 = 0
  · simp [h0]
  · by_cases hl : bits w 26 6 ∈ [0x12#6, 0x13#6, 0x14#6]
    · rw [if_neg (by simpa using h0), if_pos (by simpa using hl), if_neg h0, if_pos hl]
    · rw [if_neg (by simpa using h0), if_neg (by simpa using hl), if_neg h0, if_neg hl]

/-- A word that does not decode and joins no run raises ILLEGAL_OP at its scope (R113). -/
theorem wordIllegal_of_undecoded {w : Word} (hd : decodeWord w = none) (hrun : bits w 26 6 ≠ 0x3F#6) : wordIllegal w := by
  intro s s' is e pa hfetch hcur hw
  have hissue : s.perform (.issue is) = (s'.fetched is pa).execWord w := by
    refine State.issue_fetched ?_
    rw [State.lane] at hfetch
    simp only [State.fetch, hfetch, hw]
  rw [hissue, State.execWord_undecoded hd hrun]
  exact execIllegal_raises (by rw [State.fetched_cur]; exact hcur) _ _

theorem decodeWord_iarith_reserved {w : Word} (hmaj : bits w 26 6 = 1) (hfn : 12 ≤ (bits w 0 4).toNat) :
    decodeWord w = none := by
  have hd : decodeWord w = decode01 w := by unfold decodeWord; rw [hmaj]; rfl
  rw [hd]
  unfold decode01
  obtain ⟨k, hk⟩ := Nat.exists_eq_add_of_le' hfn
  rw [hk]
  rfl

theorem decodeWord_imad_reserved {w : Word} (hmaj : bits w 26 6 = 3) (hfn : 9 ≤ (bits w 0 4).toNat) :
    decodeWord w = none := by
  have hd : decodeWord w = decode03 w := by unfold decodeWord; rw [hmaj]; rfl
  rw [hd]
  unfold decode03
  obtain ⟨k, hk⟩ := Nat.exists_eq_add_of_le' hfn
  rw [hk]
  rfl

/-- Settles O1: each instruction runs as one of the shapes of Means.performs, with the function of its rule; a reserved
function code does not decode. -/
theorem integerResults : Obligations.IntegerResults :=
  ⟨⟨iarith_performs, fun _ hmaj hfn =>
      wordIllegal_of_undecoded (decodeWord_iarith_reserved hmaj hfn) (by rw [hmaj]; decide)⟩,
    ⟨logicBinary_performs, logicUnary_performs, bfi_performs⟩,
    ⟨imadOps_performs, fun _ hmaj hfn =>
      wordIllegal_of_undecoded (decodeWord_imad_reserved hmaj hfn) (by rw [hmaj]; decide)⟩,
    ⟨iaddi_performs, shiftImms_performs, opImms_performs, movi_performs⟩⟩

end Sys2Proof.Machine
end
